-- ==== Sys2Proof/Word.lean ====
section
/-! DEFINITION. Word.lean: the machine's word types, register names and the closed sets of names that
instruction fields stand for (spec/03_encoding.md R62 to R68). Encodings of these names stand in Decode.lean. -/

namespace Sys2Proof

/-- Bytes, the 32-bit lane word and the 64-bit scalar word (01 R16). -/
abbrev Byte := BitVec 8
abbrev W32 := BitVec 32
abbrev W64 := BitVec 64

/-- V0 to V511, S0 to S1023, the S0 to S511 a 9-bit field names, P0 to P15, B0 to B15 (02 Table 2-1). -/
abbrev VReg := Fin 512
abbrev SReg := Fin 1024
abbrev SLow := Fin 512
abbrev PReg := Fin 16
abbrev BReg := Fin 16

/-- The guard G of bits [51:47]: `neg` is bit 51, `p` bits [50:47] (00 R9, 03 R62). -/
structure Guard where
  neg : Bool
  p : PReg
  deriving DecidableEq, Repr

/-- G = 0b01111, always (03 R62). -/
def Guard.always : Guard := ⟨false, 15⟩

/-- G = 0b11111, never (03 R62). -/
def Guard.isNever (g : Guard) : Bool := g.neg && g.p == 15

/-- A VR source: a V register, or an S register named through SEL (03 Table 3-4). -/
inductive VSrc
  | v (n : VReg)
  | s (n : SLow)
  deriving DecidableEq, Repr

/-- Integer types of the integer MOD convention (03 Table 3-5). -/
inductive IType
  | i32 | n32 | i64 | n64 | i16x2 | n16x2 | i8x4 | n8x4
  deriving DecidableEq, Repr

/-- The types 0 to 3 that scalar instructions and some vector instructions accept (03 Table 3-5). -/
inductive SType
  | i32 | n32 | i64 | n64
  deriving DecidableEq, Repr

/-- Types of the floating-point MOD convention (03 Table 3-5). -/
inductive FType
  | f64 | f32 | f16 | bf16 | f16x2 | bf16x2
  deriving DecidableEq, Repr

/-- Rounding modes 0 to 4 of 05 Table 5-2. -/
inductive Rnd
  | rne | rtz | rup | rdn | rna
  deriving DecidableEq, Repr

/-- CVT's rounding field: one of the five modes, or stochastic with the register of random bits (03 Table 3-4). -/
inductive CvtRnd
  | mode (r : Rnd)
  | sr (c : VReg)
  deriving DecidableEq, Repr

/-- Type codes for CVT (03 Table 3-6). -/
inductive CType
  | f64 | f32 | f16 | bf16 | e4m3 | e5m2 | e5m3 | i32 | n32 | i64 | n64 | i16 | n16 | i8 | n8
  deriving DecidableEq, Repr

/-- Conditions of ICMP and SCMP (21 R359, 23 R406). -/
inductive ICond
  | eq | ne | lt | le | gt | ge
  deriving DecidableEq, Repr

/-- Conditions of FCMP (21 Table 21-4). -/
inductive FCond
  | eq | ne | lt | le | gt | ge | un | ord
  deriving DecidableEq, Repr

/-- Access widths (03 Table 3-4, WID). -/
inductive Width
  | b1 | b2 | b4 | b8 | b16
  deriving DecidableEq, Repr

/-- The width in bytes. -/
def Width.bytes : Width → Nat
  | .b1 => 1 | .b2 => 2 | .b4 => 4 | .b8 => 8 | .b16 => 16

/-- The five spaces of 08 R143. -/
inductive Space
  | glob | w | a | d | priv
  deriving DecidableEq, Repr

/-- The typed buffers a CPY names (03 Table 3-4, BSP). -/
inductive Buf
  | w | a | d
  deriving DecidableEq, Repr

def Buf.space : Buf → Space
  | .w => .w | .a => .a | .d => .d

/-- Scopes (13 Table 13-1). -/
inductive Scope
  | group | team | device | domain | system
  deriving DecidableEq, Repr

/-- The scope's code, which also orders scopes by inclusion (13 Table 13-1). -/
def Scope.rank : Scope → Nat
  | .group => 0 | .team => 1 | .device => 2 | .domain => 3 | .system => 4

/-- Axes of COORD (06 R122). -/
inductive Axis
  | x | y | z
  deriving DecidableEq, Repr

/-- Fields of PIECE (06 Table 6-3). -/
inductive PField
  | ox | oy | oz | ex | ey | entry | order | idx | gcnt | pcnt | band
  deriving DecidableEq, Repr

/-- Modes of SHFL (23 R408). -/
inductive ShflMode
  | idx | up | down | xor
  deriving DecidableEq, Repr

/-- Forms of VOTE with their destinations (23 R429). -/
inductive VoteDst
  | ballot (d : VReg)
  | any (d : PReg)
  | all (d : PReg)
  | eq (d : PReg)
  deriving DecidableEq, Repr

/-- Types and operations of REDUX and PFX (22 R383). -/
inductive RType
  | f64 | f32 | i32 | n32 | i64 | n64
  deriving DecidableEq, Repr

inductive ROp
  | add | min | max
  deriving DecidableEq, Repr

/-- Forms of S2V and V2S (23 R401, R426) and of VMOVI (23 R428). -/
inductive S2VMode
  | lo | hi | d
  deriving DecidableEq, Repr

inductive V2SMode
  | zx | sx | d
  deriving DecidableEq, Repr

inductive MoviKind
  | i32 | n32 | i64 | n64 | f32
  deriving DecidableEq, Repr

/-- Matrix formats (10 Table 10-3). -/
inductive MFmt
  | f64 | f32 | bf16 | f16 | e4m3 | e5m2 | e4m3e5m2 | e5m2e4m3 | i8 | lx2e4m3 | lx2bf16
  deriving DecidableEq, Repr

/-- MDRAIN's element types (10 R203). -/
inductive DrainCt
  | f32 | bf16 | f64
  deriving DecidableEq, Repr

/-- The clock domains whose frequency can change (01 Table 1-4). -/
inductive ClkDom
  | arith | slice | front
  deriving DecidableEq, Repr

/-- What a peer's request carries: its device; whether it asks to drop a routine whose slot the peer's STREL has freed (12 R218); the operand words
of a stitch or a write; for a stitch the routine in the peer's stitch table, its width and words, none where the slot is free there (12 R214, R216),
and M0 where it is the line form of slot 4 or 5, whose T0 the operand words are (12 R221); and for the replacement of the line (08 R156, 09 R175)
NUD code, cache policy, way class, due stamp, r, and the tag of its team, which a commit of held writes has not. -/
structure PeerReq where
  dev : Nat := 0
  frees : Bool := false
  ops : List W32 := []
  routine : Option (Bool × List Nat) := none
  m0 : Option W32 := none
  tagged : Bool := true
  nud : Nat := 0
  cp : Nat := 0
  wc : Nat := 0
  due : Nat := 0
  r : Nat := 0
  core : Nat := 0
  slot : Nat := 0
  gen : Nat := 0
  deriving DecidableEq, Repr

/-- Whose turn it is to issue in a quadrant: the group at the place `longest`, which has been ready for more than 256 cycles, else the next
in round robin (16 R262). -/
structure Turn where
  quad : Nat := 0
  longest : Nat := 0
  deriving DecidableEq, Repr

end Sys2Proof
end

