-- ==== Sys2Proof/Config.lean ====
section
/-! DEFINITION. Config.lean: what is fixed for the device, and the free values: constants without a body, of which no
proof can know anything, for the values that the spec leaves open. -/

namespace Sys2Proof.Config

/-- The value that CYC of a core shows after so many issues of that core. The spec gives CYC's rate in time and no value at reset
(01 R24, 04 R92); time is not modelled, so the value is free. Log entry 2. -/
opaque cycCount : Nat → Nat → BitVec 64

/-- Whether a P-384 signature verifies under a key: `key`, `message`, `signature` as numbers (19 R292 to R294). The spec
names the algorithm and does not define it. Log entry 15. -/
opaque verifies : Nat → List (BitVec 8) → List (BitVec 8) → Bool

/-- Arithmetic-clock cycles from the start of a piece to the retirement of its last team (06 R128): launch, piece. Time is not
modelled, so the count is free. Log entry 7. -/
opaque pieceCycles : Nat → Nat → Nat

/-- A byte of frozen storage whose place in its read-out space the spec does not lay out: unit, index, byte offset
(19 Table 19-7). Log entry 16. -/
opaque readoutByte : Nat → Nat → Nat → BitVec 8

/-- Bytes of a unit's read-out space past the parts that Table 19-7 sizes. Log entry 16. -/
opaque readoutMore : Nat → Nat

/-- MHz to which the power manager lowers the arithmetic clock when a limit is reached (01 R24, 19 R296). Log entry 7. -/
opaque tripMhz : Nat → Nat

/-- A word that a lane of a STCH receives with machine-check status (12 R222). Log entry 66. -/
opaque checkWord : Nat → BitVec 32

/-- The management island's own public key, against which the configuration record is verified (19 R292). Log entry 15. -/
opaque islandKey : Nat

/-- The reply of host memory to a request is memory of the model; only the byte that memory nobody has written reads as
is named here: zero. Log entry 1. -/
def blankByte : BitVec 8 := 0

/-- Numbers of parts (01 R12 to R16). -/
def cores : Nat := 192
def clusterSize : Nat := 8
def dieClusters : Nat := 6
def quadrants : Nat := 4
def teamSlots : Nat := 32
def residentGroups : Nat := 64
def queueSlots : Nat := 64
def maxQueues : Nat := 4096
def ringPool : Nat := 128
def commitSlots : Nat := 512
def icacheWords : Nat := 16384
def l2Slices : Nat := 64
def teamTable : Nat := 128
def cinchEntries : Nat := 64

/-- The way class of an MSC way below the shadow ways: firmware gives each class at least one way (01 R20). Log entry 23. -/
def wayClass (way : Nat) : Nat := way % 8

/-- log2 of the records of a cell's fault ring; firmware chooses 6 to 12 (17 R270). Log entry 3. -/
def faultRingLog : Nat := 6

/-- The firmware state-table version a device boots with (19 Table 19-1 gives no reset value). Log entry 3. -/
def firmwareVersion : Nat := 1

end Sys2Proof.Config
end

