-- ==== Sys2Proof/Syntax.lean ====
section
/-! DEFINITION. Syntax.lean: Instr, one constructor per row of spec/opcode_table.json, in the table's order: the Adlor
instructions (03 Table 3-7), the stitch operations (12 Table 12-4) and the events of the part
(95_what_each_step_holds.md: each row is one whole, indivisible step). An event's arguments name the unit it happens to
and what comes from outside. -/

namespace Sys2Proof

inductive Instr
  -- control (opcodes 0x00 to 0x0B)
  | nop (g : Guard)
  | bra (g : Guard) (off : BitVec 29)
  | brd (g : Guard) (toff joff : BitVec 22)
  | join (g : Guard)
  | call (g : Guard) (off : BitVec 29)
  | callReg (g : Guard) (sl : SReg)
  | ret (g : Guard) (sl : SReg)
  | exit (g : Guard)
  | exitNext (g : Guard) (sl : SReg)
  | yield (g : Guard) (b : BReg) (off : BitVec 29)
  | trap (code : BitVec 16)
  | bkpt (g : Guard)
  | stka (n : BitVec 32)
  | launch (d a : SReg)
  -- scalar (0x10 to 0x1B)
  | smov (d a : SReg)
  | smovi (d : SReg) (imm : BitVec 32)
  | smoviU (d : SReg) (imm : BitVec 32)
  | smoviHi (d : SReg) (imm : BitVec 32)
  | sadd (ty : SType) (sat : Bool) (d a b : SReg)
  | ssub (ty : SType) (sat : Bool) (d a b : SReg)
  | saddi (d : SReg) (imm : BitVec 32)
  | saddiHi (d : SReg) (imm : BitVec 32)
  | saddiReg (d a : SReg) (imm : BitVec 22)
  | smul (ty : SType) (sat : Bool) (d a b : SReg)
  | smulh (ty : SType) (d a b : SReg)
  | sdiv (la : Fin 16) (ty : SType) (sat : Bool) (d a b : SReg)
  | srem (la : Fin 16) (ty : SType) (d a b : SReg)
  | sand (ty : SType) (d a b : SReg)
  | sor (ty : SType) (d a b : SReg)
  | sxor (ty : SType) (d a b : SReg)
  | sshl (ty : SType) (sat : Bool) (d a b : SReg)
  | sshr (ty : SType) (d a b : SReg)
  | ssar (ty : SType) (d a b : SReg)
  | smin (ty : SType) (d a b : SReg)
  | smax (ty : SType) (d a b : SReg)
  | scmp (ty : SType) (c : ICond) (d : PReg) (a b : SReg)
  | ssel (p : PReg) (d a b : SReg)
  | spopc (ty : SType) (d a : SReg)
  | sclz (ty : SType) (d a : SReg)
  -- vector integer (0x20 to 0x2D)
  | iadd (g : Guard) (ty : IType) (sat : Bool) (d : VReg) (a b : VSrc)
  | isub (g : Guard) (ty : IType) (sat : Bool) (d : VReg) (a b : VSrc)
  | iaddi (g : Guard) (ty : SType) (sat : Bool) (d a : VReg) (imm : BitVec 24)
  | imul (g : Guard) (ty : IType) (sat : Bool) (d : VReg) (a b : VSrc)
  | imulh (g : Guard) (ty : IType) (d : VReg) (a b : VSrc)
  | imad (g : Guard) (ty : IType) (sat : Bool) (d : VReg) (a b c : VSrc)
  | imin (g : Guard) (ty : IType) (d : VReg) (a b : VSrc)
  | imax (g : Guard) (ty : IType) (d : VReg) (a b : VSrc)
  | iclamp (g : Guard) (ty : IType) (d : VReg) (a b c : VSrc)
  | iabs (g : Guard) (ty : IType) (sat : Bool) (d : VReg) (a : VSrc)
  | ineg (g : Guard) (ty : IType) (sat : Bool) (d : VReg) (a : VSrc)
  | iand (g : Guard) (ty : IType) (d : VReg) (a b : VSrc)
  | ior (g : Guard) (ty : IType) (d : VReg) (a b : VSrc)
  | ixor (g : Guard) (ty : IType) (d : VReg) (a b : VSrc)
  | iandn (g : Guard) (ty : IType) (d : VReg) (a b : VSrc)
  | ishl (g : Guard) (ty : IType) (sat : Bool) (d : VReg) (a b : VSrc)
  | ishr (g : Guard) (ty : IType) (d : VReg) (a b : VSrc)
  | isar (g : Guard) (ty : IType) (d : VReg) (a b : VSrc)
  | icmp (g : Guard) (ty : SType) (c : ICond) (d : PReg) (a b : VSrc)
  | isel (g : Guard) (ty : SType) (p : PReg) (d : VReg) (a b : VSrc)
  | ipopc (g : Guard) (ty : IType) (d : VReg) (a : VSrc)
  | iclz (g : Guard) (ty : IType) (d : VReg) (a : VSrc)
  | ibfx (g : Guard) (ty : SType) (d : VReg) (a c : VSrc)
  | ibfi (g : Guard) (ty : SType) (d : VReg) (a b c : VSrc)
  | idiv (g : Guard) (la : Fin 16) (ty : SType) (sat : Bool) (d : VReg) (a b : VSrc)
  | irem (g : Guard) (la : Fin 16) (ty : SType) (d : VReg) (a b : VSrc)
  -- floating point (0x40 to 0x4C)
  | fadd (g : Guard) (ty : FType) (rm : Rnd) (d : VReg) (a b : VSrc)
  | fsub (g : Guard) (ty : FType) (rm : Rnd) (d : VReg) (a b : VSrc)
  | fmul (g : Guard) (ty : FType) (rm : Rnd) (d : VReg) (a b : VSrc)
  | ffma (g : Guard) (ty : FType) (rm : Rnd) (np : Bool) (d : VReg) (a b c : VSrc)
  | fmin (g : Guard) (ty : FType) (d : VReg) (a b : VSrc)
  | fmax (g : Guard) (ty : FType) (d : VReg) (a b : VSrc)
  | fcmp (g : Guard) (ty : FType) (c : FCond) (d : PReg) (a b : VSrc)
  | fabs (g : Guard) (ty : FType) (d : VReg) (a : VSrc)
  | fneg (g : Guard) (ty : FType) (d : VReg) (a : VSrc)
  | frcp (g : Guard) (la : Fin 16) (ty : FType) (rm : Rnd) (d : VReg) (a : VSrc)
  | frsq (g : Guard) (la : Fin 16) (ty : FType) (rm : Rnd) (d : VReg) (a : VSrc)
  | fsqrt (g : Guard) (la : Fin 16) (ty : FType) (rm : Rnd) (d : VReg) (a : VSrc)
  | fdiv (g : Guard) (la : Fin 16) (ty : FType) (rm : Rnd) (d : VReg) (a b : VSrc)
  | fex2 (g : Guard) (la : Fin 16) (ty : FType) (rm : Rnd) (d : VReg) (a : VSrc)
  | flg2 (g : Guard) (la : Fin 16) (ty : FType) (rm : Rnd) (d : VReg) (a : VSrc)
  | fsin (g : Guard) (la : Fin 16) (ty : FType) (rm : Rnd) (d : VReg) (a : VSrc)
  | fcos (g : Guard) (la : Fin 16) (ty : FType) (rm : Rnd) (d : VReg) (a : VSrc)
  | fclass (g : Guard) (ty : FType) (d : VReg) (a : VSrc)
  | fldex (g : Guard) (ty : FType) (rm : Rnd) (d : VReg) (a b : VSrc)
  -- conversion (0x50 to 0x54)
  | cvt (g : Guard) (dst src : CType) (rm : CvtRnd) (d a : VReg)
  | cvti (g : Guard) (ty : SType) (tof : Bool) (d a : VReg) (n : BitVec 24)
  | bscal (g : Guard) (dbl : Bool) (rm : Rnd) (inv : Bool) (n : Fin 4) (d : VReg) (a b : VSrc)
  | pack (g : Guard) (d : VReg) (a b : VSrc) (c : Option VSrc)
  | unpack (g : Guard) (byte sx : Bool) (e : Fin 4) (d : VReg) (a : VSrc)
  | lxdec (g : Guard) (sc : Option (VSrc × Fin 4)) (bf : Bool) (d : VReg) (a : VSrc)
  -- moves, lanes and predicates (0x60 to 0x69)
  | vmov (g : Guard) (dbl : Bool) (d : VReg) (a : VSrc)
  | vmovi (g : Guard) (k : MoviKind) (d : VReg) (imm : BitVec 24)
  | s2v (g : Guard) (m : S2VMode) (d : VReg) (a : SLow)
  | v2s (g : Guard) (m : V2SMode) (d : SLow) (a : VReg)
  | shfl (g : Guard) (m : ShflMode) (d a : VReg) (b : VSrc)
  | vote (g : Guard) (dst : VoteDst) (inv : Bool) (p : PReg)
  | redux (g : Guard) (la : Fin 16) (ty : RType) (rm : Rnd) (op : ROp) (d : SLow) (a : VReg)
  | pfx (g : Guard) (la : Fin 16) (ty : RType) (rm : Rnd) (op : ROp) (d a : VReg)
  | pand (g : Guard) (na nb : Bool) (d a b : PReg)
  | por (g : Guard) (na nb : Bool) (d a b : PReg)
  | pxor (g : Guard) (na nb : Bool) (d a b : PReg)
  | packp (g : Guard) (hi : Bool) (d : VReg)
  | unpackp (g : Guard) (hi : Bool) (a : VReg)
  -- memory (0x70 to 0x77)
  | ld (g : Guard) (la : Fin 16) (w : Width) (sx : Bool) (sp : Space) (acq : Bool) (sc : Scope) (d av : VReg) (as : SLow) (nud : BitVec 8)
  | st (g : Guard) (w : Width) (sp : Space) (rel : Bool) (sc : Scope) (d av : VReg) (as : SLow) (nud : BitVec 8)
  | sld (la : Fin 16) (w : Width) (sx : Bool) (sp : Space) (acq : Bool) (sc : Scope) (d as : SReg) (nud : BitVec 8) (off : Fin 128)
  | sst (w : Width) (sp : Space) (rel : Bool) (sc : Scope) (d as : SReg) (nud : BitVec 8) (off : Fin 128)
  | cpy (g : Guard) (la : Fin 16) (w : Width) (bsp : Buf) (bar : Option BReg) (bv gv : VReg) (gs : SLow) (nud : BitVec 8)
  | cpyToGlobal (g : Guard) (la : Fin 16) (w : Width) (bsp : Buf) (bar : Option BReg) (bv gv : VReg) (gs : SLow) (nud : BitVec 8)
  | pfch (g : Guard) (la : Fin 16) (w : Width) (sc : Scope) (av : VReg) (as : SLow) (nud : BitVec 8)
  | fence (sc : Scope) (ld st eng : Bool)
  | resize (d a : SReg)
  -- stitch control (0x80 to 0x82)
  | stch (g : Guard) (la : Fin 16) (slot : Fin 256) (sc : Scope) (rv ov av : VReg) (as : SLow)
  | stdef (d a b : SReg)
  | strel (a : SReg)
  -- barriers and rings (0x83 to 0x8C)
  | barinit (b : BReg) (a : SReg)
  | bararr (b : BReg)
  | bararrToken (b : BReg) (d : SReg)
  | barwait (b : BReg)
  | barwaitPhase (b : BReg) (a : SReg)
  | barsync (b : BReg)
  | barkill (b : BReg)
  | barq (b : BReg) (d : SReg)
  | barqCnt (b : BReg) (d : SReg)
  | rnga (j : Fin 8) (a : SReg)
  | rput (j : Fin 8) (a : SReg)
  | rputW (j : Fin 8) (a : SReg)
  | rget (j : Fin 8) (d : SReg)
  | rgetW (j : Fin 8) (d : SReg)
  | rfree (j : Fin 8)
  -- matrix (0x90 to 0x93)
  | mgang (a : SReg)
  | mma (la : Fin 16) (f : MFmt) (sc : Option (VReg × Fin 4)) (zc : Bool) (c bv : VReg) (ds : SReg)
  | mdrain (la : Fin 16) (add toD : Bool) (ct : DrainCt) (sc : Scope) (c : VReg) (ds : SReg) (nud : BitVec 8)
  | mldb (la : Fin 16) (f : MFmt) (fromA : Bool) (bv : VReg) (ds : SReg) (nud : BitVec 8)
  -- special registers, geometry, random numbers (0xA0 to 0xA4)
  | rdsr (sreg : Fin 256) (d : SReg)
  | wrsr (sreg : Fin 256) (a : SReg)
  | coord (g : Guard) (ax : Axis) (d : VReg)
  | piece (f : PField) (d : SReg)
  | rand (g : Guard) (d : VReg)
  -- stitch operations (12 Table 12-4)
  | wmov (m : Fin 8) (d : Fin 16) (a : Fin 32) (i : BitVec 10)
  | wadd (m : Fin 8) (d : Fin 16) (a b : Fin 32) (i : BitVec 10)
  | wsub (m : Fin 8) (d : Fin 16) (a b : Fin 32) (i : BitVec 10)
  | wmin (m : Fin 8) (d : Fin 16) (a b : Fin 32) (i : BitVec 10)
  | wminU (m : Fin 8) (d : Fin 16) (a b : Fin 32) (i : BitVec 10)
  | wmax (m : Fin 8) (d : Fin 16) (a b : Fin 32) (i : BitVec 10)
  | wmaxU (m : Fin 8) (d : Fin 16) (a b : Fin 32) (i : BitVec 10)
  | wand (m : Fin 8) (d : Fin 16) (a b : Fin 32) (i : BitVec 10)
  | wor (m : Fin 8) (d : Fin 16) (a b : Fin 32) (i : BitVec 10)
  | wxor (m : Fin 8) (d : Fin 16) (a b : Fin 32) (i : BitVec 10)
  | wshl (m : Fin 8) (d : Fin 16) (a b : Fin 32) (i : BitVec 10)
  | wshr (m : Fin 8) (d : Fin 16) (a b : Fin 32) (i : BitVec 10)
  | fwadd (m : Fin 8) (d : Fin 16) (a b : Fin 32) (i : BitVec 10)
  | fwmin (m : Fin 8) (d : Fin 16) (a b : Fin 32) (i : BitVec 10)
  | fwmax (m : Fin 8) (d : Fin 16) (a b : Fin 32) (i : BitVec 10)
  | wcmpEq (m : Fin 8) (d : Fin 16) (a b : Fin 32) (i : BitVec 10)
  | wcmpNe (m : Fin 8) (d : Fin 16) (a b : Fin 32) (i : BitVec 10)
  | wcmpLt (m : Fin 8) (d : Fin 16) (a b : Fin 32) (i : BitVec 10)
  | wcmpLtu (m : Fin 8) (d : Fin 16) (a b : Fin 32) (i : BitVec 10)
  | wcmpLe (m : Fin 8) (d : Fin 16) (a b : Fin 32) (i : BitVec 10)
  | wcmpLeu (m : Fin 8) (d : Fin 16) (a b : Fin 32) (i : BitVec 10)
  | wsel (k : Fin 8) (d : Fin 16) (a b : Fin 32) (i : BitVec 10)
  | wset (d : Fin 16) (a b : Fin 32) (i : BitVec 10)
  | commit (n : Fin 16) (a : Fin 32) (i : BitVec 10)
  | abort (n : Fin 16) (a : Fin 32) (i : BitVec 10)
  -- events of a core: (core, slot, gid) name a group, seq one of its pending operations
  | clauseHeaderIssue
  | issueSelect (core : Nat) (turn : Turn)
  | loadComplete (core slot gid seq : Nat) (lanes : W32)
  | storePerformed (core slot gid seq : Nat) (lanes : W32)
  | arithComplete (core slot gid seq : Nat)
  | copyComplete (core slot gid seq : Nat)
  | bararrArrival (core slot gid seq : Nat)
  | barsyncArrival (core slot gid : Nat)
  | ringReevaluate (core slot gid : Nat)
  | rputPlacement (core slot gid : Nat)
  | mmaRendezvous (core slot gid : Nat)
  | matrixComplete (core slot gid seq : Nat)
  | mdrainComplete (core slot gid seq : Nat)
  | mdrainLineInvocation (core slot gid seq line : Nat)
  | stitchInvocation (core slot gid seq lane : Nat)
  | stchComplete (core slot gid seq : Nat)
  -- caches, faults, migration, compaction, parking
  | lineFill
  | cinchUpdate (unit ctx : Nat)
  | faultResolve (core slot gid : Nat)
  | faultRingOverflowClear (cell : Nat)
  | launchEnd (launch : Nat)
  | pageMigrationBegin (ctx va : Nat)
  | pageMigrationCopy (ctx va frame : Nat)
  | pageMigrationEnd (ctx va frame : Nat)
  | compactorMove (core slot : Nat) (buf : Buf) (pos : Nat)
  | forwardingRemove (core idx : Nat)
  | teamPark (core slot : Nat)
  | teamUnpark (core slot : Nat)
  -- the Skiver and the front end
  | chooseBand (launch : Nat)
  | pieceDispatch (launch : Nat)
  | pieceCommit (launch : Nat)
  | commitOverflow (core slot gid : Nat)
  | childLaunchStart (launch : Nat)
  | completionSignal (launch : Nat)
  | spacePacket (slot : Nat)
  | harnessPacket (slot : Nat)
  | waitPacket (slot : Nat)
  | waitReevaluate (slot : Nat)
  | waitRereadTimer (slot : Nat)
  | signalPacket (slot : Nat)
  | cutloadPacket (slot : Nat)
  | stdefPacket (slot : Nat)
  | padPacket (slot : Nat)
  | kick (v : W64)
  | doorbellService (queue : Nat)
  | queueMap (queue : Nat)
  | priorityAgeing (queue : Nat)
  | queueSramError (queue : Nat)
  | deplost (queue : Nat)
  | firmwareLiveUpdate (version : Nat)
  -- pre-emption
  | preemption (cell : Nat)
  | haltReported (cell : Nat)
  | contextSave (cell : Nat)
  | contextRestore (image cell : Nat) (places : List (Nat × Nat))
  | shadowImageMove (image : Nat) (toOverflow : Bool)
  -- host commands: a write of CMD, with CMDARG as it stands
  | create
  | end_
  | clock
  | clockModeChange
  | freeze
  | negotiate
  | ctxnew
  | ctxend
  | ctxinv
  | resume
  | destroy
  | readout
  | registerWrite (off : Nat) (v : W64)
  | bar2Access (write : Bool) (off bytes : Nat) (v : W64)
  -- links, liveness, management, power, boot
  | linkRequest (write stitch : Bool) (ctxSlot pa bytes : Nat) (req : PeerReq)
  | peerTimeout (dev core slot gid : Nat)
  | heartbeat
  | heartbeatSilence (dev : Nat)
  | resetRequest (from_ : Nat) (sig : List Byte)
  | freezeRequest (key : Nat) (from_ : Nat) (sig : List Byte)
  | thermalTrip
  | powerLimit (arith slice : Nat)
  | clockChange (dom : ClkDom) (die mhz : Nat)
  | boot (rec_ : List Byte)
  | nonInstructionWord (w : W64)
  | coreStorageError (core slot gid : Nat)
  | linkPortTraining (port version lowest : Nat)
  | linkLevelRetry (port : Nat)
  deriving DecidableEq, Repr

end Sys2Proof
end

