-- ==== Sys2Proof/WellFormed.lean ====
section
/-! DEFINITION. WellFormed.lean: the limits on an instruction's operands that its type does not already express: pairs
and quads (03 R65), the types and flags that Tables 21-1, 21-8 and 23-1 give each mnemonic, and the field limits of
03 Table 3-4. A 64-bit word whose fields give an instruction that is not well-formed raises an illegal-instruction fault. -/

namespace Sys2Proof

/-- 64-bit elements (03 Table 3-5). -/
def IType.dbl : IType → Bool
  | .i64 => true | .n64 => true | _ => false
def SType.dbl : SType → Bool
  | .i64 => true | .n64 => true | _ => false
def FType.dbl : FType → Bool
  | .f64 => true | _ => false
def CType.dbl : CType → Bool
  | .f64 => true | .i64 => true | .n64 => true | _ => false
def RType.dbl : RType → Bool
  | .f64 => true | .i64 => true | .n64 => true | _ => false

/-- The types 0 to 3 of the integer convention. -/
def IType.isWhole : IType → Bool
  | .i32 => true | .n32 => true | .i64 => true | .n64 => true | _ => false

/-- The signed types 0, 2, 4, 6 (21 Table 21-8, IABS). -/
def IType.isSigned : IType → Bool
  | .i32 => true | .i64 => true | .i16x2 => true | .i8x4 => true | _ => false

/-- Types 0 to 3 of the floating-point convention: one element a lane. -/
def FType.isScalar : FType → Bool
  | .f16x2 => false | .bf16x2 => false | _ => true

/-- A register that stands for a pair is even (03 R65). -/
def pairOk (dbl : Bool) (r : VReg) : Bool := !dbl || r.val % 2 == 0

/-- A V source of a 64-bit type is even; an S source has no such limit (03 R65). -/
def srcOk (dbl : Bool) : VSrc → Bool
  | .v r => pairOk dbl r
  | .s _ => true

/-- The register base of a memory datum of a width (03 R65). -/
def quadOk (w : Width) (r : VReg) : Bool :=
  match w with
  | .b1 => true | .b2 => true | .b4 => true
  | .b8 => r.val % 2 == 0
  | .b16 => r.val % 4 == 0

/-- SX is 1 only for loads of one or two bytes (03 Table 3-4). -/
def sxOk (w : Width) (sx : Bool) : Bool := !sx || w == .b1 || w == .b2

/-- Rounding 0 only, where there is no rounding step (22 R383). -/
def treeRndOk (ty : RType) (op : ROp) (rm : Rnd) : Bool :=
  rm == .rne || ((ty == .f64 || ty == .f32) && op == .add)

/-- The scale rule of MX (03 Table 3-4, SC). -/
def MFmt.scaleOk (f : MFmt) (sc : Bool) : Bool :=
  match f with
  | .f64 => !sc | .f32 => !sc | .bf16 => !sc | .f16 => !sc | .i8 => !sc
  | .lx2e4m3 => sc | .lx2bf16 => sc
  | .e4m3 => true | .e5m2 => true | .e4m3e5m2 => true | .e5m2e4m3 => true

/-- Whether an instruction obeys the limits of its entry. Stitch words and events have none here: R208 to R210 are
checked by verification (12 R217). -/
def Instr.wf : Instr → Bool
  | .nop _ | .bra _ _ | .brd _ _ _ | .join _ | .call _ _ | .callReg _ _ | .ret _ _ | .exit _ | .exitNext _ _
  | .yield _ _ _ | .bkpt _ | .launch _ _ => true
  | .trap code => decide (256 ≤ code.toNat)                                          -- 23 R425
  | .stka n => n.toNat % 4 == 0                                                       -- 15 R245
  | .smov _ _ | .smovi _ _ | .smoviU _ _ | .smoviHi _ _ | .sadd _ _ _ _ _ | .ssub _ _ _ _ _ | .saddi _ _
  | .saddiHi _ _ | .saddiReg _ _ _ | .smul _ _ _ _ _ | .smulh _ _ _ _ | .sdiv _ _ _ _ _ _ | .srem _ _ _ _ _
  | .sand _ _ _ _ | .sor _ _ _ _ | .sxor _ _ _ _ | .sshl _ _ _ _ _ | .sshr _ _ _ _ | .ssar _ _ _ _
  | .smin _ _ _ _ | .smax _ _ _ _ | .scmp _ _ _ _ _ | .ssel _ _ _ _ | .spopc _ _ _ | .sclz _ _ _ => true
  | .iadd _ t _ d a b | .isub _ t _ d a b | .imul _ t _ d a b | .imulh _ t d a b | .imin _ t d a b | .imax _ t d a b
  | .iand _ t d a b | .ior _ t d a b | .ixor _ t d a b | .iandn _ t d a b | .ishl _ t _ d a b | .ishr _ t d a b
  | .isar _ t d a b => pairOk t.dbl d && srcOk t.dbl a && srcOk t.dbl b
  | .imad _ t _ d a b c | .iclamp _ t d a b c => pairOk t.dbl d && srcOk t.dbl a && srcOk t.dbl b && srcOk t.dbl c
  | .iaddi _ t _ d a _ => pairOk t.dbl d && pairOk t.dbl a
  | .iabs _ t _ d a => t.isSigned && pairOk t.dbl d && srcOk t.dbl a
  | .ineg _ t _ d a | .ipopc _ t d a | .iclz _ t d a => pairOk t.dbl d && srcOk t.dbl a
  | .icmp _ t _ _ a b => srcOk t.dbl a && srcOk t.dbl b
  | .isel _ t _ d a b | .idiv _ _ t _ d a b | .irem _ _ t d a b => pairOk t.dbl d && srcOk t.dbl a && srcOk t.dbl b
  | .ibfx _ t d a _ => pairOk t.dbl d && srcOk t.dbl a
  | .ibfi _ t d a b _ => pairOk t.dbl d && srcOk t.dbl a && srcOk t.dbl b
  | .fadd _ t _ d a b | .fsub _ t _ d a b | .fmul _ t _ d a b | .fmin _ t d a b | .fmax _ t d a b =>
    pairOk t.dbl d && srcOk t.dbl a && srcOk t.dbl b
  | .ffma _ t _ _ d a b c => pairOk t.dbl d && srcOk t.dbl a && srcOk t.dbl b && srcOk t.dbl c
  | .fcmp _ t _ _ a b => t.isScalar && srcOk t.dbl a && srcOk t.dbl b
  | .fabs _ t d a | .fneg _ t d a => pairOk t.dbl d && srcOk t.dbl a
  | .frcp _ _ t _ d a | .frsq _ _ t _ d a | .fsqrt _ _ t _ d a => t.isScalar && pairOk t.dbl d && srcOk t.dbl a
  | .fdiv _ _ t _ d a b => t.isScalar && pairOk t.dbl d && srcOk t.dbl a && srcOk t.dbl b
  | .fex2 _ _ t _ _ _ | .flg2 _ _ t _ _ _ | .fsin _ _ t _ _ _ | .fcos _ _ t _ _ _ => t.isScalar && !t.dbl
  | .fclass _ t _ a => t.isScalar && srcOk t.dbl a
  | .fldex _ t _ d a _ => t.isScalar && pairOk t.dbl d && srcOk t.dbl a
  | .cvt _ dst src _ d a => pairOk dst.dbl d && pairOk src.dbl a                       -- 20 R321
  | .cvti _ t tof d a n =>                                                            -- 20 R324
    decide (-64 ≤ n.toInt) && decide (n.toInt ≤ 64) && (if tof then pairOk t.dbl a else pairOk t.dbl d)
  | .bscal _ dbl _ _ _ d a _ => pairOk dbl d && srcOk dbl a                            -- 20 R313
  | .pack _ _ _ _ _ => true
  | .unpack _ byte _ e _ _ => byte || decide (e.val < 2)                               -- 22 R377
  | .lxdec _ _ bf d _ => if bf then d.val % 4 == 0 else d.val % 8 == 0                 -- 22 R373
  | .vmov _ dbl d a => pairOk dbl d && srcOk dbl a
  | .vmovi _ k d _ => match k with
    | .i64 | .n64 => d.val % 2 == 0
    | .i32 | .n32 | .f32 => true
  | .s2v _ m d _ => pairOk (m == .d) d
  | .v2s _ m _ a => pairOk (m == .d) a
  | .shfl _ _ _ _ _ | .vote _ _ _ _ | .pand _ _ _ _ _ _ | .por _ _ _ _ _ _ | .pxor _ _ _ _ _ _ | .packp _ _ _
  | .unpackp _ _ _ => true
  | .redux _ _ t rm op _ a => pairOk t.dbl a && treeRndOk t op rm
  | .pfx _ _ t rm op d a => pairOk t.dbl a && pairOk t.dbl d && treeRndOk t op rm
  | .ld _ _ w sx _ _ _ d _ _ _ => sxOk w sx && quadOk w d
  | .st _ w _ _ _ d _ _ _ => quadOk w d
  | .sld _ w sx sp _ _ _ _ _ _ => w != .b16 && sp != .priv && sxOk w sx
  | .sst w sp _ _ _ _ _ _ => w != .b16 && sp != .priv
  | .cpy _ _ w bsp _ _ _ _ _ => (w == .b4 || w == .b8 || w == .b16) && bsp != .d       -- Table 3-4, DIR
  | .cpyToGlobal _ _ w _ _ _ _ _ _ => w == .b4 || w == .b8 || w == .b16
  | .pfch _ _ _ _ _ _ _ => true
  | .fence _ l s e => l || s || e
  | .resize _ _ | .stdef _ _ _ | .strel _ => true
  | .stch _ _ _ sc _ _ _ _ => sc != .group
  | .barinit _ _ | .bararr _ | .bararrToken _ _ | .barwait _ | .barwaitPhase _ _ | .barsync _ | .barkill _
  | .barq _ _ | .barqCnt _ _ | .rnga _ _ | .rput _ _ | .rputW _ _ | .rget _ _ | .rgetW _ _ | .rfree _ | .mgang _ => true
  | .mma _ f sc _ c bv ds =>
    f.scaleOk sc.isSome && ds.val != 1023 && pairOk (f == .f64) c && pairOk (f == .f64) bv
  | .mdrain _ add _ ct _ c ds _ => !(add && ct == .bf16) && pairOk (ct == .f64) c && ds.val != 1023    -- 10 R203
  | .mldb _ _ _ _ ds _ => ds.val != 1023                                              -- BV may be odd: log entry 59
  | .rdsr _ _ | .wrsr _ _ | .coord _ _ _ | .piece _ _ | .rand _ _ => true
  | .wmov _ _ _ _ | .wadd _ _ _ _ _ | .wsub _ _ _ _ _ | .wmin _ _ _ _ _ | .wminU _ _ _ _ _ | .wmax _ _ _ _ _
  | .wmaxU _ _ _ _ _ | .wand _ _ _ _ _ | .wor _ _ _ _ _ | .wxor _ _ _ _ _ | .wshl _ _ _ _ _ | .wshr _ _ _ _ _
  | .fwadd _ _ _ _ _ | .fwmin _ _ _ _ _ | .fwmax _ _ _ _ _ | .wcmpEq _ _ _ _ _ | .wcmpNe _ _ _ _ _
  | .wcmpLt _ _ _ _ _ | .wcmpLtu _ _ _ _ _ | .wcmpLe _ _ _ _ _ | .wcmpLeu _ _ _ _ _ | .wsel _ _ _ _ _
  | .wset _ _ _ _ | .commit _ _ _ | .abort _ _ _ => true
  | .clauseHeaderIssue | .issueSelect _ _ | .loadComplete _ _ _ _ _ | .storePerformed _ _ _ _ _
  | .arithComplete _ _ _ _ | .copyComplete _ _ _ _ | .bararrArrival _ _ _ _ | .barsyncArrival _ _ _
  | .ringReevaluate _ _ _ | .rputPlacement _ _ _ | .mmaRendezvous _ _ _ | .matrixComplete _ _ _ _
  | .mdrainComplete _ _ _ _ | .mdrainLineInvocation _ _ _ _ _ | .stitchInvocation _ _ _ _ _ | .stchComplete _ _ _ _
  | .lineFill | .cinchUpdate _ _ | .faultResolve _ _ _ | .faultRingOverflowClear _ | .launchEnd _
  | .pageMigrationBegin _ _ | .pageMigrationCopy _ _ _ | .pageMigrationEnd _ _ _ | .compactorMove _ _ _ _
  | .forwardingRemove _ _ | .teamPark _ _ | .teamUnpark _ _ | .chooseBand _ | .pieceDispatch _ | .pieceCommit _
  | .commitOverflow _ _ _ | .childLaunchStart _ | .completionSignal _ | .spacePacket _ | .harnessPacket _
  | .waitPacket _ | .waitReevaluate _ | .waitRereadTimer _ | .signalPacket _ | .cutloadPacket _ | .stdefPacket _
  | .padPacket _ | .kick _ | .doorbellService _ | .queueMap _ | .priorityAgeing _ | .queueSramError _ | .deplost _
  | .firmwareLiveUpdate _ | .preemption _ | .haltReported _ | .contextSave _ | .contextRestore _ _ _
  | .shadowImageMove _ _ | .create | .end_ | .clock | .clockModeChange | .freeze | .negotiate | .ctxnew | .ctxend
  | .ctxinv | .resume | .destroy | .readout | .registerWrite _ _ | .bar2Access _ _ _ _ | .linkRequest _ _ _ _ _ _
  | .peerTimeout _ _ _ _ | .heartbeat | .heartbeatSilence _ | .resetRequest _ _ | .freezeRequest _ _ _ | .thermalTrip
  | .powerLimit _ _ | .clockChange _ _ _ | .boot _ | .nonInstructionWord _ | .coreStorageError _ _ _
  | .linkPortTraining _ _ _ | .linkLevelRetry _ => true

end Sys2Proof
end

