-- ==== Sys2Proof/Decode.lean ====
section
/-! DEFINITION. Decode.lean: from words to instructions, total, rejecting by name, and after it the encoder. Fields are those
of 03 Tables 3-3 to 3-7 (64-bit words) and 12 Table 12-2 (stitch words). A word is a Nat below 2^64 or 2^32; a field is taken
out by division and remainder, so that arithmetic decides what a decoder reads from what the encoder wrote. -/

namespace Sys2Proof

/-- Why a 64-bit word is no instruction (03 R69, R70): the opcode is unassigned (step 2), or a field breaks R62 to R66
(step 4). -/
inductive Reject
  | opcode
  | field
  deriving DecidableEq, Repr

/-- The clause classes (03 Table 3-1, CLASS). -/
inductive ClauseClass
  | g | m | c
  deriving DecidableEq, Repr

/-- A clause header that passes check 1 of 03 R53. -/
structure Header where
  count : Nat
  cls : ClauseClass
  ldw : Nat
  stw : Nat
  mxw : Nat
  cpw : Nat
  deriving DecidableEq, Repr

/-- `need b x` is `x` where `b` holds. -/
def need {α : Type} (b : Bool) (x : Option α) : Option α := if b then x else none

/-! ## Codes of field values (03 Tables 3-4 to 3-6, and the entries) -/

def vreg (n : Nat) : VReg := ⟨n % 512, Nat.mod_lt _ (by decide)⟩
def sreg (n : Nat) : SReg := ⟨n % 1024, Nat.mod_lt _ (by decide)⟩
def slow (n : Nat) : SLow := ⟨n % 512, Nat.mod_lt _ (by decide)⟩
def preg (n : Nat) : PReg := ⟨n % 16, Nat.mod_lt _ (by decide)⟩
def fin4 (n : Nat) : Fin 4 := ⟨n % 4, Nat.mod_lt _ (by decide)⟩
def fin8 (n : Nat) : Fin 8 := ⟨n % 8, Nat.mod_lt _ (by decide)⟩
def fin16 (n : Nat) : Fin 16 := ⟨n % 16, Nat.mod_lt _ (by decide)⟩
def fin32 (n : Nat) : Fin 32 := ⟨n % 32, Nat.mod_lt _ (by decide)⟩
def fin128 (n : Nat) : Fin 128 := ⟨n % 128, Nat.mod_lt _ (by decide)⟩
def fin256 (n : Nat) : Fin 256 := ⟨n % 256, Nat.mod_lt _ (by decide)⟩

def bit (b : Bool) : Nat := if b then 1 else 0

def Guard.code (g : Guard) : Nat := bit g.neg * 16 + g.p.val
def Guard.ofCode (n : Nat) : Guard := ⟨n / 16 % 2 == 1, preg n⟩

/-- A VR source by its SEL bit. -/
def vsrc (sel n : Nat) : VSrc := if sel == 1 then .s (slow n) else .v (vreg n)
def VSrc.num : VSrc → Nat
  | .v r => r.val | .s r => r.val
def VSrc.sel : VSrc → Nat
  | .v _ => 0 | .s _ => 1

def IType.code : IType → Nat
  | .i32 => 0 | .n32 => 1 | .i64 => 2 | .n64 => 3 | .i16x2 => 4 | .n16x2 => 5 | .i8x4 => 6 | .n8x4 => 7
def IType.ofCode : Nat → Option IType
  | 0 => some .i32 | 1 => some .n32 | 2 => some .i64 | 3 => some .n64 | 4 => some .i16x2 | 5 => some .n16x2
  | 6 => some .i8x4 | 7 => some .n8x4 | _ => none
def SType.code : SType → Nat
  | .i32 => 0 | .n32 => 1 | .i64 => 2 | .n64 => 3
def SType.ofCode : Nat → Option SType
  | 0 => some .i32 | 1 => some .n32 | 2 => some .i64 | 3 => some .n64 | _ => none
def FType.code : FType → Nat
  | .f64 => 0 | .f32 => 1 | .f16 => 2 | .bf16 => 3 | .f16x2 => 4 | .bf16x2 => 5
def FType.ofCode : Nat → Option FType
  | 0 => some .f64 | 1 => some .f32 | 2 => some .f16 | 3 => some .bf16 | 4 => some .f16x2 | 5 => some .bf16x2 | _ => none
def Rnd.code : Rnd → Nat
  | .rne => 0 | .rtz => 1 | .rup => 2 | .rdn => 3 | .rna => 4
def Rnd.ofCode : Nat → Option Rnd
  | 0 => some .rne | 1 => some .rtz | 2 => some .rup | 3 => some .rdn | 4 => some .rna | _ => none
def CType.code : CType → Nat
  | .f64 => 0 | .f32 => 1 | .f16 => 2 | .bf16 => 3 | .e4m3 => 4 | .e5m2 => 5 | .e5m3 => 6 | .i32 => 7 | .n32 => 8 | .i64 => 9
  | .n64 => 10 | .i16 => 11 | .n16 => 12 | .i8 => 13 | .n8 => 14
def CType.ofCode : Nat → Option CType
  | 0 => some .f64 | 1 => some .f32 | 2 => some .f16 | 3 => some .bf16 | 4 => some .e4m3 | 5 => some .e5m2 | 6 => some .e5m3
  | 7 => some .i32 | 8 => some .n32 | 9 => some .i64 | 10 => some .n64 | 11 => some .i16 | 12 => some .n16 | 13 => some .i8
  | 14 => some .n8 | _ => none
def ICond.code : ICond → Nat
  | .eq => 0 | .ne => 1 | .lt => 2 | .le => 3 | .gt => 4 | .ge => 5
def ICond.ofCode : Nat → Option ICond
  | 0 => some .eq | 1 => some .ne | 2 => some .lt | 3 => some .le | 4 => some .gt | 5 => some .ge | _ => none
def FCond.code : FCond → Nat
  | .eq => 0 | .ne => 1 | .lt => 2 | .le => 3 | .gt => 4 | .ge => 5 | .un => 6 | .ord => 7
def FCond.ofCode : Nat → Option FCond
  | 0 => some .eq | 1 => some .ne | 2 => some .lt | 3 => some .le | 4 => some .gt | 5 => some .ge | 6 => some .un
  | 7 => some .ord | _ => none
def Width.code : Width → Nat
  | .b1 => 0 | .b2 => 1 | .b4 => 2 | .b8 => 3 | .b16 => 4
def Width.ofCode : Nat → Option Width
  | 0 => some .b1 | 1 => some .b2 | 2 => some .b4 | 3 => some .b8 | 4 => some .b16 | _ => none
def Space.code : Space → Nat
  | .glob => 0 | .w => 1 | .a => 2 | .d => 3 | .priv => 4
def Space.ofCode : Nat → Option Space
  | 0 => some .glob | 1 => some .w | 2 => some .a | 3 => some .d | 4 => some .priv | _ => none
def Buf.code : Buf → Nat
  | .w => 1 | .a => 2 | .d => 3
def Buf.ofCode : Nat → Option Buf
  | 1 => some .w | 2 => some .a | 3 => some .d | _ => none
def Scope.ofCode : Nat → Option Scope
  | 0 => some .group | 1 => some .team | 2 => some .device | 3 => some .domain | 4 => some .system | _ => none
def Axis.code : Axis → Nat
  | .x => 0 | .y => 1 | .z => 2
def Axis.ofCode : Nat → Option Axis
  | 0 => some .x | 1 => some .y | 2 => some .z | _ => none
def PField.code : PField → Nat
  | .ox => 0 | .oy => 1 | .oz => 2 | .ex => 3 | .ey => 4 | .entry => 5 | .order => 6 | .idx => 7 | .gcnt => 8 | .pcnt => 9
  | .band => 10
def PField.ofCode : Nat → Option PField
  | 0 => some .ox | 1 => some .oy | 2 => some .oz | 3 => some .ex | 4 => some .ey | 5 => some .entry | 6 => some .order
  | 7 => some .idx | 8 => some .gcnt | 9 => some .pcnt | 10 => some .band | _ => none
def ShflMode.code : ShflMode → Nat
  | .idx => 0 | .up => 1 | .down => 2 | .xor => 3
def ShflMode.ofCode : Nat → Option ShflMode
  | 0 => some .idx | 1 => some .up | 2 => some .down | 3 => some .xor | _ => none
def RType.code : RType → Nat
  | .f64 => 0 | .f32 => 1 | .i32 => 2 | .n32 => 3 | .i64 => 4 | .n64 => 5
def RType.ofCode : Nat → Option RType
  | 0 => some .f64 | 1 => some .f32 | 2 => some .i32 | 3 => some .n32 | 4 => some .i64 | 5 => some .n64 | _ => none
def ROp.code : ROp → Nat
  | .add => 0 | .min => 1 | .max => 2
def ROp.ofCode : Nat → Option ROp
  | 0 => some .add | 1 => some .min | 2 => some .max | _ => none
def S2VMode.code : S2VMode → Nat
  | .lo => 0 | .hi => 1 | .d => 2
def S2VMode.ofCode : Nat → Option S2VMode
  | 0 => some .lo | 1 => some .hi | 2 => some .d | _ => none
def V2SMode.code : V2SMode → Nat
  | .zx => 0 | .sx => 1 | .d => 2
def V2SMode.ofCode : Nat → Option V2SMode
  | 0 => some .zx | 1 => some .sx | 2 => some .d | _ => none
/-- MOD [46:42] of VMOVI: type [46:44], SAT zero, [42] `.f32` with type 0 only (23 R428). -/
def MoviKind.code : MoviKind → Nat
  | .i32 => 0 | .n32 => 4 | .i64 => 8 | .n64 => 12 | .f32 => 1
def MoviKind.ofCode : Nat → Option MoviKind
  | 0 => some .i32 | 4 => some .n32 | 8 => some .i64 | 12 => some .n64 | 1 => some .f32 | _ => none
def MFmt.code : MFmt → Nat
  | .f64 => 0 | .f32 => 1 | .bf16 => 2 | .f16 => 3 | .e4m3 => 4 | .e5m2 => 5 | .e4m3e5m2 => 6 | .e5m2e4m3 => 7 | .i8 => 8
  | .lx2e4m3 => 9 | .lx2bf16 => 10
def MFmt.ofCode : Nat → Option MFmt
  | 0 => some .f64 | 1 => some .f32 | 2 => some .bf16 | 3 => some .f16 | 4 => some .e4m3 | 5 => some .e5m2
  | 6 => some .e4m3e5m2 | 7 => some .e5m2e4m3 | 8 => some .i8 | 9 => some .lx2e4m3 | 10 => some .lx2bf16 | _ => none
def DrainCt.code : DrainCt → Nat
  | .f32 => 0 | .bf16 => 1 | .f64 => 2
def DrainCt.ofCode : Nat → Option DrainCt
  | 0 => some .f32 | 1 => some .bf16 | 2 => some .f64 | _ => none

/-! ## Opcodes (03 Table 3-7) -/

/-- Assigned opcodes; the others are those of 03 Table 3-8. -/
def opAssigned (op : Nat) : Bool :=
  decide (op ≤ 0x0B) || decide (0x10 ≤ op ∧ op ≤ 0x1B) || decide (0x20 ≤ op ∧ op ≤ 0x2D) || decide (0x40 ≤ op ∧ op ≤ 0x4C)
    || decide (0x50 ≤ op ∧ op ≤ 0x54) || decide (0x60 ≤ op ∧ op ≤ 0x69) || decide (0x70 ≤ op ∧ op ≤ 0x77)
    || decide (0x80 ≤ op ∧ op ≤ 0x8C) || decide (0x90 ≤ op ∧ op ≤ 0x93) || decide (0xA0 ≤ op ∧ op ≤ 0xA4)

/-- Opcodes whose instructions are long-latency, the only ones that accept a nonzero LA (03 R68). -/
def opLong (op : Nat) : Bool :=
  [0x15, 0x2D, 0x46, 0x47, 0x48, 0x49, 0x4A, 0x66, 0x67, 0x70, 0x72, 0x74, 0x75, 0x80, 0x91, 0x92, 0x93].contains op

/-- Opcodes of the formats SR, SI, SM, MX, MD, ML, BS and SY, whose guard must be always (03 R63). -/
def opAlways (op : Nat) : Bool :=
  [0x08, 0x0A, 0x0B, 0x72, 0x73, 0x76, 0x77, 0xA0, 0xA1, 0xA3].contains op || decide (0x10 ≤ op ∧ op ≤ 0x1B)
    || decide (0x81 ≤ op ∧ op ≤ 0x8C) || decide (0x90 ≤ op ∧ op ≤ 0x93)

/-- The class of an opcode (03 Table 3-7). -/
def opClass (op : Nat) : ClauseClass :=
  if 0x90 ≤ op ∧ op ≤ 0x93 then .m else if op = 0x74 then .c else .g

/-! ## Formats (03 Table 3-3) -/

/-- Format VR, with the parts of MOD that its conventions name (Table 3-5). -/
structure VR where
  mod : Nat
  d : Nat
  a : Nat
  b : Nat
  c : Nat
  sel : Nat

def VR.of (w : Nat) : VR :=
  ⟨w / 2 ^ 39 % 256, w / 2 ^ 30 % 512, w / 2 ^ 21 % 512, w / 2 ^ 12 % 512, w / 8 % 512, w % 8⟩
def VR.ty (f : VR) : Nat := f.mod / 32
def VR.sat (f : VR) : Bool := f.mod / 16 % 2 == 1
def VR.sub (f : VR) : Nat := f.mod % 16
def VR.rm (f : VR) : Nat := f.mod / 4 % 8
def VR.flags (f : VR) : Nat := f.mod % 4
def VR.D (f : VR) : VReg := vreg f.d
def VR.A (f : VR) : VSrc := vsrc (f.sel / 4) f.a
def VR.B (f : VR) : VSrc := vsrc (f.sel / 2 % 2) f.b
def VR.C (f : VR) : VSrc := vsrc (f.sel % 2) f.c
/-- Fields that an instruction does not use are zero (R64). -/
def VR.noC (f : VR) : Bool := f.c == 0 && f.sel % 2 == 0
def VR.noB (f : VR) : Bool := f.b == 0 && f.sel / 2 % 2 == 0

/-- Format SR. -/
structure SR where
  mod : Nat
  d : Nat
  a : Nat
  b : Nat
  z : Nat

def SR.of (w : Nat) : SR := ⟨w / 2 ^ 39 % 256, w / 2 ^ 29 % 1024, w / 2 ^ 19 % 1024, w / 2 ^ 9 % 1024, w % 512⟩
def SR.ty (f : SR) : Nat := f.mod / 32
def SR.sat (f : SR) : Bool := f.mod / 16 % 2 == 1
def SR.sub (f : SR) : Nat := f.mod % 16

/-! ## The decoder, by opcode family -/

/-- Control, 0x00 to 0x0B (formats Z, CB, CJ, SI, SR). -/
def decControl (op : Nat) (g : Guard) (w : Nat) : Option Instr :=
  let mod := w / 2 ^ 39 % 256
  let sl := w / 2 ^ 29 % 1024
  let off := BitVec.ofNat 29 w
  let noOff := w % 2 ^ 29 == 0
  let low := w % 2 ^ 47
  match op with
  | 0x00 => need (low == 0) (some (.nop g))
  | 0x01 => need (mod == 0 && sl == 0) (some (.bra g off))
  | 0x02 => need (w / 2 ^ 44 % 8 == 0) (some (.brd g (BitVec.ofNat 22 (w / 2 ^ 22)) (BitVec.ofNat 22 w)))
  | 0x03 => need (low == 0) (some (.join g))
  | 0x04 => match mod with
    | 0 => need (sl == 0) (some (.call g off))
    | 1 => need noOff (some (.callReg g (sreg sl)))
    | _ => none
  | 0x05 => need (mod == 0 && noOff) (some (.ret g (sreg sl)))
  | 0x06 => match mod with
    | 0 => need (sl == 0 && noOff) (some (.exit g))
    | 1 => need noOff (some (.exitNext g (sreg sl)))
    | _ => none
  | 0x07 => need (decide (mod < 16) && sl == 0) (some (.yield g (fin16 mod) off))
  | 0x08 => need (w / 2 ^ 16 % 2 ^ 31 == 0) (some (.trap (BitVec.ofNat 16 w)))
  | 0x09 => need (low == 0) (some (.bkpt g))
  | 0x0A => need (w / 2 ^ 43 % 16 == 0 && w / 2 ^ 33 % 1024 == 1023 && w / 2 ^ 32 % 2 == 0) (some (.stka (BitVec.ofNat 32 w)))
  | 0x0B => let f := SR.of w
    need (f.mod == 0 && f.b == 0 && f.z == 0) (some (.launch (sreg f.d) (sreg f.a)))
  | _ => none

/-- One scalar row of 23 Table 23-1 with three registers. -/
def srBin (f : SR) (mk : SType → SReg → SReg → SReg → Instr) : Option Instr :=
  need (f.z == 0) ((SType.ofCode f.ty).bind fun t => some (mk t (sreg f.d) (sreg f.a) (sreg f.b)))

/-- Scalar, 0x10 to 0x1B (formats SR, SI). -/
def decScalar (op : Nat) (la : Fin 16) (w : Nat) : Option Instr :=
  let f := SR.of w
  let d := sreg (w / 2 ^ 33)
  let h := w / 2 ^ 32 % 2
  let mod := w / 2 ^ 43 % 16
  let imm := BitVec.ofNat 32 w
  let noSat := !f.sat
  match op with
  | 0x10 => need (f.mod == 0 && f.b == 0 && f.z == 0) (some (.smov (sreg f.d) (sreg f.a)))
  | 0x11 => match mod, h with
    | 0, 0 => some (.smovi d imm)
    | 0, 1 => some (.smoviHi d imm)
    | 1, 0 => some (.smoviU d imm)
    | _, _ => none
  | 0x12 => match f.sub with
    | 0 => srBin f fun t => .sadd t f.sat
    | 1 => srBin f fun t => .ssub t f.sat
    | _ => none
  | 0x13 => match mod, h with
    | 0, 0 => some (.saddi d imm)
    | 0, 1 => some (.saddiHi d imm)
    | 1, 0 => some (.saddiReg d (sreg (w / 2 ^ 22)) (BitVec.ofNat 22 w))
    | _, _ => none
  | 0x14 => match f.sub with
    | 0 => srBin f fun t => .smul t f.sat
    | 1 => need noSat (srBin f fun t => .smulh t)
    | _ => none
  | 0x15 => match f.sub with
    | 0 => srBin f fun t => .sdiv la t f.sat
    | 1 => need noSat (srBin f fun t => .srem la t)
    | _ => none
  | 0x16 => need noSat (match f.sub with
    | 0 => srBin f fun t => .sand t
    | 1 => srBin f fun t => .sor t
    | 2 => srBin f fun t => .sxor t
    | _ => none)
  | 0x17 => match f.sub with
    | 0 => srBin f fun t => .sshl t f.sat
    | 1 => need noSat (srBin f fun t => .sshr t)
    | 2 => need noSat (srBin f fun t => .ssar t)
    | _ => none
  | 0x18 => need noSat (match f.sub with
    | 0 => srBin f fun t => .smin t
    | 1 => srBin f fun t => .smax t
    | _ => none)
  | 0x19 => need (noSat && decide (f.d < 16)) ((ICond.ofCode f.sub).bind fun c => srBin f fun t d a b => .scmp t c (preg d.val) a b)
  | 0x1A => need (f.ty == 0 && noSat && f.z == 0) (some (.ssel (preg f.sub) (sreg f.d) (sreg f.a) (sreg f.b)))
  | 0x1B => need (noSat && f.b == 0) (match f.sub with
    | 0 => srBin f fun t d a _ => .spopc t d a
    | 1 => srBin f fun t d a _ => .sclz t d a
    | _ => none)
  | _ => none

/-- Rows of 21 Tables 21-1 and 21-8 by the sources they use. -/
def vr1 (f : VR) (mk : VReg → VSrc → Instr) : Option Instr := need (f.noB && f.noC) (some (mk f.D f.A))
def vr2 (f : VR) (mk : VReg → VSrc → VSrc → Instr) : Option Instr := need f.noC (some (mk f.D f.A f.B))
def vr3 (f : VR) (mk : VReg → VSrc → VSrc → VSrc → Instr) : Option Instr := some (mk f.D f.A f.B f.C)

/-- Vector integer, 0x20 to 0x2D (formats VR, VI). -/
def decInt (op : Nat) (g : Guard) (la : Fin 16) (w : Nat) : Option Instr :=
  let f := VR.of w
  let ns := !f.sat
  let t8 (k : IType → Option Instr) := (IType.ofCode f.ty).bind k
  let t4 (k : SType → Option Instr) := (SType.ofCode f.ty).bind k
  match op with
  | 0x20 => match f.sub with
    | 0 => t8 fun t => vr2 f (.iadd g t f.sat)
    | 1 => t8 fun t => vr2 f (.isub g t f.sat)
    | _ => none
  | 0x21 => need (w / 2 ^ 42 % 2 == 0) (t4 fun t =>
      some (.iaddi g t f.sat (vreg (w / 2 ^ 33)) (vreg (w / 2 ^ 24)) (BitVec.ofNat 24 w)))
  | 0x22 => match f.sub with
    | 0 => t8 fun t => vr2 f (.imul g t f.sat)
    | 1 => need ns (t8 fun t => vr2 f (.imulh g t))
    | _ => none
  | 0x23 => need (f.sub == 0) (t8 fun t => vr3 f (.imad g t f.sat))
  | 0x24 => need ns (match f.sub with
    | 0 => t8 fun t => vr2 f (.imin g t)
    | 1 => t8 fun t => vr2 f (.imax g t)
    | _ => none)
  | 0x25 => need (ns && f.sub == 0) (t8 fun t => vr3 f (.iclamp g t))
  | 0x26 => match f.sub with
    | 0 => t8 fun t => vr1 f (.iabs g t f.sat)
    | 1 => t8 fun t => vr1 f (.ineg g t f.sat)
    | _ => none
  | 0x27 => need ns (match f.sub with
    | 0 => t8 fun t => vr2 f (.iand g t)
    | 1 => t8 fun t => vr2 f (.ior g t)
    | 2 => t8 fun t => vr2 f (.ixor g t)
    | 3 => t8 fun t => vr2 f (.iandn g t)
    | _ => none)
  | 0x28 => match f.sub with
    | 0 => t8 fun t => vr2 f (.ishl g t f.sat)
    | 1 => need ns (t8 fun t => vr2 f (.ishr g t))
    | 2 => need ns (t8 fun t => vr2 f (.isar g t))
    | _ => none
  | 0x29 => need (ns && decide (f.d < 16)) ((ICond.ofCode f.sub).bind fun c => t4 fun t => vr2 f fun _ a b => .icmp g t c (preg f.d) a b)
  | 0x2A => need (ns && f.sub == 0 && decide (f.c < 16) && f.sel % 2 == 0) (t4 fun t => some (.isel g t (preg f.c) f.D f.A f.B))
  | 0x2B => need ns (match f.sub with
    | 0 => t8 fun t => vr1 f (.ipopc g t)
    | 1 => t8 fun t => vr1 f (.iclz g t)
    | _ => none)
  | 0x2C => need ns (match f.sub with
    | 0 => need f.noB (t4 fun t => some (.ibfx g t f.D f.A f.C))
    | 1 => t4 fun t => vr3 f (.ibfi g t)
    | _ => none)
  | 0x2D => match f.sub with
    | 0 => t4 fun t => vr2 f (.idiv g la t f.sat)
    | 1 => need ns (t4 fun t => vr2 f (.irem g la t))
    | _ => none
  | _ => none

/-- Floating point, 0x40 to 0x4C (format VR). -/
def decFloat (op : Nat) (g : Guard) (la : Fin 16) (w : Nat) : Option Instr :=
  let f := VR.of w
  let tr (k : FType → Rnd → Option Instr) := (FType.ofCode f.ty).bind fun t => (Rnd.ofCode f.rm).bind fun r => k t r
  let t0 (k : FType → Option Instr) := need (f.rm == 0) ((FType.ofCode f.ty).bind k)
  match op with
  | 0x40 => match f.flags with
    | 0 => tr fun t r => vr2 f (.fadd g t r)
    | 1 => tr fun t r => vr2 f (.fsub g t r)
    | _ => none
  | 0x41 => need (f.flags == 0) (tr fun t r => vr2 f (.fmul g t r))
  | 0x42 => match f.flags with
    | 0 => tr fun t r => vr3 f (.ffma g t r false)
    | 2 => tr fun t r => vr3 f (.ffma g t r true)
    | _ => none
  | 0x43 => match f.flags with
    | 0 => t0 fun t => vr2 f (.fmin g t)
    | 1 => t0 fun t => vr2 f (.fmax g t)
    | _ => none
  | 0x44 => need (f.flags == 0 && decide (f.d < 16) && f.sel % 2 == 0)
      ((FCond.ofCode f.c).bind fun c => t0 fun t => some (.fcmp g t c (preg f.d) f.A f.B))
  | 0x45 => match f.flags with
    | 0 => t0 fun t => vr1 f (.fabs g t)
    | 1 => t0 fun t => vr1 f (.fneg g t)
    | _ => none
  | 0x46 => match f.flags with
    | 0 => tr fun t r => vr1 f (.frcp g la t r)
    | 1 => tr fun t r => vr1 f (.frsq g la t r)
    | _ => none
  | 0x47 => need (f.flags == 0) (tr fun t r => vr1 f (.fsqrt g la t r))
  | 0x48 => need (f.flags == 0) (tr fun t r => vr2 f (.fdiv g la t r))
  | 0x49 => match f.flags with
    | 0 => tr fun t r => vr1 f (.fex2 g la t r)
    | 1 => tr fun t r => vr1 f (.flg2 g la t r)
    | _ => none
  | 0x4A => match f.flags with
    | 0 => tr fun t r => vr1 f (.fsin g la t r)
    | 1 => tr fun t r => vr1 f (.fcos g la t r)
    | _ => none
  | 0x4B => need (f.flags == 0) (t0 fun t => vr1 f (.fclass g t))
  | 0x4C => need (f.flags == 0) (tr fun t r => vr2 f (.fldex g t r))
  | _ => none

/-- CVT's SEL: a rounding mode with C zero, or stochastic with C (03 Table 3-4, 20 R321). -/
def decCvtRnd (f : VR) : Option CvtRnd :=
  if f.sel == 5 then some (.sr (vreg f.c)) else need (f.c == 0) ((Rnd.ofCode f.sel).bind fun r => some (.mode r))

/-- Conversion, 0x50 to 0x54 (formats VR, VI). -/
def decConvert (op : Nat) (g : Guard) (w : Nat) : Option Instr :=
  let f := VR.of w
  match op with
  | 0x50 => need (f.b == 0) ((CType.ofCode (f.mod / 16)).bind fun dt => (CType.ofCode (f.mod % 16)).bind fun st =>
      (decCvtRnd f).bind fun r => some (.cvt g dt st r f.D (vreg f.a)))
  | 0x51 => need (w / 2 ^ 43 % 2 == 0) ((SType.ofCode (w / 2 ^ 44 % 8)).bind fun t =>
      some (.cvti g t (w / 2 ^ 42 % 2 == 1) (vreg (w / 2 ^ 33)) (vreg (w / 2 ^ 24)) (BitVec.ofNat 24 w)))
  | 0x52 => need (decide (f.ty ≤ 1) && f.mod % 2 == 0 && decide (f.c < 4) && f.sel % 2 == 0)
      ((Rnd.ofCode f.rm).bind fun r => some (.bscal g (f.ty == 0) r (f.mod / 2 % 2 == 1) (fin4 f.c) f.D f.A f.B))
  | 0x53 => need (decide (f.mod / 2 % 4 ≤ 1) && decide (f.mod / 64 == 0)) (match f.mod % 2 with
    | 0 => need (f.mod / 8 % 8 == 0) (if f.mod / 2 % 4 == 1 then vr3 f fun d a b c => .pack g d a b (some c)
        else vr2 f fun d a b => .pack g d a b none)
    | _ => vr1 f fun d a => .unpack g (f.mod / 2 % 4 == 1) (f.mod / 8 % 2 == 1) (fin4 (f.mod / 16)) d a)
  | 0x54 => need (f.mod / 16 == 0 && f.noC) (match f.mod / 8 % 2 with
    | 0 => need (f.mod / 2 % 4 == 0 && f.noB) (some (.lxdec g none (f.mod % 2 == 1) f.D f.A))
    | _ => some (.lxdec g (some (f.B, fin4 (f.mod / 2))) (f.mod % 2 == 1) f.D f.A))
  | _ => none

/-- VOTE's destination by its form (23 R429). -/
def decVoteDst (f : VR) : Option VoteDst :=
  match f.mod % 4 with
  | 0 => some (.ballot f.D)
  | 1 => need (decide (f.d < 16)) (some (.any (preg f.d)))
  | 2 => need (decide (f.d < 16)) (some (.all (preg f.d)))
  | _ => need (decide (f.d < 16)) (some (.eq (preg f.d)))

/-- Moves, lanes and predicates, 0x60 to 0x69 (formats VR, VI). -/
def decMove (op : Nat) (g : Guard) (la : Fin 16) (w : Nat) : Option Instr :=
  let f := VR.of w
  let no := w % 2 ^ 21 == 0     -- B, C, SEL
  let tree (k : RType → Rnd → ROp → Instr) := need no ((RType.ofCode f.ty).bind fun t => (Rnd.ofCode f.rm).bind fun r =>
    (ROp.ofCode f.flags).bind fun o => some (k t r o))
  let three (k : Bool → Bool → PReg → PReg → PReg → Instr) := need (f.mod / 16 == 0 && decide (f.d < 16) && decide (f.a < 16)
    && decide (f.b < 16) && w % 2 ^ 12 == 0) (some (k (f.mod / 4 % 2 == 1) (f.mod / 8 % 2 == 1) (preg f.d) (preg f.a) (preg f.b)))
  match op with
  | 0x60 => need (f.mod / 2 == 0) (vr1 f (.vmov g (f.mod % 2 == 1)))
  | 0x61 => need (w / 2 ^ 24 % 512 == 0) ((MoviKind.ofCode (w / 2 ^ 42 % 32)).bind fun k =>
      some (.vmovi g k (vreg (w / 2 ^ 33)) (BitVec.ofNat 24 w)))
  | 0x62 => need (no && f.mod / 4 == 0) ((S2VMode.ofCode (f.mod % 4)).bind fun m => some (.s2v g m f.D (slow f.a)))
  | 0x63 => need (no && f.mod / 4 == 0) ((V2SMode.ofCode (f.mod % 4)).bind fun m => some (.v2s g m (slow f.d) (vreg f.a)))
  | 0x64 => need (f.mod / 4 == 0 && f.noC && f.sel / 4 == 0) ((ShflMode.ofCode (f.mod % 4)).bind fun m =>
      some (.shfl g m f.D (vreg f.a) f.B))
  | 0x65 => need (no && f.mod / 8 == 0 && decide (f.a < 16)) ((decVoteDst f).bind fun d =>
      some (.vote g d (f.mod / 4 % 2 == 1) (preg f.a)))
  | 0x66 => tree fun t r o => .redux g la t r o (slow f.d) (vreg f.a)
  | 0x67 => tree fun t r o => .pfx g la t r o f.D (vreg f.a)
  | 0x68 => match f.mod % 4 with
    | 0 => three (.pand g)
    | 1 => three (.por g)
    | 2 => three (.pxor g)
    | _ => none
  | 0x69 => need (no && decide (f.mod / 2 ≤ 1)) (match f.mod % 2 with
    | 0 => need (f.a == 0) (some (.packp g (f.mod / 2 == 1) f.D))
    | _ => need (f.d == 0) (some (.unpackp g (f.mod / 2 == 1) (vreg f.a))))
  | _ => none

/-- Memory, 0x70 to 0x77 (formats VM, SM, CP, SY, SR). -/
def decMem (op : Nat) (g : Guard) (la : Fin 16) (w : Nat) : Option Instr :=
  let sx := w / 2 ^ 43 % 2
  let ord := w / 2 ^ 38 % 4
  let nudV := BitVec.ofNat 8 w
  let nudS := BitVec.ofNat 8 (w / 2 ^ 7)
  let vm (k : Width → Space → Scope → Option Instr) := need (decide (ord ≤ 1)) ((Width.ofCode (w / 2 ^ 44 % 8)).bind fun wd =>
    (Space.ofCode (w / 2 ^ 40 % 8)).bind fun sp => (Scope.ofCode (w / 2 ^ 35 % 8)).bind fun sc => k wd sp sc)
  let d := vreg (w / 2 ^ 26)
  let av := vreg (w / 2 ^ 17)
  let as := slow (w / 2 ^ 8)
  let sd := sreg (w / 2 ^ 25)
  let sas := sreg (w / 2 ^ 15)
  let off := fin128 w
  match op with
  | 0x70 => vm fun wd sp sc => some (.ld g la wd (sx == 1) sp (ord == 1) sc d av as nudV)
  | 0x71 => need (sx == 0) (vm fun wd sp sc => some (.st g wd sp (ord == 1) sc d av as nudV))
  | 0x72 => vm fun wd sp sc => some (.sld la wd (sx == 1) sp (ord == 1) sc sd sas nudS off)
  | 0x73 => need (sx == 0) (vm fun wd sp sc => some (.sst wd sp (ord == 1) sc sd sas nudS off))
  | 0x74 =>
    (match w / 2 ^ 45 % 4 with | 0 => some Width.b4 | 1 => some .b8 | 2 => some .b16 | _ => none).bind fun wd =>
    (Buf.ofCode (w / 2 ^ 40 % 8)).bind fun bsp =>
    (match w / 2 ^ 35 % 2 with
      | 0 => some (some (fin16 (w / 2 ^ 36)))
      | _ => need (w / 2 ^ 36 % 16 == 0) (some none)).bind fun bar =>
    match w / 2 ^ 43 % 4 with
    | 0 => some (.cpy g la wd bsp bar d av as nudV)
    | 1 => some (.cpyToGlobal g la wd bsp bar d av as nudV)
    | _ => none
  | 0x75 => need (sx == 0 && ord == 0 && w / 2 ^ 26 % 512 == 0) (vm fun wd sp sc =>
      need (sp == .glob) (some (.pfch g la wd sc av as nudV)))
  | 0x76 => need (w % 2 ^ 41 == 0) ((Scope.ofCode (w / 2 ^ 44 % 8)).bind fun sc =>
      some (.fence sc (w / 2 ^ 41 % 2 == 1) (w / 2 ^ 42 % 2 == 1) (w / 2 ^ 43 % 2 == 1)))
  | 0x77 => let f := SR.of w
    need (f.mod == 0 && f.b == 0 && f.z == 0) (some (.resize (sreg f.d) (sreg f.a)))
  | _ => none

/-- Stitches, barriers and rings, 0x80 to 0x8C (formats ST, SR, BS). -/
def decSync (op : Nat) (g : Guard) (la : Fin 16) (w : Nat) : Option Instr :=
  let f := SR.of w
  let b := fin16 (w / 2 ^ 43)
  let j := w / 2 ^ 43 % 16
  let mod := w / 2 ^ 39 % 16
  let sa := w / 2 ^ 29 % 1024
  let s := sreg sa
  let low := w % 2 ^ 29 == 0    -- SB, V and [9:0] (20 R301)
  let ring (i : Fin 8 → Instr) := need (decide (j < 8)) (some (i (fin8 j)))
  match op with
  | 0x80 => (Scope.ofCode (w / 2 ^ 36 % 8)).bind fun sc =>
      some (.stch g la (fin256 (w / 2 ^ 39)) sc (vreg (w / 2 ^ 27)) (vreg (w / 2 ^ 18)) (vreg (w / 2 ^ 9)) (slow w))
  | 0x81 => need (f.mod == 0 && f.z == 0) (some (.stdef (sreg f.d) (sreg f.a) (sreg f.b)))
  | 0x82 => need (f.mod == 0 && f.d == 0 && f.b == 0 && f.z == 0) (some (.strel (sreg f.a)))
  | 0x83 => need (low && mod == 0) (some (.barinit b s))
  | 0x84 => need low (match mod with
    | 0 => need (sa == 0) (some (.bararr b)) | 1 => some (.bararrToken b s) | _ => none)
  | 0x85 => need low (match mod with
    | 0 => need (sa == 0) (some (.barwait b)) | 1 => some (.barwaitPhase b s) | _ => none)
  | 0x86 => need (low && mod == 0 && sa == 0) (some (.barsync b))
  | 0x87 => need (low && mod == 0 && sa == 0) (some (.barkill b))
  | 0x88 => need low (match mod with
    | 0 => some (.barq b s) | 1 => some (.barqCnt b s) | _ => none)
  | 0x89 => need (low && mod == 0) (ring fun j => .rnga j s)
  | 0x8A => need low (match mod with
    | 0 => ring fun j => .rput j s | 1 => ring fun j => .rputW j s | _ => none)
  | 0x8B => need low (match mod with
    | 0 => ring fun j => .rget j s | 1 => ring fun j => .rgetW j s | _ => none)
  | 0x8C => need (low && mod == 0 && sa == 0) (ring fun j => .rfree j)
  | _ => none

/-- Matrix, 0x90 to 0x93 (formats SR, MX, MD, ML). -/
def decMatrix (op : Nat) (la : Fin 16) (w : Nat) : Option Instr :=
  match op with
  | 0x90 => let f := SR.of w
    need (f.mod == 0 && f.d == 0 && f.b == 0 && f.z == 0) (some (.mgang (sreg f.a)))
  | 0x91 => need (w / 2 ^ 39 % 4 == 0) ((MFmt.ofCode (w / 2 ^ 43 % 16)).bind fun f =>
      (match w / 2 ^ 42 % 2 with
        | 0 => need (w / 2 ^ 10 % 2 ^ 11 == 0) (some none)
        | _ => some (some (vreg (w / 2 ^ 12), fin4 (w / 2 ^ 10)))).bind fun sc =>
      some (.mma la f sc (w / 2 ^ 41 % 2 == 1) (vreg (w / 2 ^ 30)) (vreg (w / 2 ^ 21)) (sreg w)))
  | 0x92 => need (w % 2 ^ 10 == 0 && decide (w / 2 ^ 45 % 4 ≤ 1) && (w / 2 ^ 42 % 8 == 0 || w / 2 ^ 42 % 8 == 3))
      ((DrainCt.ofCode (w / 2 ^ 40 % 4)).bind fun ct => (Scope.ofCode (w / 2 ^ 37 % 8)).bind fun sc =>
      some (.mdrain la (w / 2 ^ 45 % 4 == 1) (w / 2 ^ 42 % 8 == 3) ct sc (vreg (w / 2 ^ 28)) (sreg (w / 2 ^ 18))
        (BitVec.ofNat 8 (w / 2 ^ 10))))
  | 0x93 => need (w % 2 ^ 12 == 0 && w / 2 ^ 39 % 2 == 0 && (w / 2 ^ 40 % 8 == 1 || w / 2 ^ 40 % 8 == 2))
      ((MFmt.ofCode (w / 2 ^ 43 % 16)).bind fun f =>
      some (.mldb la f (w / 2 ^ 40 % 8 == 2) (vreg (w / 2 ^ 30)) (sreg (w / 2 ^ 20)) (BitVec.ofNat 8 (w / 2 ^ 12))))
  | _ => none

/-- Special registers, geometry and random numbers, 0xA0 to 0xA4 (formats SY, VR, SR). -/
def decSpecial (op : Nat) (g : Guard) (w : Nat) : Option Instr :=
  let f := VR.of w
  let n := fin256 (w / 2 ^ 39)
  let s := sreg (w / 2 ^ 29)
  match op with
  | 0xA0 => need (w % 2 ^ 29 == 0) (some (.rdsr n s))
  | 0xA1 => need (w % 2 ^ 29 == 0) (some (.wrsr n s))
  | 0xA2 => need (w % 2 ^ 30 == 0) ((Axis.ofCode f.mod).bind fun a => some (.coord g a f.D))
  | 0xA3 => need (w % 2 ^ 29 == 0) ((PField.ofCode f.mod).bind fun p => some (.piece p s))
  | 0xA4 => need (f.mod == 0 && w % 2 ^ 30 == 0) (some (.rand g f.D))
  | _ => none

/-- One assigned opcode's word. -/
def decOp (op : Nat) (g : Guard) (la : Fin 16) (w : Nat) : Option Instr :=
  match op / 16 with
  | 0x0 => decControl op g w
  | 0x1 => decScalar op la w
  | 0x2 => decInt op g la w
  | 0x4 => decFloat op g la w
  | 0x5 => decConvert op g w
  | 0x6 => decMove op g la w
  | 0x7 => decMem op g la w
  | 0x8 => decSync op g la w
  | 0x9 => decMatrix op la w
  | 0xA => decSpecial op g w
  | _ => none

/-- The common checks of R62 and R63, then the fields, then the entry's limits. -/
def decFields (op : Nat) (la : Fin 16) (gc w : Nat) : Option Instr :=
  need ((la == 0 || opLong op) && (gc == 15 || !opAlways op))
    ((decOp op (Guard.ofCode gc) la w).bind fun i => need i.wf (some i))

/-- Fields that break a rule reject the word. -/
def orField : Option Instr → Except Reject Instr
  | some i => .ok i
  | none => .error .field

/-- An instruction word (03 R62 to R70). -/
def decode64 (w : Nat) : Except Reject Instr :=
  let op := w / 2 ^ 56 % 256
  if opAssigned op then orField (decFields op (fin16 (w / 2 ^ 52)) (w / 2 ^ 47 % 32) w)
  else .error .opcode

/-- A word with a version-1 mark (03 R71). -/
def isHeaderWord (w : Nat) : Bool := w / 2 ^ 56 % 256 == 0xF8

/-- A header that passes check 1 of 03 R53; `none` is the clause-format fault. -/
def decodeHeader (w : Nat) : Option Header :=
  need (isHeaderWord w && w % 2 ^ 32 == 0)
    ((match w / 2 ^ 48 % 16 with | 0 => some ClauseClass.g | 1 => some .m | 2 => some .c | _ => none).bind fun k =>
      some ⟨w / 2 ^ 52 % 16 + 1, k, w / 2 ^ 44 % 16, w / 2 ^ 40 % 16, w / 2 ^ 36 % 16, w / 2 ^ 32 % 16⟩)

/-- A stitch instruction word (12 Tables 12-2, 12-4): by OPS and the bits the operation fixes. Whether its codes are
valid is verification's matter (12 R217). -/
def decode32 (w : Nat) : Option Instr :=
  let m := fin8 (w / 2 ^ 24)
  let d := fin16 (w / 2 ^ 20)
  let a := fin32 (w / 2 ^ 15)
  let b := fin32 (w / 2 ^ 10)
  let i := BitVec.ofNat 10 w
  let noB := w / 2 ^ 10 % 32 == 0
  let noM := w / 2 ^ 24 % 8 == 0
  match w / 2 ^ 27 % 32 with
  | 0x00 => need noB (some (.wmov m d a i))
  | 0x01 => some (.wadd m d a b i)
  | 0x02 => some (.wsub m d a b i)
  | 0x03 => some (.wmin m d a b i)
  | 0x04 => some (.wminU m d a b i)
  | 0x05 => some (.wmax m d a b i)
  | 0x06 => some (.wmaxU m d a b i)
  | 0x07 => some (.wand m d a b i)
  | 0x08 => some (.wor m d a b i)
  | 0x09 => some (.wxor m d a b i)
  | 0x0A => some (.wshl m d a b i)
  | 0x0B => some (.wshr m d a b i)
  | 0x0C => some (.fwadd m d a b i)
  | 0x0D => some (.fwmin m d a b i)
  | 0x0E => some (.fwmax m d a b i)
  | 0x0F => some (.wcmpEq m d a b i)
  | 0x10 => some (.wcmpNe m d a b i)
  | 0x11 => some (.wcmpLt m d a b i)
  | 0x12 => some (.wcmpLtu m d a b i)
  | 0x13 => some (.wcmpLe m d a b i)
  | 0x14 => some (.wcmpLeu m d a b i)
  | 0x15 => some (.wsel m d a b i)
  | 0x16 => need noM (some (.wset d a b i))
  | 0x1E => need (noM && noB) (some (.commit d a i))
  | 0x1F => need (noM && noB) (some (.abort d a i))
  | _ => none

/-- What the decoder reads from an instruction of `nbits` bits whose bits are `w`, bit 0 the least significant bit of its
first byte: a stitch word where it has 32 bits, an Adlor word otherwise. -/
def decodeTableWord (nbits w : Nat) : Option Instr :=
  if nbits ≤ 32 then decode32 (w % 2 ^ 32)
  else match decode64 (w % 2 ^ 64) with
    | .ok i => some i
    | .error _ => none

/-! ## The encoder -/

/-- Format VR's bits [46:0]. -/
def encVR (mod d a b c sel : Nat) : Nat := mod * 2 ^ 39 + d * 2 ^ 30 + a * 2 ^ 21 + b * 2 ^ 12 + c * 8 + sel
/-- Format VI's bits, MOD being five bits. -/
def encVI (mod d a : Nat) (imm : BitVec 24) : Nat := mod * 2 ^ 42 + d * 2 ^ 33 + a * 2 ^ 24 + imm.toNat
def encSR (mod : Nat) (d a b : Nat) : Nat := mod * 2 ^ 39 + d * 2 ^ 29 + a * 2 ^ 19 + b * 2 ^ 9
def encSI (mod d h imm : Nat) : Nat := mod * 2 ^ 43 + d * 2 ^ 33 + h * 2 ^ 32 + imm
def encVM (w : Width) (sx : Bool) (sp : Space) (ord : Bool) (sc : Scope) (d av as : Nat) (nud : BitVec 8) : Nat :=
  w.code * 2 ^ 44 + bit sx * 2 ^ 43 + sp.code * 2 ^ 40 + bit ord * 2 ^ 38 + sc.rank * 2 ^ 35 + d * 2 ^ 26 + av * 2 ^ 17 + as * 2 ^ 8
    + nud.toNat
def encSM (w : Width) (sx : Bool) (sp : Space) (ord : Bool) (sc : Scope) (d as : Nat) (nud : BitVec 8) (off : Nat) : Nat :=
  w.code * 2 ^ 44 + bit sx * 2 ^ 43 + sp.code * 2 ^ 40 + bit ord * 2 ^ 38 + sc.rank * 2 ^ 35 + d * 2 ^ 25 + as * 2 ^ 15
    + nud.toNat * 2 ^ 7 + off
/-- Width codes of format CP (Table 3-4): 4, 8, 16 bytes. -/
def cpWid : Width → Nat
  | .b4 => 0 | .b8 => 1 | .b16 => 2 | .b1 => 3 | .b2 => 3
def encCP (w : Width) (dir : Nat) (bsp : Buf) (bar : Option BReg) (bv gv gs : Nat) (nud : BitVec 8) : Nat :=
  cpWid w * 2 ^ 45 + dir * 2 ^ 43 + bsp.code * 2 ^ 40 + (match bar with | some b => b.val * 2 ^ 36 | none => 2 ^ 35)
    + bv * 2 ^ 26 + gv * 2 ^ 17 + gs * 2 ^ 8 + nud.toNat
def encCB (mod sl off : Nat) : Nat := mod * 2 ^ 39 + sl * 2 ^ 29 + off
def encBS (bar mod sa : Nat) : Nat := bar * 2 ^ 43 + mod * 2 ^ 39 + sa * 2 ^ 29
def imod (ty : Nat) (sat : Bool) (sub : Nat) : Nat := ty * 32 + bit sat * 16 + sub
def fmod (ty rm flags : Nat) : Nat := ty * 32 + rm * 4 + flags

/-- Whole words: OP, LA, G, and the rest (R62). -/
def word64 (op : Nat) (la : Fin 16) (g : Guard) (low : Nat) : Nat := op * 2 ^ 56 + la.val * 2 ^ 52 + g.code * 2 ^ 47 + low
def wordG (op : Nat) (g : Guard) (low : Nat) : Nat := word64 op 0 g low
def wordA (op : Nat) (low : Nat) : Nat := word64 op 0 Guard.always low
def wordL (op : Nat) (la : Fin 16) (low : Nat) : Nat := word64 op la Guard.always low

def encV1 (mod : Nat) (d : VReg) (a : VSrc) : Nat := encVR mod d.val a.num 0 0 (a.sel * 4)
def encV2 (mod : Nat) (d : VReg) (a b : VSrc) : Nat := encVR mod d.val a.num b.num 0 (a.sel * 4 + b.sel * 2)
def encV3 (mod : Nat) (d : VReg) (a b c : VSrc) : Nat := encVR mod d.val a.num b.num c.num (a.sel * 4 + b.sel * 2 + c.sel)
def encS (mod : Nat) (d a b : SReg) : Nat := encSR mod d.val a.val b.val
def encP (op : Nat) (na nb : Bool) (d a b : PReg) : Nat := encVR (op + bit na * 4 + bit nb * 8) d.val a.val b.val 0 0

/-- A stitch word. -/
def word32 (ops : Nat) (m : Fin 8) (d : Fin 16) (a b : Fin 32) (i : BitVec 10) : Nat :=
  ops * 2 ^ 27 + m.val * 2 ^ 24 + d.val * 2 ^ 20 + a.val * 2 ^ 15 + b.val * 2 ^ 10 + i.toNat

/-- How many bits the words of an instruction have: 64, 32 for a stitch word, 0 for an event. -/
def Instr.bits : Instr → Nat
  | .wmov _ _ _ _ | .wadd _ _ _ _ _ | .wsub _ _ _ _ _ | .wmin _ _ _ _ _ | .wminU _ _ _ _ _ | .wmax _ _ _ _ _
  | .wmaxU _ _ _ _ _ | .wand _ _ _ _ _ | .wor _ _ _ _ _ | .wxor _ _ _ _ _ | .wshl _ _ _ _ _ | .wshr _ _ _ _ _
  | .fwadd _ _ _ _ _ | .fwmin _ _ _ _ _ | .fwmax _ _ _ _ _ | .wcmpEq _ _ _ _ _ | .wcmpNe _ _ _ _ _
  | .wcmpLt _ _ _ _ _ | .wcmpLtu _ _ _ _ _ | .wcmpLe _ _ _ _ _ | .wcmpLeu _ _ _ _ _ | .wsel _ _ _ _ _
  | .wset _ _ _ _ | .commit _ _ _ | .abort _ _ _ => 32
  | .clauseHeaderIssue | .issueSelect _ _ | .loadComplete _ _ _ _ _ | .storePerformed _ _ _ _ _
  | .arithComplete _ _ _ _ | .copyComplete _ _ _ _ | .bararrArrival _ _ _ _ | .barsyncArrival _ _ _
  | .ringReevaluate _ _ _ | .rputPlacement _ _ _ | .mmaRendezvous _ _ _ | .matrixComplete _ _ _ _
  | .mdrainComplete _ _ _ _ | .mdrainLineInvocation _ _ _ _ _ | .stitchInvocation _ _ _ _ _ | .stchComplete _ _ _ _
  | .lineFill | .cinchUpdate _ _ | .faultResolve _ _ _ | .faultRingOverflowClear _ | .launchEnd _
  | .pageMigrationBegin _ _ | .pageMigrationCopy _ _ _ | .pageMigrationEnd _ _ _ | .compactorMove _ _ _ _
  | .forwardingRemove _ _ | .teamPark _ _ | .teamUnpark _ _ | .chooseBand _ | .pieceDispatch _ | .pieceCommit _
  | .commitOverflow _ _ _ | .childLaunchStart _ | .completionSignal _ | .spacePacket _ | .harnessPacket _
  | .waitPacket _ | .waitReevaluate _ | .waitRereadTimer _ | .signalPacket _ | .cutloadPacket _ | .stdefPacket _
  | .padPacket _ | .kick _ | .doorbellService _ | .queueMap _ | .priorityAgeing _ | .queueSramError _ | .deplost _
  | .firmwareLiveUpdate _ | .preemption _ | .haltReported _ | .contextSave _ | .contextRestore _ _ _
  | .shadowImageMove _ _ | .create | .end_ | .clock | .clockModeChange | .freeze | .negotiate | .ctxnew | .ctxend
  | .ctxinv | .resume | .destroy | .readout | .registerWrite _ _ | .bar2Access _ _ _ _ | .linkRequest _ _ _ _ _ _
  | .peerTimeout _ _ _ _ | .heartbeat | .heartbeatSilence _ | .resetRequest _ _ | .freezeRequest _ _ _ | .thermalTrip
  | .powerLimit _ _ | .clockChange _ _ _ | .boot _ | .nonInstructionWord _ | .coreStorageError _ _ _
  | .linkPortTraining _ _ _ | .linkLevelRetry _ => 0
  | _ => 64

/-- The word of a well-formed instruction, from the same tables; an event has no word (0), and a non-instruction word is
itself. -/
def encode : Instr → Nat
  | .nop g => wordG 0x00 g 0
  | .bra g off => wordG 0x01 g (encCB 0 0 off.toNat)
  | .brd g t j => wordG 0x02 g (t.toNat * 2 ^ 22 + j.toNat)
  | .join g => wordG 0x03 g 0
  | .call g off => wordG 0x04 g (encCB 0 0 off.toNat)
  | .callReg g sl => wordG 0x04 g (encCB 1 sl.val 0)
  | .ret g sl => wordG 0x05 g (encCB 0 sl.val 0)
  | .exit g => wordG 0x06 g 0
  | .exitNext g sl => wordG 0x06 g (encCB 1 sl.val 0)
  | .yield g b off => wordG 0x07 g (encCB b.val 0 off.toNat)
  | .trap code => wordA 0x08 code.toNat
  | .bkpt g => wordG 0x09 g 0
  | .stka n => wordA 0x0A (encSI 0 1023 0 n.toNat)
  | .launch d a => wordA 0x0B (encSR 0 d.val a.val 0)
  | .smov d a => wordA 0x10 (encSR 0 d.val a.val 0)
  | .smovi d imm => wordA 0x11 (encSI 0 d.val 0 imm.toNat)
  | .smoviU d imm => wordA 0x11 (encSI 1 d.val 0 imm.toNat)
  | .smoviHi d imm => wordA 0x11 (encSI 0 d.val 1 imm.toNat)
  | .sadd t s d a b => wordA 0x12 (encS (imod t.code s 0) d a b)
  | .ssub t s d a b => wordA 0x12 (encS (imod t.code s 1) d a b)
  | .saddi d imm => wordA 0x13 (encSI 0 d.val 0 imm.toNat)
  | .saddiHi d imm => wordA 0x13 (encSI 0 d.val 1 imm.toNat)
  | .saddiReg d a imm => wordA 0x13 (encSI 1 d.val 0 (a.val * 2 ^ 22 + imm.toNat))
  | .smul t s d a b => wordA 0x14 (encS (imod t.code s 0) d a b)
  | .smulh t d a b => wordA 0x14 (encS (imod t.code false 1) d a b)
  | .sdiv la t s d a b => wordL 0x15 la (encS (imod t.code s 0) d a b)
  | .srem la t d a b => wordL 0x15 la (encS (imod t.code false 1) d a b)
  | .sand t d a b => wordA 0x16 (encS (imod t.code false 0) d a b)
  | .sor t d a b => wordA 0x16 (encS (imod t.code false 1) d a b)
  | .sxor t d a b => wordA 0x16 (encS (imod t.code false 2) d a b)
  | .sshl t s d a b => wordA 0x17 (encS (imod t.code s 0) d a b)
  | .sshr t d a b => wordA 0x17 (encS (imod t.code false 1) d a b)
  | .ssar t d a b => wordA 0x17 (encS (imod t.code false 2) d a b)
  | .smin t d a b => wordA 0x18 (encS (imod t.code false 0) d a b)
  | .smax t d a b => wordA 0x18 (encS (imod t.code false 1) d a b)
  | .scmp t c d a b => wordA 0x19 (encSR (imod t.code false c.code) d.val a.val b.val)
  | .ssel p d a b => wordA 0x1A (encS (imod 0 false p.val) d a b)
  | .spopc t d a => wordA 0x1B (encSR (imod t.code false 0) d.val a.val 0)
  | .sclz t d a => wordA 0x1B (encSR (imod t.code false 1) d.val a.val 0)
  | .iadd g t s d a b => wordG 0x20 g (encV2 (imod t.code s 0) d a b)
  | .isub g t s d a b => wordG 0x20 g (encV2 (imod t.code s 1) d a b)
  | .iaddi g t s d a imm => wordG 0x21 g (encVI (t.code * 4 + bit s * 2) d.val a.val imm)
  | .imul g t s d a b => wordG 0x22 g (encV2 (imod t.code s 0) d a b)
  | .imulh g t d a b => wordG 0x22 g (encV2 (imod t.code false 1) d a b)
  | .imad g t s d a b c => wordG 0x23 g (encV3 (imod t.code s 0) d a b c)
  | .imin g t d a b => wordG 0x24 g (encV2 (imod t.code false 0) d a b)
  | .imax g t d a b => wordG 0x24 g (encV2 (imod t.code false 1) d a b)
  | .iclamp g t d a b c => wordG 0x25 g (encV3 (imod t.code false 0) d a b c)
  | .iabs g t s d a => wordG 0x26 g (encV1 (imod t.code s 0) d a)
  | .ineg g t s d a => wordG 0x26 g (encV1 (imod t.code s 1) d a)
  | .iand g t d a b => wordG 0x27 g (encV2 (imod t.code false 0) d a b)
  | .ior g t d a b => wordG 0x27 g (encV2 (imod t.code false 1) d a b)
  | .ixor g t d a b => wordG 0x27 g (encV2 (imod t.code false 2) d a b)
  | .iandn g t d a b => wordG 0x27 g (encV2 (imod t.code false 3) d a b)
  | .ishl g t s d a b => wordG 0x28 g (encV2 (imod t.code s 0) d a b)
  | .ishr g t d a b => wordG 0x28 g (encV2 (imod t.code false 1) d a b)
  | .isar g t d a b => wordG 0x28 g (encV2 (imod t.code false 2) d a b)
  | .icmp g t c d a b => wordG 0x29 g (encVR (imod t.code false c.code) d.val a.num b.num 0 (a.sel * 4 + b.sel * 2))
  | .isel g t p d a b => wordG 0x2A g (encVR (imod t.code false 0) d.val a.num b.num p.val (a.sel * 4 + b.sel * 2))
  | .ipopc g t d a => wordG 0x2B g (encV1 (imod t.code false 0) d a)
  | .iclz g t d a => wordG 0x2B g (encV1 (imod t.code false 1) d a)
  | .ibfx g t d a c => wordG 0x2C g (encVR (imod t.code false 0) d.val a.num 0 c.num (a.sel * 4 + c.sel))
  | .ibfi g t d a b c => wordG 0x2C g (encV3 (imod t.code false 1) d a b c)
  | .idiv g la t s d a b => word64 0x2D la g (encV2 (imod t.code s 0) d a b)
  | .irem g la t d a b => word64 0x2D la g (encV2 (imod t.code false 1) d a b)
  | .fadd g t r d a b => wordG 0x40 g (encV2 (fmod t.code r.code 0) d a b)
  | .fsub g t r d a b => wordG 0x40 g (encV2 (fmod t.code r.code 1) d a b)
  | .fmul g t r d a b => wordG 0x41 g (encV2 (fmod t.code r.code 0) d a b)
  | .ffma g t r np d a b c => wordG 0x42 g (encV3 (fmod t.code r.code (bit np * 2)) d a b c)
  | .fmin g t d a b => wordG 0x43 g (encV2 (fmod t.code 0 0) d a b)
  | .fmax g t d a b => wordG 0x43 g (encV2 (fmod t.code 0 1) d a b)
  | .fcmp g t c d a b => wordG 0x44 g (encVR (fmod t.code 0 0) d.val a.num b.num c.code (a.sel * 4 + b.sel * 2))
  | .fabs g t d a => wordG 0x45 g (encV1 (fmod t.code 0 0) d a)
  | .fneg g t d a => wordG 0x45 g (encV1 (fmod t.code 0 1) d a)
  | .frcp g la t r d a => word64 0x46 la g (encV1 (fmod t.code r.code 0) d a)
  | .frsq g la t r d a => word64 0x46 la g (encV1 (fmod t.code r.code 1) d a)
  | .fsqrt g la t r d a => word64 0x47 la g (encV1 (fmod t.code r.code 0) d a)
  | .fdiv g la t r d a b => word64 0x48 la g (encV2 (fmod t.code r.code 0) d a b)
  | .fex2 g la t r d a => word64 0x49 la g (encV1 (fmod t.code r.code 0) d a)
  | .flg2 g la t r d a => word64 0x49 la g (encV1 (fmod t.code r.code 1) d a)
  | .fsin g la t r d a => word64 0x4A la g (encV1 (fmod t.code r.code 0) d a)
  | .fcos g la t r d a => word64 0x4A la g (encV1 (fmod t.code r.code 1) d a)
  | .fclass g t d a => wordG 0x4B g (encV1 (fmod t.code 0 0) d a)
  | .fldex g t r d a b => wordG 0x4C g (encV2 (fmod t.code r.code 0) d a b)
  | .cvt g dt st r d a => wordG 0x50 g (match r with
    | .mode r => encVR (dt.code * 16 + st.code) d.val a.val 0 0 r.code
    | .sr c => encVR (dt.code * 16 + st.code) d.val a.val 0 c.val 5)
  | .cvti g t tof d a n => wordG 0x51 g (encVI (t.code * 4 + bit tof) d.val a.val n)
  | .bscal g dbl r inv n d a b =>
    wordG 0x52 g (encVR (fmod (bit (!dbl)) r.code (bit inv * 2)) d.val a.num b.num n.val (a.sel * 4 + b.sel * 2))
  | .pack g d a b c => wordG 0x53 g (match c with
    | none => encV2 0 d a b
    | some c => encV3 2 d a b c)
  | .unpack g byte sx e d a => wordG 0x53 g (encV1 (1 + bit byte * 2 + bit sx * 8 + e.val * 16) d a)
  | .lxdec g sc bf d a => wordG 0x54 g (match sc with
    | none => encV1 (bit bf) d a
    | some (s, n) => encV2 (8 + n.val * 2 + bit bf) d a s)
  | .vmov g dbl d a => wordG 0x60 g (encV1 (bit dbl) d a)
  | .vmovi g k d imm => wordG 0x61 g (encVI k.code d.val 0 imm)
  | .s2v g m d a => wordG 0x62 g (encVR m.code d.val a.val 0 0 0)
  | .v2s g m d a => wordG 0x63 g (encVR m.code d.val a.val 0 0 0)
  | .shfl g m d a b => wordG 0x64 g (encVR m.code d.val a.val b.num 0 (b.sel * 2))
  | .vote g dst inv p => wordG 0x65 g (match dst with
    | .ballot d => encVR (bit inv * 4) d.val p.val 0 0 0
    | .any d => encVR (1 + bit inv * 4) d.val p.val 0 0 0
    | .all d => encVR (2 + bit inv * 4) d.val p.val 0 0 0
    | .eq d => encVR (3 + bit inv * 4) d.val p.val 0 0 0)
  | .redux g la t r o d a => word64 0x66 la g (encVR (fmod t.code r.code o.code) d.val a.val 0 0 0)
  | .pfx g la t r o d a => word64 0x67 la g (encVR (fmod t.code r.code o.code) d.val a.val 0 0 0)
  | .pand g na nb d a b => wordG 0x68 g (encP 0 na nb d a b)
  | .por g na nb d a b => wordG 0x68 g (encP 1 na nb d a b)
  | .pxor g na nb d a b => wordG 0x68 g (encP 2 na nb d a b)
  | .packp g hi d => wordG 0x69 g (encVR (bit hi * 2) d.val 0 0 0 0)
  | .unpackp g hi a => wordG 0x69 g (encVR (1 + bit hi * 2) 0 a.val 0 0 0)
  | .ld g la w sx sp acq sc d av as nud => word64 0x70 la g (encVM w sx sp acq sc d.val av.val as.val nud)
  | .st g w sp rel sc d av as nud => wordG 0x71 g (encVM w false sp rel sc d.val av.val as.val nud)
  | .sld la w sx sp acq sc d as nud off => wordL 0x72 la (encSM w sx sp acq sc d.val as.val nud off.val)
  | .sst w sp rel sc d as nud off => wordA 0x73 (encSM w false sp rel sc d.val as.val nud off.val)
  | .cpy g la w bsp bar bv gv gs nud => word64 0x74 la g (encCP w 0 bsp bar bv.val gv.val gs.val nud)
  | .cpyToGlobal g la w bsp bar bv gv gs nud => word64 0x74 la g (encCP w 1 bsp bar bv.val gv.val gs.val nud)
  | .pfch g la w sc av as nud => word64 0x75 la g (encVM w false .glob false sc 0 av.val as.val nud)
  | .fence sc l s e => wordA 0x76 (sc.rank * 2 ^ 44 + bit e * 2 ^ 43 + bit s * 2 ^ 42 + bit l * 2 ^ 41)
  | .resize d a => wordA 0x77 (encSR 0 d.val a.val 0)
  | .stch g la slot sc rv ov av as =>
    word64 0x80 la g (slot.val * 2 ^ 39 + sc.rank * 2 ^ 36 + rv.val * 2 ^ 27 + ov.val * 2 ^ 18 + av.val * 2 ^ 9 + as.val)
  | .stdef d a b => wordA 0x81 (encSR 0 d.val a.val b.val)
  | .strel a => wordA 0x82 (encSR 0 0 a.val 0)
  | .barinit b a => wordA 0x83 (encBS b.val 0 a.val)
  | .bararr b => wordA 0x84 (encBS b.val 0 0)
  | .bararrToken b d => wordA 0x84 (encBS b.val 1 d.val)
  | .barwait b => wordA 0x85 (encBS b.val 0 0)
  | .barwaitPhase b a => wordA 0x85 (encBS b.val 1 a.val)
  | .barsync b => wordA 0x86 (encBS b.val 0 0)
  | .barkill b => wordA 0x87 (encBS b.val 0 0)
  | .barq b d => wordA 0x88 (encBS b.val 0 d.val)
  | .barqCnt b d => wordA 0x88 (encBS b.val 1 d.val)
  | .rnga j a => wordA 0x89 (encBS j.val 0 a.val)
  | .rput j a => wordA 0x8A (encBS j.val 0 a.val)
  | .rputW j a => wordA 0x8A (encBS j.val 1 a.val)
  | .rget j d => wordA 0x8B (encBS j.val 0 d.val)
  | .rgetW j d => wordA 0x8B (encBS j.val 1 d.val)
  | .rfree j => wordA 0x8C (encBS j.val 0 0)
  | .mgang a => wordA 0x90 (encSR 0 0 a.val 0)
  | .mma la f sc zc c bv ds => wordL 0x91 la (f.code * 2 ^ 43 + (match sc with
      | none => 0
      | some (v, n) => 2 ^ 42 + v.val * 2 ^ 12 + n.val * 2 ^ 10)
      + bit zc * 2 ^ 41 + c.val * 2 ^ 30 + bv.val * 2 ^ 21 + ds.val)
  | .mdrain la add toD ct sc c ds nud => wordL 0x92 la (bit add * 2 ^ 45 + bit toD * 3 * 2 ^ 42 + ct.code * 2 ^ 40 + sc.rank * 2 ^ 37
      + c.val * 2 ^ 28 + ds.val * 2 ^ 18 + nud.toNat * 2 ^ 10)
  | .mldb la f fromA bv ds nud => wordL 0x93 la (f.code * 2 ^ 43 + (1 + bit fromA) * 2 ^ 40 + bv.val * 2 ^ 30 + ds.val * 2 ^ 20
      + nud.toNat * 2 ^ 12)
  | .rdsr n d => wordA 0xA0 (n.val * 2 ^ 39 + d.val * 2 ^ 29)
  | .wrsr n a => wordA 0xA1 (n.val * 2 ^ 39 + a.val * 2 ^ 29)
  | .coord g ax d => wordG 0xA2 g (encVR ax.code d.val 0 0 0 0)
  | .piece f d => wordA 0xA3 (encSR f.code d.val 0 0)
  | .rand g d => wordG 0xA4 g (encVR 0 d.val 0 0 0 0)
  | .wmov m d a i => word32 0x00 m d a 0 i
  | .wadd m d a b i => word32 0x01 m d a b i
  | .wsub m d a b i => word32 0x02 m d a b i
  | .wmin m d a b i => word32 0x03 m d a b i
  | .wminU m d a b i => word32 0x04 m d a b i
  | .wmax m d a b i => word32 0x05 m d a b i
  | .wmaxU m d a b i => word32 0x06 m d a b i
  | .wand m d a b i => word32 0x07 m d a b i
  | .wor m d a b i => word32 0x08 m d a b i
  | .wxor m d a b i => word32 0x09 m d a b i
  | .wshl m d a b i => word32 0x0A m d a b i
  | .wshr m d a b i => word32 0x0B m d a b i
  | .fwadd m d a b i => word32 0x0C m d a b i
  | .fwmin m d a b i => word32 0x0D m d a b i
  | .fwmax m d a b i => word32 0x0E m d a b i
  | .wcmpEq m d a b i => word32 0x0F m d a b i
  | .wcmpNe m d a b i => word32 0x10 m d a b i
  | .wcmpLt m d a b i => word32 0x11 m d a b i
  | .wcmpLtu m d a b i => word32 0x12 m d a b i
  | .wcmpLe m d a b i => word32 0x13 m d a b i
  | .wcmpLeu m d a b i => word32 0x14 m d a b i
  | .wsel m d a b i => word32 0x15 m d a b i
  | .wset d a b i => word32 0x16 0 d a b i
  | .commit n a i => word32 0x1E 0 n a 0 i
  | .abort n a i => word32 0x1F 0 n a 0 i
  | .nonInstructionWord w => w.toNat
  | _ => 0

end Sys2Proof
end

