-- ==== Sys2Proof/Machine/State.lean ====
section
/-! DEFINITION. Machine/State.lean: everything the spec gives the machine, as plain data, and the state after reset.
INVENTORY.md's "## State" lists each field with the rule that names it. Sparse maps are lists of (key, value) pairs, keys rising,
no value equal to what an unlisted key reads as (Ops.lean). -/

namespace Sys2Proof.Machine

/-- A sparse map from numbers. -/
abbrev Map (β : Type) := List (Nat × β)

/-- Why the machine stops. Faults of programs do not stop it: they are taken (17 R267 to R276). -/
inductive Fault
  /-- Raised by a step while every clock but the island's is stopped (19 R294) and no command comes. Safe. -/
  | clocksStopped
  /-- Raised by a stitch operation outside a running routine, or with a code that 12 R208 to R210 call invalid: verification
  keeps such words out of every routine (12 R217). Safe. Log entry 21. -/
  | stitchWordInvalid
  deriving DecidableEq, Repr

/-- Why the machine refuses an instruction. -/
inductive Refusal
  /-- Raised by an arm of exec that has no meaning yet. Safe. -/
  | notModelled (mnemonic : String)
  deriving DecidableEq, Repr

/-! ## Memory -/

/-- Bytes by location key (Ops.lean): local HBM at its physical address, host memory from 2^52, peer HBM from 2^53. -/
abbrev Memory := List Host.Cell

/-- A leaf as the TLB and an access hold it (08 Table 8-4); `base` is the location key of the page's first byte. -/
structure Leaf where
  r : Bool
  w : Bool
  x : Bool
  d : Bool
  cp : Nat
  wc : Nat
  mig : Bool
  size : Nat
  base : Nat
  entry : Nat      -- physical address of the entry; hostBase of Ops.lean where an L1 line stands for the leaf
  deriving DecidableEq, Repr

/-- A cluster TLB entry (08 R152 to R154): the page that holds virtual address `page` in context `ctx`. -/
structure TlbEntry where
  cluster : Nat
  ctx : Nat
  page : Nat
  leaf : Leaf
  deriving DecidableEq, Repr

/-! ## What happens before (13 R228, R230, R231, R237) -/

/-- A team by what it runs: launch, piece, half of a pair, and its place in its successor chain. It stays the same over a save and a
restore. -/
structure TeamId where
  launch : Nat
  piece : Nat
  half : Nat
  chain : Nat
  deriving DecidableEq, Repr

/-- A held write: its team, its group, and its order in the group. -/
structure HeldId where
  team : TeamId
  gid : Nat
  seq : Nat
  deriving DecidableEq, Repr

/-- What happens before what an agent does now, as far as the model needs it: the fill epoch below which it uses no L1 line, the place in
its core's order below which queued stores of its team happen before it, and held writes. -/
structure Know where
  epoch : Nat := 0
  upto : Nat := 0
  seen : List HeldId := []
  deriving DecidableEq, Repr

/-- What a release hands on: to an acquire of its own team, and to one of another team (13 R226, R230). Order and epoch of a core mean
nothing outside the team, whose stores have all reached their homes before a release that another team takes. -/
structure Hand where
  near : Know := {}
  far : List HeldId := []
  deriving DecidableEq, Repr

/-- A release and its team. -/
structure Release where
  team : TeamId
  hand : Hand
  deriving DecidableEq, Repr

/-- The bytes from `lo` on whose value a release wrote. -/
structure Rel where
  lo : Nat
  n : Nat
  what : Release
  deriving DecidableEq, Repr

/-- An L1 line (08 R152): tag (ctx, vline), the physical line, R W D CP WC of its translation, its way, its data, the fill epoch of
13 R228, its age, and the releases that wrote its data. A lane-private line (08 R147) has a tag of its own (Access.lean). -/
structure L1Line where
  ctx : Nat
  vline : Nat
  pline : Nat
  r : Bool
  w : Bool
  d : Bool
  cp : Nat
  wc : Nat
  way : Nat
  data : List Byte
  epoch : Nat
  age : Nat
  rels : List Rel := []
  deriving DecidableEq, Repr

/-! ## Groups (04 Table 4-5, 17 Table 17-5) -/

inductive RoleKind
  | vec | mat | cpy
  deriving DecidableEq, Repr

/-- A role of a body descriptor; count 0 is `pts` (06 Table 6-1). -/
structure Role where
  kind : RoleKind
  count : Nat
  vcap : Nat
  scap : Nat
  deriving DecidableEq, Repr

/-- An entry of the reconvergence stack (04 R80); the header of the resume position goes with it. -/
structure RecEntry where
  join : Nat
  entry : W32
  pending : W32
  base : Nat
  slot : Nat
  hdr : Option Header
  deriving DecidableEq, Repr

/-- Suspension state (17 Table 17-5 WST, WB, WPH, YCONT, LAT, UNF). `bar` waits for a phase by the instruction with that opcode, `sync` is a BARSYNC
before its arrival, `ring` an RPUT.w or RGET.w that waits, `rput` an RPUT before its placement, `stopped` a group that a terminal fault or the end
of its launch has stopped. -/
inductive Susp
  | ready
  | yield (b : BReg) (phase : W32) (cont : Nat)
  | bar (b : BReg) (phase : W32) (opc : Nat)
  | sync (b : BReg)
  | ring (j : Fin 8) (put : Bool) (a : SReg)
  | rput (j : Fin 8) (waits : Bool) (a : SReg)
  | parked
  | latched
  | exited
  | stopped
  deriving DecidableEq, Repr

/-- One lane's access: the lane, its virtual address, the location key of its first byte, and the leaf that granted it. -/
structure LaneAcc where
  lane : Nat
  va : Nat
  key : Nat
  leaf : Leaf
  deriving DecidableEq, Repr

/-- Where a load's value goes: a V register in the lane, or an S register. -/
inductive LoadDst
  | v (d : VReg)
  | s (d : SReg)
  deriving DecidableEq, Repr

/-- Register results held until a long-latency instruction completes: V writes keyed by register and lane, S and P writes, the
flags to accumulate. -/
structure Results where
  v : List (Nat × W32)
  s : List (Nat × W64)
  flags : Nat
  deriving DecidableEq, Repr

/-- What an issued instruction still has to do. A copy's pairs give a lane's global access and its buffer offset; a drain's D
cells give offsets and the bytes of the values to store or add. -/
inductive PKind
  | load (accs : List LaneAcc) (w : Nat) (sx : Bool) (home : Bool) (acq : Option Scope) (dst : LoadDst)
  | store (sc : Scope) (lanes : List (LaneAcc × List Byte))
  | arith (res : Results)
  | copy (toGlobal : Bool) (w : Nat) (buf : Buf) (bar : Option BReg) (discarded : Bool) (know : Know) (accs : List (LaneAcc × Nat))
  | stch (slot : Nat) (sc : Scope) (rv : VReg) (zero : W32) (lanes : List (LaneAcc × List W32))
  | mma (res : Results)
  | mdrain (sc : Scope) (add dbl : Bool) (lines : List (LaneAcc × List Host.Cell)) (dcells : List Host.Cell)
  | mldb (parts : List (Nat × List Nat))
  | arrive (b : BReg) (token : Option SReg) (know : Know)
  deriving DecidableEq, Repr

/-- The outstanding counts of 03 R55. -/
inductive Count
  | loads | stores | matrix | copies
  deriving DecidableEq, Repr

/-- An issued instruction that has not finished (03 R55 to R61): its order `seq` in the core, opcode, position, the count it stands in, whether it
holds a lookahead window open and how many instructions may still issue in it, the registers it reads and writes (keys of Ops.lean), its reuse-clock
stamp and NUD, the GCNT of its team at issue (09 R175), what happens before it, what the values that it has read hand on, what it releases as a
store (13 R230), the lanes whose stitches have asked for their lines, whether it goes on for a successor (04 R87), and what it still has to do. -/
structure Pend where
  seq : Nat
  opc : Nat
  base : Nat
  slot : Nat
  count : Option Count
  window : Bool
  left : Nat
  reads : List Nat
  writes : List Nat
  stamp : Nat
  nud : Nat
  gcnt : Nat := 0
  know : Know := {}
  got : Hand := {}
  rel : Option Release := none
  asked : List Nat := []
  carried : Bool := false
  kind : PKind
  deriving DecidableEq, Repr

/-- What waits at the MMA latch (10 R188): the operands of the MMA, its LA, and its configuration word. -/
structure Latch where
  la : Nat
  fmt : MFmt
  scale : Option (VReg × Fin 4)
  zc : Bool
  c : VReg
  bv : VReg
  ds : SReg
  deriving DecidableEq, Repr

/-- A fault record (17 Table 17-2). -/
structure FRec where
  kind : Nat
  cause : Nat
  opc : Nat
  gid : Nat
  team : Nat
  core : Nat
  slot : Nat
  wr : Bool
  last : Bool
  seq : Nat
  lane : Nat
  cbase : Nat
  d0 : W64
  d1 : W32
  pidx : W32
  launch : Nat
  deriving DecidableEq, Repr

/-- The wait point that an address translation or a control transfer within a clause makes (03 R56, R57): no instruction can issue in the cycle
after it. Whether the instruction in hand has had to translate; and whether the one that issued last had to, or was such a transfer. -/
inductive Gap
  | no | inHand | before
  deriving DecidableEq, Repr

/-- A FENCE with kind stores: the held writes of the group before it, and its place in the core's order (13 R230). -/
structure FenceMark where
  held : Nat
  upto : Nat
  deriving DecidableEq, Repr

/-- A group. -/
structure Group where
  core : Nat := 0
  slot : Nat := 0                     -- team slot
  gid : Nat := 0
  live : Bool := false
  role : Nat := 0
  kind : RoleKind := .vec
  roleFirst : Nat := 0
  roleCount : Nat := 0
  pointGroup : Option Nat := none     -- index within the first `pts` role
  vcap : Nat := 1
  scap : Nat := 1
  base : Nat := 0                     -- position (03 R72)
  pslot : Nat := 0
  hdr : Option Header := none         -- the clause header in hand; none where a header comes next
  enter : Bool := true                -- the header comes next by a transfer
  held : Bool := false                -- the violation of the instruction in hand is counted (03 R60)
  gap : Gap := .no                    -- a wait point after a translation or a transfer within the clause (03 R56)
  xm : W32 := 0
  v : Map W32 := []                   -- key 32 * register + lane
  s : Map W64 := []
  p : Map W32 := []
  stack : List RecEntry := []
  dcnt : W32 := 0
  fpcr : BitVec 5 := 0
  lstat : BitVec 16 := 0
  slim : BitVec 18 := 0
  buckle : W64 := 0
  latch : Option Latch := none
  resizing : Bool := false            -- it waits at a RESIZE that will change the team's ways (08 R160)
  susp : Susp := .ready
  unf : W32 := 0                      -- unfinished lanes of a parked fault
  replay : Option (W32 × Nat) := none -- lanes to replay, with their r (17 R271, 09 R175)
  recs : List FRec := []              -- the records of the page fault that it is parked at (17 R271)
  unwritten : Bool := false           -- they are not in a ring: it is parked without records (17 R270)
  pend : List Pend := []
  know : Know := {}                   -- 13 R228, R237
  fork : Know := {}                   -- what happens before an engine thread that forks now, whatever it touches (13 R232)
  ownRels : List Rel := []            -- its own releases by the bytes that they wrote, which happen before a thread that touches those (13 R232)
  readKnow : Hand := {}               -- what the values of its plain reads hand on to a later FENCE with kind loads (13 R230)
  fenceTeam : Option FenceMark := none -- its last FENCE with kind stores at team scope or wider (13 R230)
  fenceDev : Option FenceMark := none  -- the same at device scope or wider
  privBase : Nat := 0                 -- where its lane-private region stands in device memory (08 R147); 0 where it has none
  deriving DecidableEq, Repr

/-! ## Teams (17 Table 17-6) -/

structure Body where
  addr : Nat := 0
  entry : Nat := 0
  excl : Bool := false
  pair : Bool := false
  wg : Nat := 0
  ag : Nat := 0
  dg : Nat := 0
  priv : Nat := 0
  roles : List Role := []
  deriving DecidableEq, Repr

/-- A barrier (20 Table 20-1); its waiters are the groups whose suspension names it. -/
structure Bar where
  init : Bool := false
  exp : Nat := 0
  arr : Nat := 0
  ph : W32 := 0
  cur : Know := {}                    -- what the arrivals since BARINIT release; and what its completed phases hand on
  done : Know := {}
  deriving DecidableEq, Repr

/-- A ring (22 Table 22-3). -/
structure Ring where
  init : Bool := false
  cap : Nat := 0
  first : Nat := 0
  head : Nat := 0
  tail : Nat := 0
  deriving DecidableEq, Repr

/-- A piece (06 Table 6-3). -/
structure Piece where
  idx : Nat := 0
  ox : Nat := 0
  oy : Nat := 0
  oz : Nat := 0
  ex : Nat := 0
  ey : Nat := 0
  entry : Nat := 0
  order : Nat := 0
  band : Nat := 0
  deriving DecidableEq, Repr

/-- A held write of deterministic mode (06 R132): bytes, a stitch invocation, an add-on-store line, or a child's record. -/
inductive HeldKind
  | bytes (cells : List Host.Cell)
  | stitch (slot : Nat) (va key : Nat) (a : List W32)
  | add (dbl : Bool) (cells : List Host.Cell)
  | child (rec_ : List Byte)
  deriving DecidableEq, Repr

/-- With the team of its chain, the group, the order in the group, the lane, where it was issued (core, team slot, position, opcode, order in the
core), the engine thread that it belongs to where it is no store (13 R232), what it releases as a store (13 R230), the slots taken, and the policy
and way class of the page. -/
structure Held where
  chain : Nat
  gid : Nat
  seq : Nat
  lane : Nat
  core : Nat
  team : Nat
  base : Nat
  slot : Nat
  opc : Nat
  order : Nat
  thread : Option Count
  rel : Option Release := none
  slots : Nat
  cp : Nat
  wc : Nat
  kind : HeldKind
  deriving DecidableEq, Repr

/-- Exit kind (04 R86). -/
inductive ExitKind
  | plain
  | next (desc : W64)
  deriving DecidableEq, Repr

structure Team where
  core : Nat := 0
  slot : Nat := 0
  live : Bool := false
  retiring : Bool := false            -- retired, held until its writes and copies are done or its piece has committed
  gen : Nat := 0
  ctx : Nat := 0
  launch : Nat := 0
  harness : Bool := false             -- started by a HARNESS packet
  hidx : Nat := 0                     -- team index in its harness
  body : Body := {}
  gcnt : Nat := 0
  agBase : Nat := 0                   -- AG of the body that the chain was dispatched with (08 R160)
  aNow : Nat := 0                     -- current A granules
  rclk : BitVec 48 := 0
  bars : Map Bar := []
  rings : Map Ring := []
  pool : Map W64 := []                -- the 128 ring entries
  poolKnow : List (Nat × Know) := []  -- what the RPUT of an entry released
  wbuf : Map Byte := []
  abuf : Map Byte := []
  dbuf : Map Byte := []
  wpos : Nat := 0                     -- buddy positions, in granules (16 R260)
  apos : Nat := 0
  dpos : Nat := 0
  exk : Option ExitKind := none
  icnt : Nat := 0                     -- measurement counts (06 R124)
  acnt : Nat := 0
  lcnt : Nat := 0
  fcnt : Nat := 0                     -- lines filled for the piece's requests (06 R128)
  seed : W64 := 0
  det : Bool := false
  shared : List (Nat × Nat) := []     -- shared ranges
  held : List Held := []              -- commit area (06 R132)
  through : Bool := false             -- shared writes are sent at issue (06 R135)
  piece : Piece := {}
  nlaunch : Nat := 0
  rels : List Rel := []               -- the bytes of its buffers whose value a release wrote (13 R230)
  chain : Nat := 0                    -- teams of its successor chain before it
  wAll : Nat := 0                     -- granules of W and D allocated at dispatch (04 R87)
  dAll : Nat := 0
  inL2 : Bool := false                -- registers parked in L2 (16 R261)
  strict : Bool := false              -- strict-lookahead mode of its queue (03 R60)
  deriving DecidableEq, Repr

/-! ## Cores and cells -/

/-- A forwarding entry of the compactor (08 R166): the buffer, old and new position, the team slot, and the copies it serves. -/
structure Forward where
  slot : Nat
  buf : Buf
  old : Nat
  new : Nat
  before : Nat
  deriving DecidableEq, Repr

structure Core where
  id : Nat := 0
  issued : Nat := 0                   -- issues so far; CYC is a free value of it (log entry 2)
  l1w : Nat := 16
  lines : List L1Line := []
  epoch : Nat := 0                    -- fill epoch (13 R228)
  seq : Nat := 0
  icache : List ((Nat × Nat) × W64) := []
  viol : W32 := 0
  fwd : List Forward := []
  gens : Map Nat := []                -- generation of each team slot (09 R175)
  lastQuad : Map Nat := []            -- the group that issued last in each quadrant (16 R262)
  deriving DecidableEq, Repr

structure CellSt where
  id : Nat
  clusters : List Nat
  ctx : Option Nat := none            -- the context bound to the cell
  halting : Bool := false             -- pre-emption asked (17 R277)
  reported : Bool := false
  ring : List FRec := []              -- records not yet consumed, oldest first
  overflow : Bool := false
  dropped : W64 := 0                  -- dropped-prefetch counter (08 R170)
  lastCore : Option Nat := none       -- the core used last (16 R259)
  deriving DecidableEq, Repr

/-! ## Home slices, MSCs and stitches (09, 12) -/

/-- A team tag (09 R175). -/
structure Tag where
  core : Nat
  slot : Nat
  gen : Nat
  deriving DecidableEq, Repr

/-- Replacement state of a resident line (09 Table 9-2). Units 0 to 63 are home slices, 64 to 71 MSCs; `line` is the line's
location key divided by 128, a greater `age` is a later access, `wc` is the way class that its page names, and `old` is the data of an
MSC's line where a home slice holds newer data. -/
structure RLine where
  unit : Nat
  set : Nat
  way : Nat
  line : Nat
  due : Nat
  tag : Option Tag
  kind : Nat
  h : Bool
  ctx : Nat
  cp : Nat
  wc : Nat
  dirty : Bool
  age : Nat
  old : Option Memory := none
  deriving DecidableEq, Repr

/-- A request at a home (09 R175): its line's key, the die that asks (08 R157), policy, way class, context, tag and r, NUD code (none for a
stitch invocation), due stamp, and whether it writes. -/
structure Req where
  die : Nat
  key : Nat
  cp : Nat
  wc : Nat
  ctx : Nat
  tag : Option Tag
  r : Nat
  code : Option Nat
  due : Nat
  dirty : Bool
  deriving DecidableEq, Repr

/-- A fill that a home slice still has to make; `old` is what the line held before a write. -/
structure FillReq where
  unit : Nat
  req : Req
  old : Option Memory := none
  deriving DecidableEq, Repr

/-- An entry of a unit's team table (09 R178). -/
structure TeamNow where
  unit : Nat
  tag : Tag
  now : Nat
  deriving DecidableEq, Repr

/-- A cached routine (12 R219): at a home slice, or 72 for the I/O die; the device, context and slot that it is of, its width and its
words. -/
structure Routine where
  unit : Nat
  dev : Nat
  ctx : Nat
  slot : Nat
  wide : Bool
  words : List Nat
  deriving DecidableEq, Repr

/-- A cinch entry (09 R182). -/
structure Cinch where
  unit : Nat
  ctx : Nat
  k : Nat
  e : Nat
  b : Nat
  deriving DecidableEq, Repr

/-- A routine in hand at a home slice (12 Table 12-1): who asked for it, the line it holds, and L, OLD, T0 to T3 as words, M0 to
M3 as masks over words, A0 to A3, OFF as the target element; `code` the instruction words, `pc` the next. -/
structure StitchRun where
  core : Nat
  slot : Nat
  gid : Nat
  seq : Nat
  lane : Nat
  ctx : Nat
  key : Nat
  wide : Bool
  code : List Nat
  pc : Nat
  l : List W32
  old : List W32
  t : List (List W32)
  m : List W32
  a : List W32
  off : Nat
  deriving DecidableEq, Repr

/-! ## Contexts, launches, queues -/

structure Ctx where
  num : Nat
  root : Nat
  unkd : Nat
  dzBase : Nat
  dzPages : Nat
  pool : Nat
  poolN : Nat
  poolNext : Nat := 0
  table : Nat := 0                    -- physical address of its stitch table (12 R216)
  bound : Bool := false               -- firmware has bound it to a cell (09 R182)
  deriving DecidableEq, Repr

structure MenuEntry where
  sx : Nat
  sy : Nat
  order : Nat
  deriving DecidableEq, Repr

/-- The measured record of a piece (06 R124), with its entry and band. -/
structure PRec where
  idx : Nat
  entry : Nat
  band : Nat
  p : Nat
  i : Nat
  a : Nat
  l : Nat
  f : Nat
  deriving DecidableEq, Repr

/-- A piece that has retired and waits for commit (06 R134): its teams' held writes in commit order. -/
structure Retired where
  idx : Nat
  held : List (Nat × Nat × Held)      -- core, team slot, held write
  deriving DecidableEq, Repr

/-- A launch and its Skiver state (06, 17 R280). -/
structure Launch where
  id : Nat
  queue : Nat
  ctx : Nat
  cell : Nat
  seq : Nat := 0                      -- its place in the order of acceptance (16 R259)
  harness : Bool := false
  bodies : List (Body × List W64) := []   -- one body with S0 to S15; NT of them for a harness
  x : Nat := 0
  y : Nat := 0
  z : Nat := 0
  menu : List MenuEntry := []
  lag : Nat := 1
  wd : Nat := 0
  wl : Nat := 0
  tail : Bool := false
  timed : Bool := false
  det : Bool := false
  cut : Nat := 0
  cutAddr : Nat := 0
  shared : List (Nat × Nat) := []
  seed : W64 := 0
  signal : Nat := 0
  stop : Bool := false
  parent : Option (Nat × Nat × Nat) := none   -- parent launch, piece k, i
  slice : Nat := 0
  bx : Nat := 0
  by_ : Nat := 0
  sc : Nat := 0
  band : Nat := 0
  nextIdx : Nat := 0
  cutq : List Piece := []             -- pieces cut and not dispatched
  chosen : List Nat := []             -- the entry of each band, newest first
  firsts : List Nat := []             -- first piece of each band, newest first
  tails : List Bool := []
  recs : List PRec := []
  halves : List PRec := []            -- counts of teams of unfinished pieces that have retired
  c : Option Nat := none              -- C of 06 R126
  tailMode : Bool := false
  replay : Option (List Nat) := none  -- recorded entries still to use
  running : List Nat := []            -- indices of the pieces that run
  retired : List Retired := []        -- retired, not committed
  committed : Nat := 0
  born : Nat := 0                     -- children that the commit under way has created (22 R369)
  recLost : Bool := false
  fault : Option Nat := none          -- kind of the first terminal record
  faultIdx : Option Nat := none       -- least piece that had not retired without a fault when it was raised (17 R275)
  status : Option Nat := none         -- a status that is settled before the end (16 Table 16-3)
  signalled : Bool := false
  deriving DecidableEq, Repr

/-- A child launch not yet handed to the Skiver (22 R368). -/
structure Child where
  id : Nat
  queue : Nat
  ctx : Nat
  cell : Nat
  parent : Nat
  k : Nat
  i : Nat
  bytes : List Byte
  lost : Bool := false                -- the dependence of its BAR was lost (16 R264)
  deriving DecidableEq, Repr

/-- A queue: QCB fields as firmware holds them (16 Table 16-1), and what the front end keeps. -/
structure Queue where
  num : Nat
  qcb : Nat
  prio : Nat
  ceil : Nat
  priv : Bool
  sla : Bool
  ctx : Nat
  cell : Nat
  ring : Nat
  log2 : Nat
  rd : Nat
  wr : Nat
  halt : Bool := false
  hstat : Nat := 0
  pending : Bool := false
  steps : Nat := 0                    -- ageing steps while pending
  eff : Nat := 0                      -- effective priority, held while mapped
  doorbell : Bool := false
  cutload : Option Nat := none
  padded : Bool := false              -- an accepted PAD left RD above WR (16 R252)
  deplost : Option (Nat × Nat) := none -- RD at the WAIT or BAR whose dependence was lost, and WR then (16 R264)
  deriving DecidableEq, Repr

/-- A hardware queue slot (16 R257). -/
structure SlotSt where
  idx : Nat
  cell : Nat
  queue : Option Nat := none
  deriving DecidableEq, Repr

/-- A saved context of one cell (17 R280): its teams and groups, and the launches whose Skiver state it holds. -/
structure Image where
  num : Nat
  ctx : Nat
  die : Nat
  launches : List Nat
  teams : List Team
  groups : List Group
  inOverflow : Bool := false
  deriving DecidableEq, Repr

/-! ## BAR0 and management (19) -/

/-- The parts of the configuration record that the device keeps (19 Table 19-3). -/
structure Record where
  unkd : Nat := 1
  nw : Nat := 3
  shw : Nat := 2
  nfk : Nat := 0
  watch : List Nat := []
  wkeys : List Nat := []
  fkeys : List Nat := []
  lock : Bool := false
  deriving DecidableEq, Repr

structure Port where
  num : Nat
  up : Bool
  version : Nat
  retries : Nat := 0
  deriving DecidableEq, Repr

structure Dev where
  qver : Nat := 1
  mapver : Nat := 1
  lver : Nat := 1
  lverMax : Nat := 1
  fver : Nat := 1
  fverMax : Nat := 1
  devid : Nat := 0
  state : Nat := 0
  frzc : Nat := 0
  cmd : Nat := 0
  cmdarg : W64 := 0
  runArg : W64 := 0                   -- the argument with which the command that runs started
  busy : Bool := false
  lost : Bool := false
  res : Nat := 0
  val : Nat := 0
  winctx : Nat := 0
  winstk : Nat := 0
  winerr : Bool := false
  rdata : Nat := 0                    -- the 256 bytes as one number, the first least significant
  barRead : W64 := 0                  -- the data of the last BAR read completion
  barAbort : Bool := false            -- it carried Completer Abort
  locked : Bool := false              -- locked-clock mode (01 R25)
  lockWanted : Option Bool := none    -- a CLOCK command that waits
  arithMhz : List Nat := []           -- per die
  sliceMhz : List Nat := []
  frontMhz : Nat := 2600
  complex : Nat := 0                  -- the active control complex
  ports : List Port := []
  msix : List Nat := []               -- vectors sent, newest first
  resetReqs : List Nat := []          -- watchers whose reset request was accepted
  freezeReqs : List Nat := []
  beatsSent : Nat := 0
  resetSent : List Nat := []          -- devices to which this one has sent a reset request, newest first
  tableRoom : Nat := 0xFFFF           -- contexts for whose stitch tables there is room (19 R289)
  record : Record := {}
  unreachable : List Nat := []
  deriving DecidableEq, Repr

/-- A page in migration (08 R158): the context, the first address of the page, the W that its leaf had, and the frame that holds the
copy, once it is made. -/
structure Mig where
  ctx : Nat
  va : Nat
  w : Bool
  copied : Option Nat := none
  deriving DecidableEq, Repr

/-! ## The machine -/

structure State where
  grp : Group := {}                   -- the group in focus, with its team and its core (log entry 6)
  team : Team := {}
  core : Core := {}
  groups : List Group := []
  teams : List Team := []
  cores : List Core := []
  cells : List CellSt := []
  mem : Memory := []
  tlb : List TlbEntry := []
  rlines : List RLine := []
  fills : List FillReq := []
  teamNow : List TeamNow := []
  cinch : List Cinch := []
  rels : List Rel := []               -- the bytes of memory whose value a release wrote (13 R230)
  poisoned : List Nat := []           -- poisoned lines (12 R222)
  lineErrors : List Nat := []         -- lines with an uncorrectable error that no stitch has met yet (12 R222; log entry 53)
  routineErrors : List (Nat × Nat) := []  -- routines, by context and slot, that read from the table with one
  routines : List Routine := []       -- the homes' routine caches (12 R219), the copy used last at the end
  access : Map Nat := []              -- accesses counted per 8-KiB page (08 R157)
  migs : List Mig := []               -- pages in migration (08 R158)
  run : Option StitchRun := none
  ctxs : List Ctx := []
  launches : List Launch := []
  children : List Child := []
  nextLaunch : Nat := 0
  nextAccept : Nat := 0               -- launches accepted so far (16 R259)
  queues : List Queue := []
  slots : List SlotSt := []
  orphans : Nat := 0                  -- queues destroyed so far (16 R265)
  images : List Image := []
  nextImage : Nat := 0
  dev : Dev := {}
  agenda : List Instr := []           -- the events to come (log entry 5)
  nextDue : Nat := 0                  -- the place among the events that may be due at which the next step looks first (log entry 6)
  free : Nat := 0                     -- what the free values are applied to (log entry 2)
  deriving DecidableEq, Repr

/-- Right after reset (19 R292, Table 19-1): the island alone runs, no cell is built, nothing is resident. -/
def State.reset : State := {}

end Sys2Proof.Machine
end

