-- ==== Sys2Proof/Machine/Ops.lean ====
section
/-! DEFINITION. Machine/Ops.lean: the named operations over memory, registers and the focus; taking a fault (17 R267 to R276),
parking (R269, R270) and the return from it; issue bookkeeping (03 R55 to R62, 06 R124). -/

namespace Sys2Proof.Machine

/-! ## Sparse maps and memory -/

/-- What a map holds at a key; `d` is what an unlisted key reads as. -/
def mapGet {β : Type} (d : β) : Map β → Nat → β
  | [], _ => d
  | (j, b) :: m, k => if j = k then b else mapGet d m k

/-- Put an entry before the first greater key. -/
def mapIns {β : Type} : Map β → Nat → β → Map β
  | [], k, b => [(k, b)]
  | (j, c) :: m, k, b => if k < j then (k, b) :: (j, c) :: m else (j, c) :: mapIns m k b

/-- A write keeps the keys rising and lists no default. -/
def mapSet {β : Type} [DecidableEq β] (d : β) (m : Map β) (k : Nat) (b : β) : Map β :=
  let rest := m.filter fun e => e.1 != k
  if b = d then rest else mapIns rest k b

/-- Keys from `lo` on, rising, and no default listed. -/
def mapOkFrom {β : Type} [DecidableEq β] (d : β) : Nat → Map β → Bool
  | _, [] => true
  | lo, (j, c) :: m => decide (lo ≤ j) && decide (c ≠ d) && mapOkFrom d (j + 1) m

/-- The canonical form of memory. -/
def Memory.wf (m : Memory) : Bool := mapOkFrom Config.blankByte 0 m

def Memory.byte (m : Memory) (k : Nat) : Byte := mapGet Config.blankByte m k
def Memory.put (m : Memory) (k : Nat) (b : Byte) : Memory := mapSet Config.blankByte m k b

/-- `n` bytes from a key on. -/
def Memory.bytes (m : Memory) (k n : Nat) : List Byte := (List.range n).map fun i => m.byte (k + i)

/-- Store cells one after another. -/
def Memory.puts (m : Memory) (cs : List Host.Cell) : Memory := cs.foldl (fun m c => m.put c.1 c.2) m

/-- Little-endian (00 R5). -/
def leNat : List Byte → Nat
  | [] => 0
  | b :: bs => b.toNat + 256 * leNat bs
def leBytes : Nat → Nat → List Byte
  | 0, _ => []
  | n + 1, x => BitVec.ofNat 8 x :: leBytes n (x / 256)

def Memory.word (m : Memory) (k n : Nat) : Nat := leNat (m.bytes k n)
/-- Cells of a little-endian value at a key. -/
def leCells (k n x : Nat) : List Host.Cell := (leBytes n x).mapIdx fun i b => (k + i, b)
def Memory.putWord (m : Memory) (k n x : Nat) : Memory := m.puts (leCells k n x)

/-! ## Location keys (08 R149, 13 R224): one Nat per byte of physical memory. -/

def hostBase : Nat := 2 ^ 52
def peerBase : Nat := 2 ^ 53
def peerSize : Nat := 2 ^ 39
/-- Keys of the typed buffers and of lane-private offsets of the group in focus, apart from all memory. -/
def bufBase : Space → Nat
  | .glob => 0 | .w => 2 ^ 60 | .a => 2 ^ 60 + 2 ^ 40 | .d => 2 ^ 60 + 2 ^ 41 | .priv => 2 ^ 61

/-! ## Small helpers -/

def bits (x : Nat) (hi lo : Nat) : Nat := x / 2 ^ lo % 2 ^ (hi + 1 - lo)
def bitAt (x i : Nat) : Bool := x / 2 ^ i % 2 == 1
def sext (w : Nat) (x : Nat) : Int := if x % 2 ^ w ≥ 2 ^ (w - 1) then (x % 2 ^ w : Int) - 2 ^ w else (x % 2 ^ w : Int)
def allLanes : List Nat := List.range 32
/-- The lanes of a mask, rising. -/
def lanesOf (m : W32) : List Nat := allLanes.filter fun l => m.getLsbD l
def maskOf (ls : List Nat) : W32 := ls.foldl (fun m l => m ||| (1#32 <<< l)) 0
def popcount (w : Nat) (x : Nat) : Nat := (List.range w).countP fun i => bitAt x i
def ceilDiv (a b : Nat) : Nat := (a + b - 1) / b
/-- Replace the elements that satisfy `p`. -/
def upd {α : Type} (p : α → Bool) (f : α → α) (l : List α) : List α := l.map fun a => if p a then f a else a
/-- Insertion sort: stable, and evaluated by structure. -/
def insertBy {α : Type} (le : α → α → Bool) (a : α) : List α → List α
  | [] => [a]
  | b :: l => if le a b then a :: b :: l else b :: insertBy le a l
def sortBy {α : Type} (le : α → α → Bool) (l : List α) : List α := l.foldr (insertBy le) []
/-- Remove repeats, keeping first places. -/
def uniq {α : Type} [DecidableEq α] (l : List α) : List α := l.foldl (fun acc a => if acc.contains a then acc else acc ++ [a]) []

/-! ## Registers (04 R77, 02 R32) -/

def Group.V (g : Group) (r l : Nat) : W32 := mapGet 0 g.v (32 * r + l)
def Group.setV (g : Group) (r l : Nat) (x : W32) : Group := { g with v := mapSet 0 g.v (32 * r + l) x }
def Group.S (g : Group) (r : Nat) : W64 := mapGet 0 g.s r
def Group.setS (g : Group) (r : Nat) (x : W64) : Group := { g with s := mapSet 0 g.s r x }
/-- P15 reads as 1 in every lane. -/
def Group.P (g : Group) (p : Nat) : W32 := if p = 15 then 0xFFFFFFFF#32 else mapGet 0 g.p p
/-- P15 ignores writes. -/
def Group.setP (g : Group) (p : Nat) (x : W32) : Group := if p = 15 then g else { g with p := mapSet 0 g.p p x }
def Group.setPbit (g : Group) (p l : Nat) (b : Bool) : Group :=
  g.setP p (if b then g.P p ||| (1#32 <<< l) else g.P p &&& ~~~(1#32 <<< l))
/-- A pair: the even register is the low word (03 R65, 05 R98). -/
def Group.V64 (g : Group) (r l : Nat) : W64 := (g.V (r + 1) l) ++ (g.V r l)
def Group.setV64 (g : Group) (r l : Nat) (x : W64) : Group :=
  (g.setV r l (x.setWidth 32)).setV (r + 1) l ((x >>> 32).setWidth 32)

/-- Scoreboard keys (03 R59): V, S and P registers, XM, and the special registers by number. -/
def kV (r : Nat) : Nat := r
def kS (r : Nat) : Nat := 1024 + r
def kP (p : Nat) : Nat := 2048 + p
def kXm : Nat := 3072
def kSr (n : Nat) : Nat := 3072 + n

/-- The lanes in which a guard holds (00 R9). -/
def Group.guardLanes (g : Group) (gd : Guard) : W32 := if gd.neg then ~~~(g.P gd.p.val) else g.P gd.p.val
/-- The active lanes of a guarded instruction. -/
def Group.active (g : Group) (gd : Guard) : W32 := g.xm &&& g.guardLanes gd

/-- The lanes that carry a point (04 R79). -/
def State.pointLanes (s : State) : W32 :=
  match s.grp.pointGroup with
  | none => 0
  | some q => maskOf (allLanes.filter fun l => decide (32 * q + l < s.team.piece.ex * s.team.piece.ey))

/-! ## The focus (log entry 6) -/

def State.onGrp (s : State) (f : Group → Group) : State := { s with grp := f s.grp }
def State.onTeam (s : State) (f : Team → Team) : State := { s with team := f s.team }
def State.onCore (s : State) (f : Core → Core) : State := { s with core := f s.core }

def Group.is (g : Group) (c t i : Nat) : Bool := g.core == c && g.slot == t && g.gid == i
def Team.is (t : Team) (c k : Nat) : Bool := t.core == c && t.slot == k

def State.allGroups (s : State) : List Group := s.grp :: s.groups
def State.allTeams (s : State) : List Team := s.team :: s.teams
def State.allCores (s : State) : List Core := s.core :: s.cores
def State.findGroup? (s : State) (c t i : Nat) : Option Group := s.allGroups.find? fun g => g.live && g.is c t i
def State.findTeam? (s : State) (c t : Nat) : Option Team := s.allTeams.find? fun x => x.live && x.is c t
def State.findCore? (s : State) (c : Nat) : Option Core := s.allCores.find? fun x => x.id == c

/-- Every group, team or core through a function. -/
def State.mapGroups (s : State) (f : Group → Group) : State := { s with grp := f s.grp, groups := s.groups.map f }
def State.mapTeams (s : State) (f : Team → Team) : State := { s with team := f s.team, teams := s.teams.map f }
def State.mapCores (s : State) (f : Core → Core) : State := { s with core := f s.core, cores := s.cores.map f }

def State.focusCore (s : State) (c : Nat) : State :=
  if s.core.id == c then s else
  match s.cores.find? fun x => x.id == c with
  | some x => { s with core := x, cores := (s.cores.filter fun y => y.id != c) ++ [s.core] }
  | none => s

def State.focusTeam (s : State) (c t : Nat) : State :=
  let s := s.focusCore c
  if s.team.live && s.team.is c t then s else
  match s.teams.find? fun x => x.live && x.is c t with
  | some x => { s with team := x, teams := (s.teams.filter fun y => !(y.live && y.is c t)) ++ (if s.team.live then [s.team] else []) }
  | none => s

def State.focus (s : State) (c t i : Nat) : State :=
  let s := s.focusTeam c t
  if s.grp.live && s.grp.is c t i then s else
  match s.groups.find? fun x => x.live && x.is c t i with
  | some x => { s with grp := x, groups := (s.groups.filter fun y => !(y.live && y.is c t i)) ++ (if s.grp.live then [s.grp] else []) }
  | none => s

/-- What happens to group (c, t, i), if it is there, with the focus as before; where nothing happens, the state stays as it is. -/
def State.withFocus (s : State) (c t i : Nat) (f : State → State) : State :=
  let x := s.focus c t i
  if x.grp.live && x.grp.is c t i then
    let y := f x
    if y = x then s else y.focus s.grp.core s.grp.slot s.grp.gid
  else s

/-- What happens to a team, if it is there, with the focus as before. -/
def State.withTeam (s : State) (c t : Nat) (f : State → State) : State :=
  let x := s.focusTeam c t
  if x.team.live && x.team.is c t then
    let y := f x
    if y = x then s else y.focusTeam s.team.core s.team.slot
  else s

/-- The groups of the team in focus. -/
def State.teamGroups (s : State) : List Group := s.allGroups.filter fun g => g.live && g.core == s.team.core && g.slot == s.team.slot
/-- The groups of the core in focus. -/
def State.coreGroups (s : State) : List Group := s.allGroups.filter fun g => g.live && g.core == s.core.id

/-- Every group of the team in focus through a function. -/
def State.mapTeamGroups (s : State) (f : Group → Group) : State :=
  s.mapGroups fun g => if g.live && g.core == s.team.core && g.slot == s.team.slot then f g else g

/-! ## Cells, contexts, launches -/

def cellOfCore (s : State) (c : Nat) : Option CellSt := s.cells.find? fun x => x.clusters.contains (c / 8)
def State.cellId (s : State) : Nat := ((cellOfCore s s.grp.core).map (·.id)).getD 0
def State.onCell (s : State) (id : Nat) (f : CellSt → CellSt) : State := { s with cells := upd (fun c => c.id == id) f s.cells }
def State.findCell? (s : State) (id : Nat) : Option CellSt := s.cells.find? fun c => c.id == id
def State.findCtx? (s : State) (n : Nat) : Option Ctx := s.ctxs.find? fun c => c.num == n
def State.onCtx (s : State) (n : Nat) (f : Ctx → Ctx) : State := { s with ctxs := upd (fun c => c.num == n) f s.ctxs }
def State.findLaunch? (s : State) (n : Nat) : Option Launch := s.launches.find? fun l => l.id == n
def State.onLaunch (s : State) (n : Nat) (f : Launch → Launch) : State := { s with launches := upd (fun l => l.id == n) f s.launches }
def State.findQueue? (s : State) (n : Nat) : Option Queue := s.queues.find? fun q => q.num == n
def State.onQueue (s : State) (n : Nat) (f : Queue → Queue) : State := { s with queues := upd (fun q => q.num == n) f s.queues }

/-- The launch of the group in focus is ending (17 R274, R266). -/
def State.ending (s : State) : Bool :=
  match s.findLaunch? s.team.launch with
  | some l => l.fault.isSome || l.status.isSome
  | none => false

/-! ## Taking a fault (17 R267 to R276) -/

/-- A terminal fault of 17 Table 17-1 at the instruction in hand. -/
structure Trap where
  kind : Nat
  cause : Nat := 0
  d0 : W64 := 0
  d1 : W32 := 0
  lane : Nat := 0
  deriving DecidableEq, Repr

def ringSize : Nat := 2 ^ Config.faultRingLog

/-- The records of one event are written all, or none and the overflow bit is set (R270). -/
def CellSt.append (c : CellSt) (rs : List FRec) : CellSt :=
  if c.ring.length + rs.length ≤ ringSize then { c with ring := c.ring ++ rs } else { c with overflow := true }

/-- Firmware consumes a ring at its head (R270), as far as the last record that `p` picks; what stands before that it has then taken too. -/
def CellSt.consume (p : FRec → Bool) (c : CellSt) : CellSt :=
  { c with ring := (c.ring.reverse.takeWhile fun r => !p r).reverse }

/-- The record of a fault of the group in focus (R272); `opc` is 0xFF where no instruction word was decoded. -/
def State.record (s : State) (opc : Nat) (t : Trap) : FRec :=
  { kind := t.kind, cause := t.cause, opc := opc, gid := s.grp.gid, team := s.grp.slot, core := s.grp.core, slot := s.grp.pslot,
    wr := false, last := true, seq := 0, lane := t.lane, cbase := s.grp.base, d0 := t.d0, d1 := t.d1,
    pidx := BitVec.ofNat 32 s.team.piece.idx, launch := s.team.launch }

/-- The launch keeps the kind of the first terminal record, and the least piece that had not retired without a fault (R274 to
R276). -/
def Launch.setFault (k : Nat) (l : Launch) : Launch :=
  { l with fault := some (l.fault.getD k),
           faultIdx := some (l.faultIdx.getD (l.running.foldl Nat.min l.nextIdx)) }

/-- Raise a terminal fault with its record (R272, R274): the record goes to the cell's ring, the group stops, its launch ends. -/
def State.raise (r : FRec) (s : State) : State :=
  let s1 := s.onCell s.cellId fun c => c.append [r]
  let s2 := s1.onLaunch s.team.launch (Launch.setFault r.kind)
  { s2 with grp := { s2.grp with susp := .stopped } }

/-- Take a terminal fault at the instruction in hand. Nothing else changes (R268). -/
def State.takeFault (opc : Nat) (t : Trap) (s : State) : State := s.raise (s.record opc t)

/-- Take a terminal fault that a pending operation meets after its issue: the record names that operation's position, which is the saved position
of the group (R268; log entry 68). -/
def State.faultAt (p : Pend) (t : Trap) (s : State) : State :=
  let s1 := s.raise { s.record p.opc t with cbase := p.base, slot := p.slot }
  { s1 with grp := { s1.grp with base := p.base, pslot := p.slot } }

/-- One page of a page fault: kind (1 page, 2 permission-upgrade), cause, address of the lowest lane, that lane, the lanes on the
page. -/
structure PageFault where
  kind : Nat
  cause : Nat
  va : Nat
  lane : Nat
  lanes : W32
  deriving DecidableEq, Repr

/-- The records of one page-fault event, one a page and 32 at most (R270). The lanes of an MDRAIN can touch more pages: what is left faults again when
the instruction issues again (log entry 48). -/
def State.pageRecords (s : State) (opc : Nat) (wr : Bool) (ps : List PageFault) : List FRec :=
  let ps := ps.take 32
  ps.mapIdx fun i p =>
    { s.record opc { kind := p.kind, cause := p.cause, d0 := BitVec.ofNat 64 p.va, d1 := p.lanes, lane := p.lane } with
      wr := wr, last := i + 1 == ps.length, seq := i }

/-- Park the group in focus at the instruction in hand (R269). `unf` are the unfinished lanes; `replay` those that replay with
their stamp, none where the whole instruction issues again. -/
def State.park (opc : Nat) (wr : Bool) (unf : W32) (replay : Option (W32 × Nat)) (ps : List PageFault) (s : State) : State :=
  let rs := s.pageRecords opc wr ps
  let room := match s.findCell? s.cellId with
    | some c => decide (c.ring.length + rs.length ≤ ringSize)
    | none => true
  let s1 := s.onCell s.cellId fun c => c.append rs
  { s1 with grp := { s1.grp with susp := .parked, unf := unf, replay := replay, recs := rs, unwritten := !room } }

/-- The return from a resolved fault (R271, 03 R61): the group issues its saved slot again, for the unfinished lanes. -/
def Group.unpark (g : Group) : Group :=
  { g with susp := .ready, unf := 0, recs := [], unwritten := false, pend := g.pend.map fun p => { p with left := 0 } }

/-! ## Issue bookkeeping -/

/-- The position after the instruction in hand (03 R52, R72). -/
def Group.nextPos (g : Group) : Nat × Nat :=
  match g.hdr with
  | some h => if g.pslot + 1 < h.count then (g.base, g.pslot + 1) else (g.base + 8 * (h.count + 1), 0)
  | none => (g.base, g.pslot + 1)

/-- The address of the instruction in hand (R72: slot 0 is at base + 8). -/
def Group.addr (g : Group) : Nat := g.base + 8 + 8 * g.pslot

/-- Move on to the next instruction; where the clause ends its header comes next. -/
def Group.step (g : Group) : Group :=
  let p := g.nextPos
  { g with base := p.1, pslot := p.2, hdr := if p.1 = g.base then g.hdr else none, enter := false }

/-- A control transfer to a clause, slot 0. -/
def Group.goto (t : Nat) (g : Group) : Group := { g with base := t, pslot := 0, hdr := none, enter := true }

/-- One more instruction has issued: every open window has one less to give (03 R57). -/
def Group.tick (g : Group) : Group :=
  { g with pend := g.pend.map fun p => { p with left := p.left - 1 }, held := false, replay := none,
           gap := if g.gap = .inHand then .before else .no }

/-- Issue of an instruction: the core's count, who issued last, and I, A of the piece (06 R124); a replay counts nothing. -/
def State.tally (act : W32) (s : State) : State :=
  let fresh := s.grp.replay.isNone
  let a := popcount 32 (act &&& s.pointLanes).toNat
  { s with
    core := { s.core with issued := s.core.issued + 1, lastQuad := mapSet 0 s.core.lastQuad (s.grp.gid % 4) (1 + 32 * s.grp.slot + s.grp.gid) },
    team := if fresh then { s.team with icnt := s.team.icnt + 1, acnt := s.team.acnt + a } else s.team,
    grp := s.grp.tick }

/-- Add to L (06 R124). -/
def State.addL (n : Nat) (s : State) : State :=
  if s.grp.replay.isNone then s.onTeam fun t => { t with lcnt := t.lcnt + n } else s

/-- The reuse clock advances once per memory instruction; the instruction's r is the value after its advance, and a replay keeps
its r (09 R174, R175). -/
def State.advanceClock (s : State) : State :=
  if s.grp.replay.isNone then s.onTeam fun t => { t with rclk := t.rclk + 1 } else s
def State.stamp (s : State) : Nat :=
  match s.grp.replay with
  | some (_, r) => r
  | none => s.team.rclk.toNat

/-- What happens before a pending operation: for a copy's thread what happens before its fork (13 R232). -/
def PKind.before (know : Know) : PKind → Know
  | .copy _ _ _ _ _ fork _ => fork
  | _ => know

/-- Post a pending operation of the group in focus, last in the core's order. The window of a replay stays closed (03 R61). -/
def State.post (p : Pend) (s : State) : State :=
  let p := if s.grp.replay.isSome then { p with left := 0 } else p
  { s with core := { s.core with seq := s.core.seq + 1 },
           grp := { s.grp with pend := s.grp.pend ++ [{ p with seq := s.core.seq, base := s.grp.base, slot := s.grp.pslot,
                                                               gcnt := s.team.gcnt, know := p.kind.before s.grp.know }] } }

/-- A pending operation with nothing in it. -/
def Pend.new (opc : Nat) (kind : PKind) : Pend :=
  { seq := 0, opc := opc, base := 0, slot := 0, count := none, window := false, left := 0, reads := [], writes := [], stamp := 0,
    nud := 0, kind := kind }

def Group.findPend? (g : Group) (seq : Nat) : Option Pend := g.pend.find? fun p => p.seq == seq
def Group.dropPend (g : Group) (seq : Nat) : Group := { g with pend := g.pend.filter fun p => p.seq != seq }
def Group.updPend (g : Group) (seq : Nat) (f : Pend → Pend) : Group := { g with pend := upd (fun p => p.seq == seq) f g.pend }

/-- The outstanding counts (03 R55). -/
def Group.count (g : Group) (c : Count) : Nat := g.pend.countP fun p => p.count == some c

/-- LSTAT: the status code and the opcode that sets it (04 R89, R91). -/
def status (opc code : Nat) : BitVec 16 := BitVec.ofNat 16 (opc * 256 + code)
def Group.setStat (opc code : Nat) (g : Group) : Group := { g with lstat := status opc code }

/-! ## What happens before (13 R231, R232, R237) -/

/-- Everything that either knows. -/
def Know.join (a b : Know) : Know :=
  { epoch := Nat.max a.epoch b.epoch, upto := Nat.max a.upto b.upto, seen := uniq (a.seen ++ b.seen) }

def Hand.join (a b : Hand) : Hand := { near := a.near.join b.near, far := uniq (a.far ++ b.far) }

/-- Who a team is. -/
def Team.ident (t : Team) : TeamId :=
  { launch := t.launch, piece := t.piece.idx, half := if t.body.pair then t.core % 2 else 0, chain := t.chain }

/-- Who a held write of the team is. -/
def Team.heldId (t : Team) (h : Held) : HeldId := { team := { t.ident with chain := h.chain }, gid := h.gid, seq := h.seq }

/-- What a release hands on to an acquire of a team: to its own team at team scope or wider, to others at device scope or wider (R230). -/
def Release.hand_ (r : Release) (me : TeamId) : Hand := if r.team = me then { near := r.hand.near } else { far := r.hand.far }

/-- An acquire of what a release handed on: it happens before all that the group does later, and before every thread that forks later (R232). -/
def Group.learn (k : Know) (g : Group) : Group := { g with know := g.know.join k, fork := g.fork.join k }

/-- Every engine thread of the group that has left one of these counts joins (13 R232): its held writes happen before what follows. -/
def State.joinThreads (cs : List Count) (s : State) : State :=
  let mine := s.team.held.filter fun h => h.chain == s.team.chain && h.gid == s.grp.gid && (match h.thread with
    | some c => cs.contains c
    | none => false) && !s.grp.pend.any fun p => p.seq == h.order
  if mine.isEmpty then s else s.onGrp (Group.learn { seen := mine.map s.team.heldId })

/-- Apply results to registers and flags (03 Table 3-2). -/
def Group.apply (r : Results) (g : Group) : Group :=
  let g := r.v.foldl (fun g x => { g with v := mapSet 0 g.v x.1 x.2 }) g
  let g := r.s.foldl (fun g x => g.setS x.1 x.2) g
  { g with fpcr := g.fpcr ||| BitVec.ofNat 5 r.flags }

/-- The next free value's argument (log entry 2). -/
def State.bump (s : State) : State := { s with free := s.free + 1 }

/-- The outcome of every meaning that goes on. -/
abbrev Out := Host.Outcome State Fault Refusal

end Sys2Proof.Machine
end

