-- ==== Sys2Proof/Machine/Operands.lean ====
section
/-! DEFINITION. Machine/Operands.lean: operand forms: which registers an instruction names, reads and writes (03 R59, R65,
R77; 05 R98), how sources are read and results laid out, holds of issue (R57 to R60), and the frames that instructions of one format
share: per lane (R62, R9), once for the group (R63), and with a uniform guard (04 R80). -/

namespace Sys2Proof.Machine

/-- A register operand. -/
inductive Reg
  | v (n : Nat)
  | s (n : Nat)
  deriving DecidableEq, Repr

def Reg.key : Reg → Nat
  | .v n => kV n | .s n => kS n

/-- The registers of an instruction: those its operands name, in the order of its fields (log entry 11), those it reads and
writes besides them as scoreboard keys, and whether it accumulates flags. -/
structure Uses where
  dst : List Reg := []
  src : List Reg := []
  reads : List Nat := []
  writes : List Nat := []
  acc : Bool := false
  deriving DecidableEq, Repr

/-- The key that stands for accumulated flags (03 R59). -/
def kAcc : Nat := 5000
def kDcnt : Nat := kSr 0x0B
def kFpcr : Nat := kSr 0x0C
def kLstat : Nat := kSr 0x0E

def vregs (r : VReg) (n : Nat) : List Reg := (List.range n).map fun i => .v (r.val + i)
def vspan (dbl : Bool) (r : VReg) : List Reg := vregs r (if dbl then 2 else 1)
def srcRegs (dbl : Bool) : VSrc → List Reg
  | .v r => vspan dbl r
  | .s r => [.s r.val]
def gr (g : Guard) : List Nat := [kP g.p.val, kXm]
/-- A write of a P register; P15 ignores it (04 R77), so that nothing depends on it. -/
def wP (p : Nat) : List Nat := if p = 15 then [] else [kP p]

/-- Registers of a memory datum (03 R65). -/
def widthRegs (w : Width) : Nat := match w with
  | .b1 => 1 | .b2 => 1 | .b4 => 1 | .b8 => 2 | .b16 => 4

def u2 (g : Guard) (dbl : Bool) (d : VReg) (a b : VSrc) : Uses :=
  { dst := vspan dbl d, src := srcRegs dbl a ++ srcRegs dbl b, reads := gr g }
def u1 (g : Guard) (dbl : Bool) (d : VReg) (a : VSrc) : Uses := { dst := vspan dbl d, src := srcRegs dbl a, reads := gr g }
def u3 (g : Guard) (dbl : Bool) (d : VReg) (a b c : VSrc) : Uses :=
  { dst := vspan dbl d, src := srcRegs dbl a ++ srcRegs dbl b ++ srcRegs dbl c, reads := gr g }
def us3 (d a b : SReg) : Uses := { dst := [.s d.val], src := [.s a.val, .s b.val] }
def us2 (d a : SReg) : Uses := { dst := [.s d.val], src := [.s a.val] }
def Uses.flag (u : Uses) : Uses := { u with acc := true }
def Uses.stat (u : Uses) : Uses := { u with writes := kLstat :: u.writes }

/-- The registers of every instruction; those of MMA, MLDB and MDRAIN that depend on the descriptor are added by their
meanings (10 R198, R201 to R203). -/
def Instr.uses : Instr → Uses
  | .nop _ => {}
  | .bra g _ | .join g | .exit g | .bkpt g | .brd g _ _ => { reads := gr g }
  | .call g _ => { reads := gr g, writes := [kS 1022] }
  | .callReg g sl => { src := [.s sl.val], reads := gr g, writes := [kS 1022] }
  | .yield g _ _ => { reads := gr g, writes := [kLstat] }
  | .exitNext g sl | .ret g sl => { src := [.s sl.val], reads := gr g }
  | .trap _ => {}
  | .stka _ => { reads := [kS 1023], writes := [kS 1023] }
  | .launch d a | .resize d a => (us2 d a).stat
  | .smov d a | .saddiReg d a _ => us2 d a
  | .smovi d _ | .smoviU d _ => { dst := [.s d.val] }
  | .smoviHi d _ | .saddi d _ | .saddiHi d _ => { dst := [.s d.val], reads := [kS d.val] }
  | .sadd _ _ d a b | .ssub _ _ d a b | .smul _ _ d a b | .smulh _ d a b | .sdiv _ _ _ d a b | .srem _ _ d a b | .sand _ d a b
  | .sor _ d a b | .sxor _ d a b | .sshl _ _ d a b | .sshr _ d a b | .ssar _ d a b | .smin _ d a b | .smax _ d a b => us3 d a b
  | .scmp _ _ p a b => { src := [.s a.val, .s b.val], writes := wP p.val }
  | .ssel p d a b => { us3 d a b with reads := [kP p.val] }
  | .spopc _ d a | .sclz _ d a => us2 d a
  | .iadd g t _ d a b | .isub g t _ d a b | .imul g t _ d a b | .imulh g t d a b | .imin g t d a b | .imax g t d a b
  | .iand g t d a b | .ior g t d a b | .ixor g t d a b | .iandn g t d a b | .ishl g t _ d a b | .ishr g t d a b
  | .isar g t d a b => u2 g t.dbl d a b
  | .imad g t _ d a b c | .iclamp g t d a b c => u3 g t.dbl d a b c
  | .iaddi g t _ d a _ => u1 g t.dbl d (.v a)
  | .iabs g t _ d a | .ineg g t _ d a | .ipopc g t d a | .iclz g t d a => u1 g t.dbl d a
  | .icmp g t _ p a b => { src := srcRegs t.dbl a ++ srcRegs t.dbl b, reads := gr g, writes := wP p.val }
  | .isel g t p d a b => { u2 g t.dbl d a b with reads := kP p.val :: gr g }
  | .ibfx g t d a c => { dst := vspan t.dbl d, src := srcRegs t.dbl a ++ srcRegs false c, reads := gr g }
  | .ibfi g t d a b c =>
    { dst := vspan t.dbl d, src := srcRegs t.dbl a ++ srcRegs t.dbl b ++ srcRegs false c, reads := gr g }
  | .idiv g _ t _ d a b | .irem g _ t d a b => u2 g t.dbl d a b
  | .fadd g t _ d a b | .fsub g t _ d a b | .fmul g t _ d a b | .fmin g t d a b | .fmax g t d a b | .fdiv g _ t _ d a b =>
    (u2 g t.dbl d a b).flag
  | .ffma g t _ _ d a b c => (u3 g t.dbl d a b c).flag
  | .fcmp g t _ p a b => { src := srcRegs t.dbl a ++ srcRegs t.dbl b, reads := gr g, writes := wP p.val, acc := true }
  | .fabs g t d a | .fneg g t d a => u1 g t.dbl d a
  | .frcp g _ t _ d a | .frsq g _ t _ d a | .fsqrt g _ t _ d a | .fex2 g _ t _ d a | .flg2 g _ t _ d a | .fsin g _ t _ d a
  | .fcos g _ t _ d a => (u1 g t.dbl d a).flag
  | .fclass g t d a => { dst := vspan false d, src := srcRegs t.dbl a, reads := gr g }
  | .fldex g t _ d a b => { dst := vspan t.dbl d, src := srcRegs t.dbl a ++ srcRegs false b, reads := gr g, acc := true }
  | .cvt g dt st rm d a => { dst := vspan dt.dbl d, src := vspan st.dbl a ++ (match rm with | .sr c => vspan false c | .mode _ => []),
                             reads := gr g, acc := true }
  | .cvti g t tof d a _ => { dst := vspan (!tof && t.dbl) d, src := vspan (tof && t.dbl) a, reads := gr g, acc := true }
  | .bscal g dbl _ _ _ d a b => { dst := vspan dbl d, src := srcRegs dbl a ++ srcRegs false b, reads := gr g, acc := true }
  | .pack g d a b c => { dst := vspan false d, reads := gr g,
                         src := srcRegs false a ++ srcRegs false b ++ (match c with | some c => srcRegs false c | none => []) }
  | .unpack g _ _ _ d a => u1 g false d a
  | .lxdec g sc bf d a => { dst := vregs d (if bf then 4 else 8), reads := gr g,
                            src := srcRegs false a ++ (match sc with | some (b, _) => srcRegs false b | none => []) }
  | .vmov g dbl d a => u1 g dbl d a
  | .vmovi g k d _ => { dst := vspan (k == .i64 || k == .n64) d, reads := gr g }
  | .s2v g m d a => { dst := vspan (m == .d) d, src := [.s a.val], reads := gr g }
  | .v2s g m d a => { dst := [.s d.val], src := vspan (m == .d) a, reads := gr g }
  | .shfl g _ d a b => { dst := vspan false d, src := vspan false a ++ srcRegs false b, reads := gr g }
  | .vote g dst _ p => match dst with
    | .ballot d => { dst := vspan false d, reads := kP p.val :: gr g }
    | .any d | .all d | .eq d => { reads := kP p.val :: gr g, writes := wP d.val }
  | .redux g _ t _ _ d a => { dst := [.s d.val], src := vspan t.dbl a, reads := gr g, acc := t == .f64 || t == .f32 }
  | .pfx g _ t _ _ d a => { dst := vspan t.dbl d, src := vspan t.dbl a, reads := gr g, acc := t == .f64 || t == .f32 }
  | .pand g _ _ d a b | .por g _ _ d a b | .pxor g _ _ d a b => { reads := kP a.val :: kP b.val :: gr g, writes := wP d.val }
  | .packp g hi d => { dst := vspan false d, reads := gr g ++ (List.range 8).map fun j => kP (j + if hi then 8 else 0) }
  | .unpackp g hi a => { src := vspan false a, reads := gr g, writes := (List.range 8).flatMap fun j => wP (j + if hi then 8 else 0) }
  | .ld g _ w _ _ _ _ d av as _ => { dst := vregs d (widthRegs w), src := [.v av.val, .s as.val], reads := gr g }
  | .st g w _ _ _ d av as _ => { src := vregs d (widthRegs w) ++ [.v av.val, .s as.val], reads := gr g }
  | .sld _ _ _ _ _ _ d as _ _ => { dst := [.s d.val], src := [.s as.val] }
  | .sst _ _ _ _ d as _ _ => { src := [.s d.val, .s as.val] }
  | .cpy g _ _ _ _ bv gv gs _ | .cpyToGlobal g _ _ _ _ bv gv gs _ => { src := [.v bv.val, .v gv.val, .s gs.val], reads := gr g }
  | .pfch g _ _ _ av as _ => { src := [.v av.val, .s as.val], reads := gr g }
  | .fence _ _ _ _ => {}
  | .stch g _ _ _ rv ov av as => { dst := vregs rv 4, src := vregs ov 4 ++ [.v av.val, .s as.val], reads := gr g }
  | .stdef d a b => (us3 d a b).stat
  | .strel a => { src := [.s a.val], writes := [kLstat] }
  | .barinit _ a => { src := [.s a.val], writes := [kLstat] }
  | .bararr _ => {}
  | .bararrToken _ d => { dst := [.s d.val] }
  | .barwait _ | .barsync _ | .barkill _ | .rfree _ => { writes := [kLstat] }
  | .barwaitPhase _ a | .rnga _ a | .rput _ a | .rputW _ a => { src := [.s a.val], writes := [kLstat] }
  | .barq _ d | .barqCnt _ d => { dst := [.s d.val] }
  | .rget _ d | .rgetW _ d => { dst := [.s d.val], writes := [kLstat] }
  | .mgang a => { src := [.s a.val] }
  | .mma _ _ _ _ _ _ ds | .mldb _ _ _ _ ds _ | .mdrain _ _ _ _ _ _ ds _ => { src := [.s ds.val, .s (ds.val + 1)] }
  | .rdsr n d => { dst := [.s d.val], reads := [kSr n.val] ++ (if n.val = 0x0C then [kAcc] else []) }
  | .wrsr n a => { src := [.s a.val], writes := [kSr n.val], reads := if n.val = 0x0C then [kAcc] else [] }
  | .coord g _ d => { dst := vspan false d, reads := gr g }
  | .piece _ d => { dst := [.s d.val] }
  | .rand g d => { dst := vspan false d, reads := kDcnt :: gr g, writes := [kDcnt] }
  | _ => {}

/-- The guard of a per-lane or uniform-guard instruction. -/
def Instr.guard? : Instr → Option Guard
  | .nop g | .bra g _ | .brd g _ _ | .join g | .call g _ | .callReg g _ | .ret g _ | .exit g | .exitNext g _ | .yield g _ _
  | .bkpt g => some g
  | .iadd g _ _ _ _ _ | .isub g _ _ _ _ _ | .imul g _ _ _ _ _ | .imulh g _ _ _ _ | .imin g _ _ _ _ | .imax g _ _ _ _
  | .iand g _ _ _ _ | .ior g _ _ _ _ | .ixor g _ _ _ _ | .iandn g _ _ _ _ | .ishl g _ _ _ _ _ | .ishr g _ _ _ _
  | .isar g _ _ _ _ | .imad g _ _ _ _ _ _ | .iclamp g _ _ _ _ _ | .iaddi g _ _ _ _ _ | .iabs g _ _ _ _ | .ineg g _ _ _ _
  | .ipopc g _ _ _ | .iclz g _ _ _ | .icmp g _ _ _ _ _ | .isel g _ _ _ _ _ | .ibfx g _ _ _ _ | .ibfi g _ _ _ _ _
  | .idiv g _ _ _ _ _ _ | .irem g _ _ _ _ _ => some g
  | .fadd g _ _ _ _ _ | .fsub g _ _ _ _ _ | .fmul g _ _ _ _ _ | .ffma g _ _ _ _ _ _ _ | .fmin g _ _ _ _ | .fmax g _ _ _ _
  | .fcmp g _ _ _ _ _ | .fabs g _ _ _ | .fneg g _ _ _ | .frcp g _ _ _ _ _ | .frsq g _ _ _ _ _ | .fsqrt g _ _ _ _ _
  | .fdiv g _ _ _ _ _ _ | .fex2 g _ _ _ _ _ | .flg2 g _ _ _ _ _ | .fsin g _ _ _ _ _ | .fcos g _ _ _ _ _ | .fclass g _ _ _
  | .fldex g _ _ _ _ _ | .cvt g _ _ _ _ _ | .cvti g _ _ _ _ _ | .bscal g _ _ _ _ _ _ _ | .pack g _ _ _ _
  | .unpack g _ _ _ _ _ | .lxdec g _ _ _ _ => some g
  | .vmov g _ _ _ | .vmovi g _ _ _ | .s2v g _ _ _ | .v2s g _ _ _ | .shfl g _ _ _ _ | .vote g _ _ _ | .redux g _ _ _ _ _ _
  | .pfx g _ _ _ _ _ _ | .pand g _ _ _ _ _ | .por g _ _ _ _ _ | .pxor g _ _ _ _ _ | .packp g _ _ | .unpackp g _ _
  | .ld g _ _ _ _ _ _ _ _ _ _ | .st g _ _ _ _ _ _ _ _ | .cpy g _ _ _ _ _ _ _ _ | .cpyToGlobal g _ _ _ _ _ _ _ _
  | .pfch g _ _ _ _ _ _ | .stch g _ _ _ _ _ _ _ | .coord g _ _ | .rand g _ => some g
  | _ => none

def Instr.isNever (i : Instr) : Bool :=
  match Instr.guard? i with
  | some g => g.isNever
  | none => false

/-- Control instructions, opcodes 0x01 to 0x09 (03 R58). -/
def Instr.isControl : Instr → Bool
  | .bra _ _ | .brd _ _ _ | .join _ | .call _ _ | .callReg _ _ | .ret _ _ | .exit _ | .exitNext _ _ | .yield _ _ _
  | .trap _ | .bkpt _ => true
  | _ => false

/-- Memory instructions: those that 06 R124 lists, with the others that access memory: LAUNCH, STDEF. -/
def Instr.isMemory : Instr → Bool
  | .ld _ _ _ _ _ _ _ _ _ _ _ | .st _ _ _ _ _ _ _ _ _ | .sld _ _ _ _ _ _ _ _ _ _ | .sst _ _ _ _ _ _ _ _
  | .cpy _ _ _ _ _ _ _ _ _ | .cpyToGlobal _ _ _ _ _ _ _ _ _ | .pfch _ _ _ _ _ _ _ | .stch _ _ _ _ _ _ _ _
  | .mma _ _ _ _ _ _ _ | .mldb _ _ _ _ _ _ | .mdrain _ _ _ _ _ _ _ _ | .launch _ _ | .stdef _ _ _ => true
  | _ => false

/-! ## Register bounds (04 R77, 03 R65) -/

def Group.inCap (g : Group) : Reg → Bool
  | .v n => decide (n < g.vcap)
  | .s n => decide (n < g.scap) || n == 1022 || n == 1023

def Group.capTrap (g : Group) : Reg → Trap
  | .v n => { kind := 12, cause := 0, d0 := BitVec.ofNat 64 n, d1 := BitVec.ofNat 32 g.vcap }
  | .s n => { kind := 12, cause := 1, d0 := BitVec.ofNat 64 n, d1 := BitVec.ofNat 32 g.scap }

/-- The register-bounds fault of an instruction, if any: its first operand beyond a cap (log entry 11). -/
def Group.bounds (g : Group) (i : Instr) : Option Trap :=
  (((Instr.uses i).dst ++ (Instr.uses i).src).find? fun r => !g.inCap r).map g.capTrap

/-! ## Holds of issue (03 R57 to R60) -/

def hits (a b : List Nat) : Bool := a.any fun k => b.contains k

/-- An instruction depends on a pending one (03 R59). -/
def dependsOn (reads writes : List Nat) (p : Pend) : Bool := hits reads p.writes || hits writes (p.reads ++ p.writes)

def Uses.allReads (u : Uses) : List Nat := u.src.map Reg.key ++ u.reads
def Uses.allWrites (u : Uses) : List Nat := u.dst.map Reg.key ++ u.writes

def Group.dependent (g : Group) (i : Instr) : Bool :=
  !Instr.isNever i && g.pend.any (dependsOn (Instr.uses i).allReads (Instr.uses i).allWrites)

/-- A window's end, or a control instruction behind any window (R57, R58). -/
def Group.windowShut (g : Group) (i : Instr) : Bool :=
  g.pend.any fun p => p.window && (p.left == 0 || Instr.isControl i)

/-- A memory instruction behind an acquire load or a STCH of its group (13 R229, R234). -/
def Group.behindAcquire (g : Group) (i : Instr) : Bool :=
  Instr.isMemory i && !Instr.isNever i && g.pend.any fun p =>
    match p.kind with
    | .load _ _ _ _ (some _) _ => true
    | .stch _ _ _ _ _ => true
    | _ => false

def Instr.isExit : Instr → Bool
  | .exit _ | .exitNext _ _ => true
  | _ => false

/-- An EXIT behind a BARARR of its group that has still to arrive: an exited group makes no further arrival (20 R327), and what issued
before the EXIT takes place before it (log entry 50). -/
def Group.exitBehind (g : Group) (i : Instr) : Bool :=
  Instr.isExit i && !Instr.isNever i && g.pend.any fun p =>
    match p.kind with
    | .arrive _ _ _ => true
    | _ => false

/-- The instruction accesses L1 or the A-buffer (08 R160). -/
def Instr.touchesWays : Instr → Bool
  | .ld _ _ _ _ sp _ _ _ _ _ _ | .st _ _ sp _ _ _ _ _ _ | .sld _ _ _ sp _ _ _ _ _ _ | .sst _ sp _ _ _ _ _ _ =>
    sp == .glob || sp == .priv || sp == .a
  | .cpy _ _ _ b _ _ _ _ _ | .cpyToGlobal _ _ _ b _ _ _ _ _ => b == .a
  | .mldb _ _ fromA _ _ _ => fromA
  | _ => false

/-- The role and the class of clause that an instruction of class M or C needs (03 R54). -/
def Instr.engine : Instr → Option (RoleKind × ClauseClass)
  | .mgang _ | .mma _ _ _ _ _ _ _ | .mldb _ _ _ _ _ _ | .mdrain _ _ _ _ _ _ _ _ => some (.mat, .m)
  | .cpy _ _ _ _ _ _ _ _ _ | .cpyToGlobal _ _ _ _ _ _ _ _ _ => some (.cpy, .c)
  | _ => none

/-- A RESIZE of the team is waiting: new accesses to L1 and the A-buffer stall (08 R160). -/
def State.resizing (s : State) : Bool := s.teamGroups.any (·.resizing)
def State.stalled (s : State) (i : Instr) : Bool := Instr.touchesWays i && !Instr.isNever i && s.resizing

/-- A byte of a peer's memory (08 R156). -/
def isPeer (key : Nat) : Bool := decide (peerBase ≤ key) && decide (key < bufBase .w)

/-- A load, a store, a copy or a drain that has a line at a peer. -/
def Pend.atPeer (p : Pend) : Bool :=
  match p.kind with
  | .load as _ _ _ _ _ => as.any fun a => isPeer a.key
  | .store _ ls => ls.any fun x => isPeer x.1.key
  | .copy _ _ _ _ _ _ xs => xs.any fun x => isPeer x.1.key
  | .mdrain _ _ _ ls _ => ls.any fun x => isPeer x.1.key
  | _ => false

/-- The peer may yet turn out to be unreachable (19 R291): no later instruction of the group issues before, so that a machine-check of the access is
precise (17 R268; log entry 68). -/
def Group.behindPeer (g : Group) : Bool := g.pend.any Pend.atPeer

/-- An instruction does not issue now. -/
def State.holds (s : State) (i : Instr) : Bool :=
  s.grp.windowShut i || s.grp.dependent i || s.grp.behindAcquire i || s.grp.exitBehind i || s.stalled i || s.grp.behindPeer

/-- A held instruction that reads and writes these registers stays where it is. Where it is dependent in an open window, the
violation counter rises once for it, or strict-lookahead mode raises the breakpoint (03 R60). -/
def State.stayOn (s : State) (opc : Nat) (reads writes : List Nat) : State :=
  let viol := s.grp.pend.any fun p => p.window && p.left != 0 && dependsOn reads writes p
  if viol && !s.grp.held then
    if s.team.strict then s.takeFault opc { kind := 19, cause := 1 }
    else { s with core := { s.core with viol := s.core.viol + 1 }, grp := { s.grp with held := true } }
  else s

/-- A control instruction cuts every window, which is no violation (03 R58). -/
def State.stay (s : State) (opc : Nat) (i : Instr) : State :=
  if Instr.isNever i || Instr.isControl i then s else s.stayOn opc (Instr.uses i).allReads (Instr.uses i).allWrites

/-! ## Frames of issue -/

/-- Issue, the body done, and on to the next instruction. -/
def State.finish (act : W32) (s : State) : State := (s.tally act).onGrp Group.step

/-- The lanes an instruction acts in: its active lanes, or those of them that replay (17 R271). -/
def State.lanes (s : State) (g : Guard) : W32 :=
  match s.grp.replay with
  | some (m, _) => m
  | none => s.grp.active g

/-- Formats that act per active lane (03 R62): a never guard has no effect; a register beyond its cap faults; otherwise `body` acts
in the active lanes. -/
def perLane (opc : Nat) (i : Instr) (g : Guard) (body : W32 → State → State) (s : State) : Out :=
  if s.holds i then .next (s.stay opc i)
  else if g.isNever then .next (s.finish 0)
  else match s.grp.bounds i with
    | some t => .next (s.takeFault opc t)
    | none => .next ((body (s.lanes g) s).finish (s.lanes g))

/-- Formats that act once for the group, even when XM is zero (R63). -/
def onceOp (opc : Nat) (i : Instr) (body : State → State) (s : State) : Out :=
  if s.holds i then .next (s.stay opc i)
  else match s.grp.bounds i with
    | some t => .next (s.takeFault opc t)
    | none => .next ((body s).finish s.grp.xm)

/-- The same where `body` may raise a fault instead. -/
def onceTry (opc : Nat) (i : Instr) (body : State → Except Trap State) (s : State) : Out :=
  if s.holds i then .next (s.stay opc i)
  else match s.grp.bounds i with
    | some t => .next (s.takeFault opc t)
    | none => match body s with
      | .error t => .next (s.takeFault opc t)
      | .ok s' => .next (s'.finish s.grp.xm)

/-- What a uniform guard decides (04 R80). -/
inductive Uniform
  | acts | nothing | diverges
  deriving DecidableEq, Repr

def Group.uniform (g : Group) (gd : Guard) : Uniform :=
  if g.xm = 0 then (if gd = Guard.always then .acts else .nothing)
  else if g.active gd = g.xm then .acts
  else if g.active gd = 0 then .nothing
  else .diverges

/-- Its record gives the lanes in which the guard holds, whatever XM, and XM (17 Table 17-3, 00 R9). -/
def Group.divergence (g : Group) (gd : Guard) (cause : Nat) : Trap :=
  { kind := 7, cause := cause, d0 := (g.guardLanes gd).setWidth 64, d1 := g.xm }

/-- The control instructions that act once with a uniform guard (R80): `body` does the transfer or takes the fault. -/
def uniformOp (opc : Nat) (i : Instr) (g : Guard) (body : State → State) (s : State) : Out :=
  if s.holds i then .next (s.stay opc i)
  else if g.isNever then .next (s.finish 0)
  else match s.grp.bounds i with
    | some t => .next (s.takeFault opc t)
    | none => match s.grp.uniform g with
      | .diverges => .next (s.takeFault opc (s.grp.divergence g 0))
      | .nothing => .next (s.finish (s.grp.active g))
      | .acts => .next (body s)

/-- Post results that a long-latency arithmetic instruction writes when it completes (03 Table 3-2, 21 Table 21-2). With no
active lane it completes at issue. -/
def longResult (opc : Nat) (la : Fin 16) (i : Instr) (res : Results) (s : State) : State :=
  s.post { Pend.new opc (.arith res) with
    window := true, left := la.val + 1, reads := (Instr.uses i).allReads,
    writes := (Instr.uses i).allWrites ++ (if (Instr.uses i).acc then [kAcc] else []) }

/-! ## Reading sources, writing results (05 R97, R98) -/

/-- A 32-bit source, or the low half of an S source. -/
def Group.src32 (g : Group) (l : Nat) : VSrc → W32
  | .v r => g.V r.val l
  | .s r => (g.S r.val).setWidth 32

/-- A source of 64 bits: a pair, or all of an S register. -/
def Group.src64 (g : Group) (l : Nat) : VSrc → W64
  | .v r => g.V64 r.val l
  | .s r => g.S r.val

/-- A source of a type of either size, as a number below 2^32 or 2^64. -/
def Group.srcNat (g : Group) (dbl : Bool) (l : Nat) (a : VSrc) : Nat :=
  if dbl then (g.src64 l a).toNat else (g.src32 l a).toNat

/-- Write a register, or a pair. -/
def Group.putV (g : Group) (dbl : Bool) (d l x : Nat) : Group :=
  if dbl then g.setV64 d l (BitVec.ofNat 64 x) else g.setV d l (BitVec.ofNat 32 x)

/-- The same as a list of results. -/
def vres (dbl : Bool) (d l x : Nat) : List (Nat × W32) :=
  if dbl then [(32 * d + l, BitVec.ofNat 32 x), (32 * (d + 1) + l, BitVec.ofNat 32 (x / 2 ^ 32))] else [(32 * d + l, BitVec.ofNat 32 x)]

/-- In each lane of a mask, from the state before, a value for the destination; every source is read before any write. -/
def mapLanes (dbl : Bool) (d : VReg) (f : Group → Nat → Nat) (act : W32) (s : State) : State :=
  { s with grp := (lanesOf act).foldl (fun g l => g.putV dbl d.val l (f s.grp l)) s.grp }

/-- The same with flags: the flags of all lanes accumulate in FPCR (05 R108). -/
def mapLanesF (dbl : Bool) (d : VReg) (f : Group → Nat → Nat × Nat) (act : W32) (s : State) : State :=
  let g := (lanesOf act).foldl (fun g l =>
    let r := f s.grp l
    { g.putV dbl d.val l r.1 with fpcr := g.fpcr ||| BitVec.ofNat 5 r.2 }) s.grp
  { s with grp := g }

/-- The same, posted until completion. -/
def laneResults (dbl : Bool) (d : VReg) (f : Group → Nat → Nat × Nat) (act : W32) (s : State) : Results :=
  let rs := (lanesOf act).map fun l => (l, f s.grp l)
  { v := rs.flatMap fun r => vres dbl d.val r.1 r.2.1, s := [], flags := rs.foldl (fun m r => m ||| r.2.2) 0 }

/-- Write a predicate bit in each lane of a mask. -/
def mapPred (p : PReg) (f : Group → Nat → Bool) (act : W32) (s : State) : State :=
  { s with grp := (lanesOf act).foldl (fun g l => g.setPbit p.val l (f s.grp l)) s.grp }

end Sys2Proof.Machine
end

