-- ==== Sys2Proof/Machine/Trans.lean ====
section
/-! DEFINITION. Machine/Trans.lean: page tables, the cluster TLB, accessed and dirty bits (08 R148 to R154), demand backing
(17 R271), and the lanes of a global access and their page faults (17 R269, R270). -/

namespace Sys2Proof.Machine

/-! ## The walk (R148, R149) -/

inductive Walk
  | leaf (l : Leaf)
  | notMapped
  | format
  deriving DecidableEq, Repr

def nonCanonical (va : Nat) : Bool := decide (2 ^ 53 ≤ va)

/-- The index of a virtual address at a level (Table 8-3), and the page size of a leaf there. -/
def vaIndex (level va : Nat) : Nat := bits va (22 + 10 * level) (13 + 10 * level)
def pageSize (level : Nat) : Nat := 2 ^ (13 + 10 * level)

/-- Where a leaf's frame stands: host memory, own HBM or a peer's (R149, R156). -/
def frameKey (dev e : Nat) : Nat :=
  let pa := bits e 62 24 * 8192
  if bitAt e 12 then hostBase + pa
  else if bits e 23 13 = dev then pa
  else peerBase + bits e 23 13 * peerSize + pa

/-- The leaf that an entry at a level gives a virtual address: its 8-KiB page within the leaf's page. -/
def leafOf (dev level e entry va : Nat) : Leaf :=
  { r := bitAt e 1, w := bitAt e 2, x := bitAt e 3, d := bitAt e 5, cp := bits e 8 6, wc := bits e 11 9, mig := bitAt e 63,
    size := pageSize level, base := frameKey dev e + va % pageSize level / 8192 * 8192, entry := entry }

/-- A leaf breaks the format (R149); device ids from 1,536 are reserved (19 R291). -/
def leafBad (level e : Nat) : Bool :=
  (bitAt e 2 && !bitAt e 1) || decide (4 ≤ bits e 8 6) || decide (level = 3) ||
  decide (bits e 62 24 % 2 ^ (10 * level) ≠ 0) || (!bitAt e 12 && decide (2 ^ 26 ≤ bits e 62 24)) ||
  (bitAt e 12 && decide (bits e 23 13 ≠ 0)) || decide (1536 ≤ bits e 23 13)

/-- A pointer entry breaks the format: A, D, CP, WC, SYS, DEV or MIG nonzero. -/
def pointerBad (e : Nat) : Bool := decide (bits e 23 4 ≠ 0) || bitAt e 63

/-- Walk from a table at a level; a FRAME beyond device memory is no case of a broken format (log entry 61). -/
def walkFrom (m : Memory) (dev va : Nat) : Nat → Nat → Walk
  | level, table =>
    let entry := table + 8 * vaIndex level va
    let e := m.word entry 8
    if !bitAt e 0 then .notMapped
    else if bits e 3 1 = 0 then
      (if pointerBad e then .format
       else match level with
         | 0 => .format
         | n + 1 => walkFrom m dev va n (bits e 62 24 * 8192))
    else if leafBad level e then .format
    else .leaf (leafOf dev level e entry va)

/-- The walk of a context. -/
def State.walk (s : State) (ctx va : Nat) : Walk :=
  match s.findCtx? ctx with
  | some c => walkFrom s.mem s.dev.devid va 3 c.root
  | none => .notMapped

/-! ## The cluster TLB (R152 to R154): an entry serves until it is invalidated (log entry 8). -/

def State.cluster (s : State) : Nat := s.core.id / Config.clusterSize

def State.tlbFind? (s : State) (cluster ctx va : Nat) : Option Leaf :=
  (s.tlb.find? fun e => e.cluster == cluster && e.ctx == ctx && e.page == va / 8192).map (·.leaf)

/-- What a translation finds: the TLB's leaf, or the walk's. -/
def State.translate (s : State) (cluster ctx va : Nat) : Walk :=
  match s.tlbFind? cluster ctx va with
  | some l => .leaf l
  | none => s.walk ctx va

/-- Keep a leaf in the cluster's TLB. -/
def State.tlbKeep (cluster ctx va : Nat) (l : Leaf) (s : State) : State :=
  match s.tlbFind? cluster ctx va with
  | some _ => s
  | none => { s with tlb := s.tlb ++ [{ cluster := cluster, ctx := ctx, page := va / 8192, leaf := l }] }

/-- Set A, and D for a write, in the leaf's entry in memory and in the TLB entries of the page (R151). Neither this nor a walk asks a home slice
for the entry's line (log entry 70). -/
def State.setAD (ctx va : Nat) (l : Leaf) (write : Bool) (s : State) : State :=
  let e := s.mem.byte l.entry
  let e' := e ||| 16 ||| (if write then 32 else 0)
  let s := if e' = e then s else { s with mem := s.mem.put l.entry e' }
  if write then { s with tlb := upd (fun t => t.ctx == ctx && t.page == va / 8192)
                                  (fun t => { t with leaf := { t.leaf with d := true } }) s.tlb }
  else s

/-- The rights an access needs (R150). -/
inductive Need
  | r | w | rw | x
  deriving DecidableEq, Repr

def Leaf.grants (l : Leaf) : Need → Bool
  | .r => l.r | .w => l.w | .rw => l.r && l.w | .x => l.x

def Need.writes : Need → Bool
  | .w => true | .rw => true | _ => false

/-- What a denied access takes: kind and cause. A write that only W = 0 denies on a page in migration takes the permission-upgrade
fault (R150, R158). -/
def Leaf.denial (l : Leaf) (n : Need) : Nat × Nat :=
  if n.writes && l.mig && !l.w && (n == .w || l.r) then (2, 0) else (1, 1)

/-- One lane's translation. -/
inductive LaneX
  | ok (a : LaneAcc)
  | fault (kind cause : Nat) (page : Nat × Nat)   -- the page's size, and its number among pages of that size
  deriving DecidableEq, Repr

def State.laneX (s : State) (cluster ctx : Nat) (n : Need) (lane va : Nat) : LaneX :=
  if nonCanonical va then .fault 1 2 (8192, va / 8192)
  else match s.translate cluster ctx va with
    | .notMapped => .fault 1 0 (8192, va / 8192)
    | .format => .fault 1 3 (8192, va / 8192)
    | .leaf l =>
      if l.grants n then .ok { lane := lane, va := va, key := l.base + va % 8192, leaf := l }
      else .fault (l.denial n).1 (l.denial n).2 (l.size, va / l.size)

/-- The lines of L1 that hold a virtual line of the context. -/
def Core.l1Find? (c : Core) (ctx vline : Nat) : Option L1Line := c.lines.find? fun x => x.ctx == ctx && x.vline == vline

/-- A leaf that an L1 line's record stands for (R152). -/
def L1Line.leaf (x : L1Line) : Leaf :=
  { r := x.r, w := x.w, x := false, d := x.d, cp := x.cp, wc := x.wc, mig := false, size := 8192, base := x.pline * 128 / 8192 * 8192,
    entry := hostBase }

/-- Lanes with their addresses through translation. A lane that `hit` serves goes by its L1 line's record. -/
def State.lanesX (s : State) (n : Need) (hit : Bool) (ls : List (Nat × Nat)) : List LaneX :=
  ls.map fun x =>
    let line := if hit then s.core.l1Find? s.team.ctx (x.2 / 128) else none
    match line with
    | some y =>
      if y.r && (!n.writes || (y.w && y.d)) then
        .ok { lane := x.1, va := x.2, key := y.pline * 128 + x.2 % 128, leaf := y.leaf }
      else s.laneX s.cluster s.team.ctx n x.1 x.2
    | none => s.laneX s.cluster s.team.ctx n x.1 x.2

def laneAccs (xs : List LaneX) : List LaneAcc := xs.filterMap fun x => match x with | .ok a => some a | .fault _ _ _ => none

/-- The lanes that fail, as pages in rising order of their lowest lane (17 R270); `ls` gives each lane's address. -/
def pageFaults (ls : List (Nat × Nat)) (xs : List LaneX) : List PageFault :=
  let fs := (ls.zip xs).filterMap fun p => match p.2 with
    | .fault k c pg => some (p.1.1, p.1.2, k, c, pg)
    | .ok _ => none
  fs.foldl (fun acc f =>
    let same := fun p : PageFault × Nat × Nat => p.1.kind == f.2.2.1 && p.1.cause == f.2.2.2.1 && p.2 == f.2.2.2.2
    if acc.any same then upd same (fun p => ({ p.1 with lanes := p.1.lanes ||| maskOf [f.1] }, p.2)) acc
    else acc ++ [({ kind := f.2.2.1, cause := f.2.2.2.1, va := f.2.1, lane := f.1, lanes := maskOf [f.1] }, f.2.2.2.2)]) []
  |>.map (·.1)

/-- The effects of translations that succeeded: kept in the TLB, A and D set. -/
def State.used (write : Bool) (as : List LaneAcc) (s : State) : State :=
  as.foldl (fun s a =>
    if a.leaf.entry = hostBase then s
    else (s.tlbKeep s.cluster s.team.ctx a.va a.leaf).setAD s.team.ctx a.va a.leaf write) s

/-- The same for the instruction in hand, which has had to translate where no L1 line served a lane (03 R56, R57). -/
def State.translated (write : Bool) (as : List LaneAcc) (s : State) : State :=
  (s.used write as).onGrp fun g => { g with gap := if as.any fun a => a.leaf.entry ≠ hostBase then .inHand else g.gap }

/-! ## Demand backing (17 R271) -/

/-- The table at level `n` on the walk to `va`, if every pointer above it is there. -/
def tableAt (m : Memory) (va root : Nat) : Nat → Nat → Option Nat
  | n, level =>
    if n ≥ level then some root
    else match level with
      | 0 => some root
      | l + 1 =>
        let e := m.word (root + 8 * vaIndex (l + 1) va) 8
        if bitAt e 0 && decide (bits e 3 1 = 0) then tableAt m va (bits e 62 24 * 8192) n l else none

/-- Fill n bytes with zeros. -/
def Memory.zeroBytes (m : Memory) (base n : Nat) : Memory := (List.range n).foldl (fun m i => m.put (base + i) 0) m

/-- The same done fast: drop the cells there where an unlisted byte reads as zero. -/
def Memory.clearBytes (m : Memory) (base n : Nat) : Memory :=
  if Config.blankByte = 0 then m.filter fun c => decide (c.1 < base ∨ base + n ≤ c.1) else m.zeroBytes base n

/-- Fill a frame with zeros. -/
def Memory.clearPage (m : Memory) (base : Nat) : Memory := m.clearBytes base 8192

/-- The least level whose table on the walk is there: 0 where only the leaf is missing. -/
def missingBelow (m : Memory) (va root : Nat) : Nat :=
  if (tableAt m va root 0 3).isSome then 0
  else if (tableAt m va root 1 3).isSome then 1
  else if (tableAt m va root 2 3).isSome then 2 else 3

def pointerTo (frame : Nat) : Nat := 1 + frame / 8192 * 2 ^ 24
/-- The leaf that firmware writes: V R W, X 0, A D 0, CP 0, WC 0, SYS 0, MIG 0, DEV its own. -/
def demandLeaf (dev frame : Nat) : Nat := 7 + dev * 2 ^ 13 + frame / 8192 * 2 ^ 24

/-- Put a pointer of level `lvl` into the table, to the next frame of the pool, and go on in that frame: the table, the
next frame of the pool and memory. -/
def linkTable (va : Nat) (x : Nat × Nat × Memory) (lvl : Nat) : Nat × Nat × Memory :=
  (x.2.1, x.2.1 + 8192, (x.2.2.clearPage x.2.1).putWord (x.1 + 8 * vaIndex lvl va) 8 (pointerTo x.2.1))

/-- Write the `n` tables that miss below `table`, from the pool frames that follow `next`, the highest first, and the leaf. -/
def buildWalk (dev va leafFrame n table next : Nat) (m : Memory) : Memory :=
  let x := ([3, 2, 1].filter fun l => decide (l ≤ n)).foldl (linkTable va) (table, next, m)
  x.2.2.putWord (x.1 + 8 * vaIndex 0 va) 8 (demandLeaf dev leafFrame)

/-- Back one not-mapped page of the demand range; none where it lies outside or the pool cannot. -/
def State.backPage (ctx va : Nat) (s : State) : Option State :=
  match s.findCtx? ctx with
  | none => none
  | some c =>
    if va / 8192 < c.dzBase / 8192 ∨ c.dzBase / 8192 + c.dzPages ≤ va / 8192 then none
    else
      let miss := missingBelow s.mem va c.root
      if c.poolN < c.poolNext + miss + 1 then none
      else match tableAt s.mem va c.root miss 3 with
        | none => none
        | some table =>
          let frame := c.pool + 8192 * c.poolNext
          let m := buildWalk s.dev.devid va frame miss table (frame + 8192) (s.mem.clearPage frame)
          some ({ s with mem := m }.onCtx ctx fun c => { c with poolNext := c.poolNext + miss + 1 })

/-! ## Invalidation (08 R154) -/

/-- Drop the TLB entries and L1 lines of the context's pages that `p` picks. -/
def State.invalidate (ctx : Nat) (p : Nat → Bool) (s : State) : State :=
  let s := { s with tlb := s.tlb.filter fun e => !(e.ctx == ctx && p e.page) }
  s.mapCores fun c => { c with lines := c.lines.filter fun x => !(x.ctx == ctx && p (x.vline / 64)) }

/-- Whether an access in flight was translated through the context's pages that `p` picks. -/
def PKind.touches (p : Nat → Bool) : PKind → Bool
  | .load as _ _ _ _ _ => as.any fun a => p (a.va / 8192)
  | .store _ ls => ls.any fun a => p (a.1.va / 8192)
  | .copy _ _ _ _ _ _ as => as.any fun a => p (a.1.va / 8192)
  | .stch _ _ _ _ ls => ls.any fun a => p (a.1.va / 8192)
  | .mdrain _ _ _ ls _ => ls.any fun a => p (a.1.va / 8192)
  | _ => false

/-- The context of a group. -/
def State.groupCtx (s : State) (g : Group) : Option Nat := (s.findTeam? g.core g.slot).map (·.ctx)

/-- A held write goes to a frame that `p` picks, by the location key divided by 8192. -/
def HeldKind.touches (p : Nat → Bool) : HeldKind → Bool
  | .bytes cs => cs.any fun c => p (c.1 / 8192)
  | .stitch _ _ key _ => p (key / 8192)
  | .add _ cs => cs.any fun c => p (c.1 / 8192)
  | .child _ => false

/-- An access of the context is on its way through a page that `p` picks. -/
def State.inFlight (s : State) (ctx : Nat) (p : Nat → Bool) : Bool :=
  s.allGroups.any fun g => g.live && s.groupCtx g == some ctx && g.pend.any fun q => q.kind.touches p

/-- A held write of the context has still to perform in a frame that `k` picks (08 R154): of a team, of a retired piece, or in an image. -/
def State.heldFor (s : State) (ctx : Nat) (k : Nat → Bool) : Bool :=
  (s.allTeams.any fun t => t.live && t.ctx == ctx && t.held.any fun h => h.kind.touches k) ||
  (s.launches.any fun l => l.ctx == ctx && l.retired.any fun r => r.held.any fun h => h.2.2.kind.touches k) ||
  s.images.any fun m => m.ctx == ctx && m.teams.any fun t => t.held.any fun h => h.kind.touches k

end Sys2Proof.Machine
end

