-- ==== Sys2Proof/Machine/Teams.lean ====
section
/-! DEFINITION. Machine/Teams.lean: body descriptors (06 R117), the start of a team and of a successor (04 R75 to R79, R86, R87),
retirement and the end of a piece (04 R85, 06 R124, R134), the partner of a pair (06 R123), pending lists of retired teams (16
R259, 20 R320), tags (09 R178). -/

namespace Sys2Proof.Machine

/-! ## Body descriptors (Table 6-1) -/

def leWords (bs : List Byte) (i : Nat) : Nat := leNat ((bs.drop (8 * i)).take 8)

def parseRole (w : Nat) : Option Role :=
  let c := bits w 7 2
  let v := bits w 17 8
  let sc := bits w 28 18
  if 32 < c ∨ v < 1 ∨ 512 < v ∨ sc < 1 ∨ 1024 < sc ∨ w / 2 ^ 29 ≠ 0 then none
  else match bits w 1 0 with
    | 0 => some ⟨.vec, c, v, sc⟩
    | 1 => some ⟨.mat, c, v, sc⟩
    | 2 => some ⟨.cpy, c, v, sc⟩
    | _ => none

def allSome {α : Type} : List (Option α) → Option (List α)
  | [] => some []
  | none :: _ => none
  | some a :: l => (allSome l).map (a :: ·)

/-- The descriptor at an address from its 64 bytes; none where it breaks Table 6-1. -/
def parseBody (addr : Nat) (bs : List Byte) : Option Body :=
  let e := leWords bs 0
  let h := leWords bs 1
  let z := leWords bs 2
  let n := bits h 11 10 + 1
  let priv := bits z 50 32
  if e % 8 ≠ 0 ∨ 2 ^ 53 ≤ e ∨ bits h 7 0 ≠ 1 ∨ h / 2 ^ 12 ≠ 0 ∨ 64 < bits z 6 0 ∨ 32 < bits z 14 8 ∨ 16 < bits z 20 16 ∨
     262144 < priv ∨ priv % 4 ≠ 0 ∨ bitAt z 7 ∨ bitAt z 15 ∨ bits z 31 21 ≠ 0 ∨ z / 2 ^ 51 ≠ 0 ∨ leWords bs 7 ≠ 0 ∨
     (List.range 4).any (fun i => decide (n ≤ i) && decide (leWords bs (3 + i) ≠ 0)) then none
  else match allSome ((List.range n).map fun i => parseRole (leWords bs (3 + i))) with
    | none => none
    | some rs => some { addr := addr, entry := e, excl := bitAt h 8, pair := bitAt h 9, wg := bits z 6 0, ag := bits z 14 8,
                        dg := bits z 20 16, priv := priv, roles := rs }

/-! ## Groups of a body (04 R75 to R79) -/

def Role.groups (p : Nat) (r : Role) : Nat := if r.count = 0 then ceilDiv p 32 else r.count
def Body.gcnt (b : Body) (p : Nat) : Nat := (b.roles.map (Role.groups p)).foldl (· + ·) 0
def Body.hasPts (b : Body) : Bool := b.roles.any fun r => r.count == 0
/-- The number of the first `pts` role. -/
def Body.firstPts (b : Body) : Nat := b.roles.findIdx fun r => r.count == 0

/-- The first GID of role i. -/
def Body.roleFirst (b : Body) (p i : Nat) : Nat := ((b.roles.take i).map (Role.groups p)).foldl (· + ·) 0

/-- XM at team start (R79): lanes with a point in the first `pts` role, else all. -/
def startXm (p : Nat) : Option Nat → W32
  | some q => maskOf (allLanes.filter fun l => decide (32 * q + l < p))
  | none => 0xFFFFFFFF#32

/-- S registers at team start (Table 4-1). -/
def startS (params : List W64) (scap priv : Nat) : Map W64 :=
  let m := (params.zipIdx.filter fun x => decide (x.2 < scap)).foldl (fun m x => mapSet 0 m x.2 x.1) ([] : Map W64)
  mapSet 0 m 1023 (BitVec.ofNat 64 priv)

def mkGroup (b : Body) (p : Nat) (params : List W64) (core slot i gid : Nat) (r : Role) : Group :=
  let first := b.roleFirst p i
  let pg := if b.firstPts = i ∧ r.count = 0 then some (gid - first) else none
  { core := core, slot := slot, gid := gid, live := true, role := i, kind := r.kind, roleFirst := first, roleCount := r.groups p,
    pointGroup := pg, vcap := r.vcap, scap := r.scap, base := b.entry, xm := startXm p pg, s := startS params r.scap b.priv }

/-- All groups of a body for a piece of p points. -/
def mkGroups (b : Body) (p : Nat) (params : List W64) (core slot : Nat) : List Group :=
  b.roles.zipIdx.flatMap fun x =>
    (List.range (x.1.groups p)).map fun j => mkGroup b p params core slot x.2 (b.roleFirst p x.2 + j) x.1

def Piece.points (x : Piece) : Nat := x.ex * x.ey

/-! ## Barriers of a team -/

def Team.bar (t : Team) (b : BReg) : Bar := mapGet {} t.bars b.val
def Team.setBar (t : Team) (b : BReg) (x : Bar) : Team := { t with bars := mapSet {} t.bars b.val x }

/-! ## Blocks (16 R259, 04 R86) -/

def vBlocks (vcap : Nat) : Nat := ceilDiv vcap 32
def sBlocks (scap : Nat) : Nat := ceilDiv (scap + 2) 32

/-- V-register blocks that a team's groups need in quadrant q. -/
def vNeed (gs : List Group) (q : Nat) : Nat := ((gs.filter fun g => g.gid % 4 == q).map fun g => vBlocks g.vcap).foldl (· + ·) 0
def sNeed (gs : List Group) : Nat := (gs.map fun g => sBlocks g.scap).foldl (· + ·) 0
def quadCount (gs : List Group) (q : Nat) : Nat := gs.countP fun g => g.gid % 4 == q
def quads : List Nat := List.range Config.quadrants

def State.teamsOn (s : State) (c : Nat) : List Team := s.allTeams.filter fun t => t.live && t.core == c

/-- The groups of a core that hold their registers: those of teams that have not retired (04 R85). -/
def State.groupsOn (s : State) (c : Nat) (parked : Bool) : List Group :=
  let ts := (s.teamsOn c).filter fun t => !t.retiring && (parked || !t.inL2)
  s.allGroups.filter fun g => g.live && g.core == c && ts.any fun t => t.slot == g.slot

/-- The register blocks of the team in focus, where they are free in its core (16 R261). -/
def State.unparkFits (s : State) : Bool :=
  let have_ := s.groupsOn s.team.core false
  let mine := s.teamGroups
  quads.all (fun q => decide (vNeed have_ q + vNeed mine q ≤ 32)) && decide (sNeed have_ + sNeed mine ≤ 1024)

/-- A parked team is unparked before an arrival comes to it; none where its blocks are not free yet (16 R261). -/
def State.unparked? (s : State) : Option State :=
  if !s.team.inL2 then some s else if s.unparkFits then some (s.onTeam fun t => { t with inL2 := false }) else none

/-! ## Partners, tags -/

/-- The partner of a team (06 R123): same launch and piece, on the other core of the pair. -/
def State.partnerOf? (s : State) (t : Team) : Option Team :=
  if t.body.pair then
    s.allTeams.find? fun x => x.live && x.core == t.core ^^^ 1 && x.launch == t.launch && x.piece.idx == t.piece.idx
  else none

def State.partner? (s : State) : Option Team := s.partnerOf? s.team

/-- Remove a team's tag from every slice and MSC (09 R178). -/
def State.dropTag (core slot gen : Nat) (s : State) : State :=
  { s with teamNow := s.teamNow.filter fun e => e.tag != ⟨core, slot, gen⟩ }

/-- Whether a group of the team has an issued instruction that has not finished. -/
def State.teamBusy (s : State) (t : Team) : Bool :=
  s.allGroups.any fun g => g.live && g.core == t.core && g.slot == t.slot && !g.pend.isEmpty

/-- A request of the team waits for its line (09 R183). -/
def State.asksFill (s : State) (t : Team) : Bool := s.fills.any fun f => f.req.tag == some ⟨t.core, t.slot, t.gen⟩

/-! ## Ways of L1 held by RESIZE (08 R160) -/

/-- The team's ways return to L1, empty. -/
def Core.returnWays (c : Core) : Core := { c with l1w := 16 }

/-! ## Retirement (04 R85; 06 R124, R134) -/

/-- What a team's counts add to its piece's record. -/
def Team.counts (t : Team) : PRec :=
  { idx := t.piece.idx, entry := t.piece.entry, band := t.piece.band, p := t.piece.points, i := t.icnt, a := t.acnt, l := t.lcnt, f := t.fcnt }

/-- The piece finishes: its record, and under DET it waits for commit. -/
def Launch.finishPiece (idx : Nat) (l : Launch) : Launch :=
  let hs := l.halves.filter fun r => r.idx == idx
  let sum := fun f : PRec → Nat => (hs.map f).foldl (· + ·) 0
  match hs with
  | [] => l
  | r :: _ =>
    { l with halves := l.halves.filter fun r => r.idx != idx
             running := l.running.filter (· != idx)
             recs := l.recs ++ [{ r with i := sum (·.i), a := sum (·.a), l := sum (·.l), f := sum (·.f) }] }

/-- The team in focus retires without a successor: its counts go to the launch; where it is the piece's last team the piece
finishes; its held writes wait for commit, even core first. -/
def State.retireTeam (s : State) : State :=
  let t := s.team
  let last := match s.partner? with
    | some q => q.retiring
    | none => true
  let s := s.onLaunch t.launch fun l =>
    let l := { l with halves := l.halves ++ [t.counts] }
    let held := t.held.map fun h => (t.core, t.slot, h)
    let l := if !t.det then l
      else if l.retired.any (fun r => r.idx == t.piece.idx) then
        { l with retired := upd (fun r => r.idx == t.piece.idx)
                   (fun r => { r with held := if t.core % 2 = 0 then held ++ r.held else r.held ++ held }) l.retired }
      else { l with retired := l.retired ++ [{ idx := t.piece.idx, held := held }] }
    if last then l.finishPiece t.piece.idx else l
  let s := s.onTeam fun t => { t with retiring := true, bars := [], rings := [], pool := [], poolKnow := [], held := [] }
  let s := if t.aNow = t.agBase then s else s.onCore Core.returnWays
  s.dropTag t.core t.slot t.gen

/-- A retired team leaves once nothing of it is in flight and, under DET, its piece has committed: its slot and buffers are free,
and its tag goes a second time (20 R320, 06 R134, 09 R183). -/
def State.gone (s : State) (t : Team) : Bool :=
  t.live && t.retiring && !s.teamBusy t && !s.asksFill t &&
    (!t.det || match s.findLaunch? t.launch with
      | some l => decide (t.piece.idx < l.committed) ||
          ((l.fault.isSome || l.status.isSome) && !l.retired.any fun r => r.idx == t.piece.idx)
      | none => true)

def State.reap (s : State) : State :=
  let out := s.allTeams.filter s.gone
  if out.isEmpty then s
  else
    let dead := fun c k => out.any fun t => t.is c k
    let s1 := { s with
      groups := s.groups.filter fun g => !dead g.core g.slot
      teams := s.teams.filter fun t => !dead t.core t.slot
      grp := if dead s.grp.core s.grp.slot then {} else s.grp
      team := if dead s.team.core s.team.slot then {} else s.team }
    out.foldl (fun s t => s.dropTag t.core t.slot t.gen) s1

/-! ## Successors (04 R86, R87) -/

/-- The check of the last EXIT.NEXT against the holdings of the team that retires (log entry 51). -/
def State.holdingsOk (s : State) (b : Body) : Bool :=
  let t := s.team
  let p := t.piece.points
  let new := mkGroups b p [] t.core t.slot
  decide (b.wg ≤ t.wAll) && decide (b.ag ≤ t.aNow) && decide (b.dg ≤ t.dAll) && decide (b.gcnt p ≤ t.gcnt) &&
  decide (b.priv ≤ t.body.priv) && b.excl == t.body.excl && b.pair == t.body.pair &&
  new.all fun n => match s.teamGroups.find? fun g => g.gid == n.gid with
    | some g => decide (vBlocks n.vcap ≤ vBlocks g.vcap) && decide (sBlocks n.scap ≤ sBlocks g.scap)
    | none => false

/-- What goes on in flight from a retiring group to its successor (20 R327): what it writes to memory and buffers, and nothing that the
successor waits for. Copies make no arrival, since the barriers are released; the flags of a drain were the retired group's. -/
def Pend.carry (p : Pend) : Pend :=
  { p with count := none, window := false, left := 0, reads := [], writes := [], carried := true,
           kind := match p.kind with
             | .copy d w b bar _ k as => .copy d w b bar true k as
             | k => k }

/-- The pending operations of a retiring group that go on; an arrival on a barrier of the retired team is none. -/
def Group.carried (g : Group) : List Pend :=
  (g.pend.filter fun p => match p.kind with | .arrive _ _ _ => false | _ => true).map Pend.carry

/-- Start the successor in place of the team in focus, whose last group has exited. What the whole team knew and did happens before it, its queued
stores among them; the held writes of earlier teams of the chain do anyway (13 R237). S registers of group 0 past its cap, and the points of a team
that no piece gave any, are 0 (log entry 51). -/
def State.startSuccessor (b : Body) (s : State) : State :=
  let t := s.team
  let p := t.piece.points
  let old := s.teamGroups
  let params := match old.find? fun g => g.gid == 0 with
    | some g => (List.range 16).map g.S
    | none => []
  let dcnt := old.foldl (fun m g => if m.toNat < g.dcnt.toNat then g.dcnt else m) 0
  let know : Know := { epoch := old.foldl (fun e g => Nat.max e g.know.epoch) 0, upto := s.core.seq }
  let new := (mkGroups b p params t.core t.slot).map fun n =>
    match old.find? fun g => g.gid == n.gid with
    | some g => { n with dcnt := dcnt, privBase := g.privBase, pend := g.carried, know := know, fork := know }
    | none => { n with dcnt := dcnt, know := know, fork := know }
  -- groups that have no successor hand their pending work to group 0
  let rest := (old.filter fun g => !new.any fun n => n.gid == g.gid).flatMap Group.carried
  let new := match new with
    | n :: ns => { n with pend := n.pend ++ rest } :: ns
    | [] => []
  let mine := fun g : Group => g.core == t.core && g.slot == t.slot
  let others := s.allGroups.filter fun g => g.live && !mine g
  { s with
    grp := new.headD {}
    groups := others ++ new.drop 1
    team := { t with body := b, gcnt := b.gcnt p, bars := [], rings := [], pool := [], poolKnow := [], exk := none,
                     chain := t.chain + 1, rels := [] } }

end Sys2Proof.Machine
end

