-- ==== Sys2Proof/Machine/Replace.lean ====
section
/-! DEFINITION. Machine/Replace.lean: next-use stamps, team tables, victim choice, line fills and the cinch of home slices and
MSCs (09 R172 to R184). None of it changes a value that a program reads (R184). -/

namespace Sys2Proof.Machine

/-- The distance of a code (R172). -/
def nudDist (c : Nat) : Nat := (16 + c % 16) * 2 ^ (c / 16) - 16

/-- The due stamp of a request (R175): zero where the code states none. -/
def dueStamp (r g c : Nat) : Nat := if 1 ≤ c ∧ c ≤ 254 then (r + g * nudDist c) % 2 ^ 48 else 0

/-! ## Where lines live (01 R19, R20; 09 R180) -/

def stackOf (key : Nat) : Nat := bits key 38 36
def sliceOf (key : Nat) : Nat := bits key 10 7 ^^^ bits key 14 11 ^^^ bits key 18 15 ^^^ bits key 22 19
/-- The home slice of a line of local HBM, die × 16 + slice. -/
def homeUnit (key : Nat) : Nat := stackOf key / 2 * 16 + sliceOf key
def mscUnit (key : Nat) : Nat := Config.l2Slices + stackOf key
def isMsc (unit : Nat) : Bool := decide (Config.l2Slices ≤ unit)
def setOf (unit key : Nat) : Nat := if isMsc unit then bits key 25 7 else bits key 21 11
def isLocal (key : Nat) : Bool := decide (key < 2 ^ 39)

/-! ## Team tables (R178, R179): the entry that a request updated last stands last. -/

def State.teamUpdate (unit : Nat) (q : Req) (s : State) : State :=
  match q.tag with
  | none => s
  | some tag =>
    let mine := s.teamNow.filter fun e => e.unit == unit
    let others := s.teamNow.filter fun e => e.unit != unit
    let now := match mine.find? fun e => e.tag == tag with
      | some e => Nat.max e.now q.r
      | none => q.r
    let rest := mine.filter fun e => e.tag != tag
    let rest := if rest.length < Config.teamTable then rest else rest.drop 1
    { s with teamNow := others ++ rest ++ [{ unit := unit, tag := tag, now := now }] }

def State.nowOf (s : State) (unit : Nat) (tag : Option Tag) : Option Nat :=
  match tag with
  | none => none
  | some t => (s.teamNow.find? fun e => e.unit == unit && e.tag == t).map (·.now)

/-- The remaining distance of a stamped line whose team is tracked. -/
def State.remOf (s : State) (x : RLine) : Option Int :=
  if x.kind ≠ 0 then none
  else (s.nowOf x.unit x.tag).map fun now => sext 48 ((x.due + 2 ^ 48 - now % 2 ^ 48) % 2 ^ 48)

/-! ## Stamps (R177, Table 9-3; log entry 62) -/

def RLine.stamped (fill : Bool) (q : Req) (x : RLine) : RLine :=
  let same := !fill && x.tag.isSome && x.tag == q.tag
  let x := { x with dirty := x.dirty || q.dirty }
  match q.code with
  | none => if fill then { x with kind := 2, h := false, ctx := q.ctx, tag := none } else { x with h := true }
  | some 0 => { x with kind := 1, tag := q.tag, ctx := q.ctx, h := false }
  | some 255 => if same then { x with h := true } else { x with kind := 2, tag := none, ctx := q.ctx, h := false }
  | some _ => { x with due := q.due, tag := q.tag, ctx := q.ctx, kind := 0, h := false }

def State.findLine? (s : State) (unit key : Nat) : Option RLine := s.rlines.find? fun x => x.unit == unit && x.line == key / 128
def State.nextAge (s : State) : Nat := s.rlines.foldl (fun m x => Nat.max m x.age) 0 + 1

/-- The count of a home slice for the 8-KiB page of a key and an asking die (08 R157). -/
def accessKey (key die : Nat) : Nat := 8 * (2 ^ 26 * homeUnit key + key / 8192) + die

/-- The cells of a line. -/
def Memory.lineCells (m : Memory) (key : Nat) : Memory := m.filter fun c => c.1 / 128 == key / 128

/-- The MSC's copy of a line that a home slice is about to hold dirty keeps its data (19 R295). -/
def State.keepOld (key : Nat) (old : Option Memory) (s : State) : State :=
  if old.isNone then s
  else { s with rlines := upd (fun x => x.unit == mscUnit key && x.line == key / 128 && x.old.isNone) (fun x => { x with old := old }) s.rlines }

/-- A request reaches its home, before its write if it is one: the page is counted (08 R157), the team tables and the line's stamp are
updated, and a line that L2 does not hold has to be filled. A bypass line is held nowhere, and its request goes on to the MSC (08 R155,
09 R179). -/
def State.request (q : Req) (s : State) : State :=
  if !isLocal q.key then s
  else
    let u := homeUnit q.key
    let pg := accessKey q.key q.die
    let s := { s with access := mapSet 0 s.access pg (mapGet 0 s.access pg + 1) }
    let s := s.teamUpdate u q
    if q.cp = 3 then s.teamUpdate (mscUnit q.key) q
    else match s.findLine? u q.key with
      | some _ =>
        let age := s.nextAge
        let s := if q.dirty then s.keepOld q.key (some (s.mem.lineCells q.key)) else s
        { s with rlines := upd (fun x => x.unit == u && x.line == q.key / 128) (fun x => { x.stamped false q with age := age }) s.rlines }
      | none => { s with fills := s.fills ++ [{ unit := u, req := q, old := if q.dirty then some (s.mem.lineCells q.key) else none }] }

/-- The die of a core (01 R13). -/
def coreDie (core : Nat) : Nat := core / (Config.clusterSize * Config.dieClusters)
/-- The I/O die, after the compute dies: firmware, the front end and peers ask from there (01 R12). -/
def ioDie : Nat := 4

/-- A request that no memory instruction of a team makes: no tag, no r and no stated distance, so code 255 (09 R175; log entries 54 and
64). -/
def plainReq (die ctx : Nat) (dirty : Bool) (a : LaneAcc) : Req :=
  { key := a.key / 128 * 128, die := die, cp := a.leaf.cp, wc := a.leaf.wc, ctx := ctx, tag := none, r := 0, code := some 255, due := 0,
    dirty := dirty }

/-- One access of each line. -/
def onePerLine (as : List LaneAcc) : List LaneAcc :=
  as.foldl (fun acc a => if acc.any (fun b => b.key / 128 == a.key / 128) then acc else acc ++ [a]) []

/-- A request of an instruction of the group in focus; `r` is its value of the reuse clock, `g` GCNT at its issue. -/
def State.teamReq (s : State) (r g : Nat) (code : Option Nat) (dirty : Bool) (a : LaneAcc) : Req :=
  { key := a.key / 128 * 128, die := coreDie s.core.id, cp := a.leaf.cp, wc := a.leaf.wc, ctx := s.team.ctx,
    tag := some ⟨s.team.core, s.team.slot, s.team.gen⟩, r := r, code := code, due := dueStamp r g (code.getD 0), dirty := dirty }

/-- Its requests, one for each line. -/
def State.requests (r g : Nat) (code : Option Nat) (dirty : Bool) (as : List LaneAcc) (s : State) : State :=
  (onePerLine as).foldl (fun s a => s.request (s.teamReq r g code dirty a)) s

/-! ## Victims (R180, R181) -/

def State.unknownOf (s : State) (ctx : Nat) : Nat :=
  match s.findCtx? ctx with
  | some c => if c.unkd = 0 then s.dev.record.unkd else c.unkd
  | none => s.dev.record.unkd

/-- R182: where E has reached 4,096, k moves by one where the promises that lapsed unused are many or few; E and B return to 0. -/
def Cinch.settled (c : Cinch) : Cinch :=
  if 4096 ≤ c.e then { c with k := if 1024 < c.b then Nat.min 7 (c.k + 1) else if c.b < 256 then c.k - 1 else c.k, e := 0, b := 0 } else c

def State.cinchOf (s : State) (unit ctx : Nat) : Nat :=
  match s.cinch.find? fun c => c.unit == unit && c.ctx == ctx with
  | some c => c.settled.k
  | none => 0

/-- Bytes of the registers that the parked teams of a die have in its L2 (16 R261). -/
def State.parkedBytes (s : State) (die : Nat) : Nat :=
  let ts := s.allTeams.filter fun t => t.live && t.inL2 && coreDie t.core == die
  ((s.allGroups.filter fun g => g.live && ts.any fun t => t.is g.core g.slot).map fun g =>
    4096 * vBlocks g.vcap + 256 * sBlocks g.scap).foldl (· + ·) 0

/-- The ways that firmware reserves for them in every slice of the die, the highest, 4 MiB each (09 R180; log entry 52). -/
def State.parkedWays (s : State) (die : Nat) : Nat := ceilDiv (s.parkedBytes die) (2 ^ 22)

/-- The ways of a set that a fill may use. -/
def State.waysFor (s : State) (unit wc : Nat) : List Nat :=
  if isMsc unit then (List.range (16 - s.dev.record.shw)).filter fun w => Config.wayClass w == wc
  else List.range (16 - s.parkedWays (unit / 16))

/-- A line that a stitch holds, or for which a fill waits, is not eligible. -/
def State.lineBusy (s : State) (line : Nat) : Bool :=
  (match s.run with | some r => decide (r.key / 128 = line) | none => false) || s.fills.any fun f => f.req.key / 128 == line

/-- Class and key of a candidate; a lesser pair goes first. -/
def State.rank (s : State) (x : RLine) : Nat × Int :=
  if x.kind = 1 then (2, 0)
  else
    let rem := s.remOf x
    match rem with
    | some d => if d ≤ 0 then (3, d) else if x.cp = 1 then (4, 0) else (5, -(d * (2 : Int) ^ s.cinchOf x.unit x.ctx))
    | none => if x.cp = 1 then (4, 0) else (5, -(s.unknownOf x.ctx : Int))

def better (a b : (Nat × Int) × RLine) : Bool :=
  if a.1.1 ≠ b.1.1 then decide (a.1.1 < b.1.1)
  else if a.1.2 ≠ b.1.2 then decide (a.1.2 < b.1.2)
  else if a.2.age ≠ b.2.age then decide (a.2.age < b.2.age)
  else decide (a.2.way < b.2.way)

/-- Where a fill goes: a free way, a victim, or nowhere now. -/
inductive Place
  | free (way : Nat)
  | victim (x : RLine) (cls : Nat)
  | wait
  deriving DecidableEq, Repr

/-- Among free ways, which R181 ranks alike, the lowest is taken (log entry 64). -/
def State.placeFor (s : State) (unit set wc : Nat) : Place :=
  let ways := s.waysFor unit wc
  let here := s.rlines.filter fun x => x.unit == unit && x.set == set && ways.contains x.way
  match ways.find? fun w => !here.any fun x => x.way == w with
  | some w => .free w
  | none =>
    let elig := here.filter fun x => !s.lineBusy x.line
    let cand := elig.filter fun x => x.cp ≠ 2
    let cand := if cand.isEmpty then elig else cand
    match cand.map fun x => (s.rank x, x) with
    | [] => .wait
    | c :: cs =>
      let b := cs.foldl (fun m c => if better c m then c else m) c
      .victim b.2 b.1.1

/-! ## The cinch (R182): the entry whose line was evicted last stands last. -/

def State.runsOnCell (s : State) (ctx : Nat) : Bool := s.cells.any fun c => c.ctx == some ctx

/-- Count an eviction; where E reaches 4,096 the update comes next, and before another eviction counts. -/
def State.countEvict (unit ctx : Nat) (lapsed : Bool) (s : State) : State :=
  let mine := s.cinch.filter fun c => c.unit == unit
  let others := s.cinch.filter fun c => c.unit != unit
  let e := ((mine.find? fun c => c.ctx == ctx).getD { unit := unit, ctx := ctx, k := 0, e := 0, b := 0 }).settled
  let rest := mine.filter fun c => c.ctx != ctx
  let rest := if rest.length < Config.cinchEntries then rest
    else match rest.findIdx? fun c => !s.runsOnCell c.ctx with
      | some i => rest.eraseIdx i
      | none => rest.drop 1
  let e := { e with e := e.e + 1, b := e.b + if lapsed then 1 else 0 }
  { s with cinch := others ++ rest ++ [e], agenda := if e.e = 4096 then .cinchUpdate unit ctx :: s.agenda else s.agenda }

/-- The context is bound to a cell. Where that is the first time, k starts at 0: what lines of an earlier context with its number left goes
(R182). -/
def State.bindCtx (n : Nat) (s : State) : State :=
  match s.findCtx? n with
  | none => s
  | some c => if c.bound then s else { s with cinch := s.cinch.filter fun e => e.ctx != n }.onCtx n fun c => { c with bound := true }

def State.putLine (x : RLine) (s : State) : State :=
  { s with rlines := x :: s.rlines.filter fun y => !(y.unit == x.unit && y.set == x.set && y.way == x.way) }

def lapsed (cls : Nat) (x : RLine) : Bool := cls == 3 && !x.h

/-- A line goes into an MSC; its victim goes to HBM. A line already there takes the state, and is then the line used last (log entry 62).
None where no way is free for it now. -/
def State.intoMsc (x : RLine) (s : State) : Option State :=
  let key := x.line * 128
  let u := mscUnit key
  match s.findLine? u key with
  | some y =>
    let x' := { x with unit := u, set := y.set, way := y.way, age := s.nextAge, dirty := x.dirty || y.dirty }
    some { s with rlines := upd (fun z => z.unit == u && z.line == x.line) (fun _ => x') s.rlines }
  | none =>
    let put := fun (w : Nat) (s : State) => s.putLine { x with unit := u, set := setOf u key, way := w, age := s.nextAge }
    match s.placeFor u (setOf u key) x.wc with
    | .free w => some (put w s)
    | .victim v cls => some (put v.way (s.countEvict u v.ctx (lapsed cls v)))
    | .wait => none

/-- The victim of an L2 fill goes (R177): a dirty line to the MSC, a clean line's state to the MSC's copy where there is one. -/
def State.evictL2 (v : RLine) (cls : Nat) (s : State) : Option State :=
  let s := s.countEvict v.unit v.ctx (lapsed cls v)
  let s := { s with rlines := s.rlines.filter fun y => !(y.unit == v.unit && y.line == v.line) }
  if v.dirty then s.intoMsc v
  else match s.findLine? (mscUnit (v.line * 128)) (v.line * 128) with
    | some _ => s.intoMsc v
    | none => some s

/-- The line that a fill brings: the MSC's state goes with it; a line from HBM starts as an invalid line, with DUE 0 and no TAG where its
request states none (log entry 62). -/
def State.filled (s : State) (u w : Nat) (q : Req) : RLine :=
  let key := q.key
  let base : RLine := { unit := u, set := setOf u key, way := w, line := key / 128, due := 0, tag := none, kind := 2, h := false,
                        ctx := q.ctx, cp := q.cp, wc := q.wc, dirty := false, age := s.nextAge }
  match (if isMsc u then none else s.findLine? (mscUnit key) key) with
  | some m => { { m with unit := u, set := base.set, way := w, dirty := false, old := none }.stamped false q with age := base.age }
  | none => base.stamped true q

/-- The MSC's part of a fill: the request goes on to it, and it stamps its copy (log entry 62) or fills from HBM (R179). -/
def State.mscServe (q : Req) (s : State) : Option State :=
  let m := mscUnit q.key
  let s := s.teamUpdate m q
  match s.findLine? m q.key with
  | some _ =>
    let f := fun x : RLine => { x.stamped false { q with dirty := false } with age := s.nextAge }
    some { s with rlines := upd (fun x => x.unit == m && x.line == q.key / 128) f s.rlines }
  | none => s.intoMsc (s.filled m 0 { q with dirty := false })

/-- One fill: the way is free or becomes free, the MSC serves the request, then the line comes into L2 with the state that the MSC has
for it (R177, R179, R180). -/
def State.fill (f : FillReq) (s : State) : Option State :=
  let q := f.req
  let take := fun (way : Nat) (s : State) => (s.mscServe q).map fun s => (s.keepOld q.key f.old).putLine (s.filled f.unit way q)
  if (s.findLine? f.unit q.key).isSome then some s
  else match s.placeFor f.unit (setOf f.unit q.key) q.wc with
    | .wait => none
    | .free w => take w s
    | .victim v cls => (s.evictL2 v cls).bind (take v.way)

/-- A request of a team's present or, after it, its piece's record counts one more filled line. -/
def countOne (idx : Nat) : List PRec → List PRec
  | [] => []
  | r :: rs => if r.idx == idx then { r with f := r.f + 1 } :: rs else r :: countOne idx rs
def Launch.countFill (idx : Nat) (l : Launch) : Launch := { l with halves := countOne idx l.halves, recs := countOne idx l.recs }

/-- A fill counts for the piece whose request asked for it (06 R128), also where its team has retired meanwhile. -/
def State.countFill (q : Req) (s : State) : State :=
  match q.tag with
  | none => s
  | some g =>
    match s.allTeams.find? fun t => t.live && t.core == g.core && t.slot == g.slot && t.gen == g.gen with
    | none => s
    | some t =>
      if t.retiring then s.onLaunch t.launch (Launch.countFill t.piece.idx)
      else s.mapTeams fun t => if t.live && t.core == g.core && t.slot == g.slot && t.gen == g.gen then { t with fcnt := t.fcnt + 1 } else t

/-- The requests that wait for a line that has come stamp it, in the order in which they arrived (R177, R183; log entry 62). -/
def State.stampQueued (unit key : Nat) (s : State) : State :=
  let same := fun f : FillReq => f.unit == unit && f.req.key / 128 == key / 128
  let s1 := (s.fills.filter same).foldl (fun s f =>
    { s with rlines := upd (fun x => x.unit == unit && x.line == key / 128) (fun x => { x.stamped false f.req with age := s.nextAge })
                         s.rlines }.keepOld key f.old) s
  { s1 with fills := s1.fills.filter fun f => !same f }

/-- A fill that waits is made: until it is, the line's request is in progress (R180). None where it has to wait. -/
def State.fillNow (f : FillReq) (s : State) : Option State :=
  (s.fill f).map fun s' =>
    if (s.findLine? f.unit f.req.key).isSome then s.stampQueued f.unit f.req.key
    else ({ s' with fills := s'.fills.erase f }.countFill f.req).stampQueued f.unit f.req.key

/-- A line that the home slice needs in L2, or past it with policy bypass, before it goes on (12 R214). None where it has to wait. -/
def State.bring (q : Req) (s : State) : Option State :=
  let s1 := s.request q
  if q.cp = 3 then some s1
  else match s1.fills.find? fun f => f.unit == homeUnit q.key && f.req.key / 128 == q.key / 128 with
    | some f => s1.fillNow f
    | none => some s1

/-- L2 lines of a die that stand in reserved ways go as victims do; none where one of them has to wait (09 R180). They
count as evicted lines (log entry 64). -/
def State.clearWays (die : Nat) (s : State) : Option State :=
  (s.rlines.filter fun x => !isMsc x.unit && x.unit / 16 == die && decide (16 - s.parkedWays die ≤ x.way)).foldl
    (fun o x => o.bind fun t => if t.lineBusy x.line then none else t.evictL2 x (t.rank x).1) (some s)

/-- The request of each line that came first: the requests to one line are served in the order in which they arrived (R177, R183). -/
def firstOfLines (fs : List FillReq) : List FillReq :=
  fs.foldl (fun acc f => if acc.any (fun x => x.unit == f.unit && x.req.key / 128 == f.req.key / 128) then acc else acc ++ [f]) []

/-- R180: the oldest fill whose set has an eligible way. A fill with none waits. -/
def fillFirst (s : State) : List FillReq → State
  | [] => s
  | f :: fs => match s.fillNow f with
    | some s' => s'
    | none => fillFirst s fs

/-- LINE_FILL. A retired team that waited for this line alone leaves (R183). -/
def execLineFill (s : State) : Out := .next (fillFirst s (firstOfLines s.fills)).reap

/-- CINCH_UPDATE (R182). -/
def execCinchUpdate (unit ctx : Nat) (s : State) : Out :=
  .next { s with cinch := upd (fun c => c.unit == unit && c.ctx == ctx) Cinch.settled s.cinch }

end Sys2Proof.Machine
end

