-- ==== Sys2Proof/Machine/Fetch.lean ====
section
/-! DEFINITION. Machine/Fetch.lean: fetching words through the instruction cache (03 R73), the check of control targets (R71),
clause headers (R52, R53, R55), what a core reads directly and which
releases wrote it, and words that are no instruction (R69, R70). -/

namespace Sys2Proof.Machine

/-- A line that answers a machine-check: poisoned (12 R222), or at a peer that has not answered (19 R291). -/
def State.bad (s : State) (key : Nat) : Bool :=
  s.poisoned.contains (key / 128) ||
  (decide (peerBase ≤ key) && s.dev.unreachable.contains ((key - peerBase) / peerSize))

/-! ## Fetch -/

inductive Fetched
  | word (w : W64)
  | page (kind cause : Nat)
  | machineCheck (key : Nat)
  deriving DecidableEq, Repr

def Core.cached? (c : Core) (ctx va : Nat) : Option W64 := (c.icache.find? fun e => e.1 == (ctx, va)).map (·.2)

/-- A word comes into the instruction cache: 128 KiB, and the oldest makes room (01 R16; log entry 12). -/
def Core.cache (key : Nat × Nat) (w : W64) (c : Core) : Core :=
  { c with icache := c.icache.drop (c.icache.length + 1 - Config.icacheWords) ++ [(key, w)] }

/-- The word at a virtual address, from the instruction cache or through translation with X and the line's home, which fills the cache. -/
def State.fetch (va : Nat) (s : State) : Fetched × State :=
  match s.core.cached? s.team.ctx va with
  | some w => (.word w, s)
  | none =>
    match s.laneX s.cluster s.team.ctx .x 0 va with
    | .fault k c _ => (.page k c, s)
    | .ok a =>
      if s.bad a.key then (.machineCheck a.key, s)
      else
        let w := BitVec.ofNat 64 (s.mem.word a.key 8)
        (.word w, ((s.used false [a]).request (plainReq (coreDie s.core.id) s.team.ctx false a)).onCore (Core.cache (s.team.ctx, va) w))

/-- A page fault on a clause fetch: every lane unfinished, no lane to replay (17 R269). -/
def State.parkFetch (opc kind cause va : Nat) (s : State) : State :=
  s.park opc false 0xFFFFFFFF#32 none [{ kind := kind, cause := cause, va := va, lane := 0, lanes := 0xFFFFFFFF#32 }]

def machineCheck (cause key : Nat) : Trap := { kind := 17, cause := cause, d0 := BitVec.ofNat 64 (if key < hostBase then key else 0) }

/-- The mark of a version-1 header. -/
def markOk (w : W64) : Bool := decide (bits w.toNat 63 56 = 0xF8)

/-- Check a control target for the instruction in hand (R71) and go on with `k`; else the fault, with nothing changed. -/
def State.target (opc t : Nat) (k : State → State) (s : State) : State :=
  if nonCanonical t then s.parkFetch opc 1 2 t
  else if t % 8 ≠ 0 then s.takeFault opc { kind := 5 }
  else match s.fetch t with
    | (.word w, s') => if markOk w then k s' else s'.takeFault opc { kind := 5 }
    | (.page kd c, _) => s.parkFetch opc kd c t
    | (.machineCheck key, _) => s.takeFault opc (machineCheck 2 key)

/-- A displacement in 8-byte units from the instruction's own address, modulo 2^64. -/
def Group.rel (g : Group) (w off : Nat) : Nat := ((g.addr : Int) + 8 * sext w off).emod (2 ^ 64) |>.toNat

/-! ## Clause headers -/

/-- The outstanding counts are at or below a header's waits (R55). -/
def Group.waitsMet (g : Group) (h : Header) : Bool :=
  let ok := fun (c : Count) (n : Nat) => n == 15 || decide (g.count c ≤ n)
  ok .loads h.ldw && ok .stores h.stw && ok .matrix h.mxw && ok .copies h.cpw

/-- The counts whose engine threads join at a header: those that it waits for at 0 (13 R232). -/
def Header.joins (h : Header) : List Count := (if h.cpw = 0 then [.copies] else []) ++ if h.mxw = 0 then [.matrix] else []

def RoleKind.mayEnter : RoleKind → ClauseClass → Bool
  | _, .g => true
  | .mat, .m => true
  | .cpy, .c => true
  | _, _ => false

/-- The header at the group's position: checked, and in hand once the waits are met (R53, R55). Each fault is at the header, with no
instruction decoded; at a body entry the check of R71 comes first. -/
def execClauseHeaderIssue (s : State) : Out :=
  let g := s.grp
  if g.hdr.isSome || g.susp != .ready then .next s
  else if nonCanonical g.base then .next (s.parkFetch 0xFF 1 2 g.base)
  else if g.base % 8 ≠ 0 then .next (s.takeFault 0xFF { kind := 5 })
  else match s.fetch g.base with
    | (.page kd c, _) => .next (s.parkFetch 0xFF kd c g.base)
    | (.machineCheck key, _) => .next (s.takeFault 0xFF (machineCheck 2 key))
    | (.word w, s) =>
      if !markOk w then .next (s.takeFault 0xFF { kind := if g.enter then 5 else 4 })
      else match decodeHeader w.toNat with
        | none => .next (s.takeFault 0xFF { kind := 4 })
        | some h =>
          if !g.kind.mayEnter h.cls then .next (s.takeFault 0xFF { kind := 6 })
          else if g.waitsMet h then .next ((s.joinThreads (Header.joins h)).onGrp fun g => { g with hdr := some h, enter := false })
          else .next s

/-- The clause class that the instruction in hand stands in. -/
def Group.inClass (g : Group) (k : ClauseClass) : Bool :=
  match g.hdr with
  | some h => h.cls == k
  | none => false

/-- A word in an instruction slot that is no instruction (R69): unassigned opcode, then the role of its class, then its fields
(R70). -/
def execNonInstructionWord (w : W64) (s : State) : Out :=
  let op := bits w.toNat 63 56
  if s.grp.windowShut (.nop Guard.always) then .next s
  else if !opAssigned op then .next (s.takeFault op { kind := 3 })
  else match opClass op with
    | .g => .next (s.takeFault op { kind := 3 })
    | k => if s.grp.inClass k then .next (s.takeFault op { kind := 3 }) else .next (s.takeFault op { kind := 6 })

/-! ## What a core reads directly: the writes of the core that are still queued stand before memory (13 R225, R227). -/

/-- A queued global store: its place in the core's order, what it releases, its cells. -/
structure Queued where
  seq : Nat
  rel : Option Release
  cells : List Host.Cell

/-- Queued global stores of groups, oldest first. -/
def queuedOf (gs : List Group) : List Queued :=
  sortBy (fun a b => decide (a.seq ≤ b.seq)) (gs.flatMap fun g => g.pend.filterMap fun p => match p.kind with
    | .store _ ls => some { seq := p.seq, rel := p.rel, cells := ls.flatMap fun x => x.2.mapIdx fun i b => (x.1.key + i, b) }
    | _ => none)

def State.viewOf (gs : List Group) (s : State) : Memory := (queuedOf gs).foldl (fun m q => m.puts q.cells) s.mem

def State.coreView (s : State) : Memory := s.viewOf s.coreGroups

/-- Memory under the queued stores of the team in focus: they have performed at team scope (13 R227). -/
def State.teamView (s : State) : Memory := s.viewOf s.teamGroups

/-! ## Which releases wrote the values of bytes (13 R230) -/

/-- What is left of an entry after another write of [a, a + n). -/
def Rel.cut (a n : Nat) (r : Rel) : List Rel :=
  if r.lo + r.n ≤ a ∨ a + n ≤ r.lo then [r]
  else (if r.lo < a then [{ r with n := a - r.lo }] else []) ++
       (if a + n < r.lo + r.n then [{ r with lo := a + n, n := r.lo + r.n - (a + n) }] else [])

/-- Bytes of [a, a + n) take a value: that of a release, where `w` is one. -/
def writeRels (w : Option Release) (a n : Nat) (rs : List Rel) : List Rel :=
  let rest := rs.flatMap (Rel.cut a n)
  match w with
  | none => rest
  | some x => { lo := a, n := n, what := x } :: rest

/-- Cells as runs of neighbouring bytes. -/
def cellRuns (cs : List Host.Cell) : List (Nat × Nat) :=
  cs.foldr (fun c rs => match rs with
    | r :: t => if r.1 = c.1 + 1 then (c.1, r.2 + 1) :: t else (c.1, 1) :: rs
    | [] => [(c.1, 1)]) []

def writeCellRels (w : Option Release) (cs : List Host.Cell) (rs : List Rel) : List Rel :=
  (cellRuns cs).foldl (fun rs r => writeRels w r.1 r.2 rs) rs

/-- What the values of [a, a + n) hand on to an acquire of a team. -/
def handsOf (me : TeamId) (a n : Nat) (rs : List Rel) : Hand :=
  (rs.filter fun r => decide (r.lo < a + n) && decide (a < r.lo + r.n)).foldl (fun h r => h.join (r.what.hand_ me)) {}

/-- The same entries where queued stores of groups stand before memory. -/
def State.relsOf (gs : List Group) (s : State) : List Rel := (queuedOf gs).foldl (fun rs q => writeCellRels q.rel q.cells rs) s.rels

end Sys2Proof.Machine
end

