-- ==== Sys2Proof/Machine/Access.lean ====
section
/-! DEFINITION. Machine/Access.lean: what memory instructions share: addresses, alignment and bounds (08 R143 to R147), the typed
buffers and lane-private bytes, units of L (06 R124), the L1 (08 R152, R153; 13 R228), what a group knows of others (13 R228 to
R231, R237), held writes of deterministic mode (06 R131 to R135), and the waits that an instruction makes at issue. -/

namespace Sys2Proof.Machine

/-! ## Addresses (Table 8-1) -/

def Group.globAddr (g : Group) (as : SLow) (av : VReg) (l : Nat) : Nat :=
  (g.S as.val + (g.V av.val l).signExtend 64).toNat
def Group.offAddr (g : Group) (as : SLow) (av : VReg) (l : Nat) : Nat :=
  (g.S as.val + (g.V av.val l).setWidth 64).toNat
def Group.memAddr (g : Group) (sp : Space) (as : SLow) (av : VReg) (l : Nat) : Nat :=
  match sp with
  | .glob => g.globAddr as av l
  | _ => g.offAddr as av l
/-- SLD, SST: S[AS] + OFF7 × width. -/
def Group.scalarAddr (g : Group) (as : SReg) (off w : Nat) : Nat := (g.S as.val + BitVec.ofNat 64 (off * w)).toNat

/-- Lanes with their addresses. -/
def Group.laneAddrs (g : Group) (sp : Space) (as : SLow) (av : VReg) (act : W32) : List (Nat × Nat) :=
  (lanesOf act).map fun l => (l, g.memAddr sp as av l)

def Space.code : Space → Nat
  | .glob => 0 | .w => 1 | .a => 2 | .d => 3 | .priv => 4

/-- Bytes that a space offers (R146, R147): the team's allocation, less the commit area of D under DET; PRIV bytes a lane. A successor
whose body declares a smaller W or D is bounded by the allocation of its chain, which it keeps, commit area included (04 R87; log entry 65). -/
def State.spaceSize (s : State) (sp : Space) : Nat :=
  match sp with
  | .glob => 2 ^ 64
  | .w => 16384 * s.team.wAll
  | .a => 16384 * s.team.aNow
  | .d => 16384 * s.team.dAll - if s.team.det then 65536 else 0
  | .priv => s.team.body.priv

/-- Lanes that fail a check, as a trap of a kind. -/
def laneTrap (kind : Nat) (sp : Space) (bad : Nat → Bool) (ls : List (Nat × Nat)) : Option Trap :=
  match ls.filter fun x => bad x.2 with
  | [] => none
  | x :: xs => some { kind := kind, cause := Space.code sp, d0 := BitVec.ofNat 64 x.2, d1 := maskOf (x.1 :: xs.map (·.1)) }

/-- Alignment, then bounds (R144, R146, R147). -/
def State.memTrap (s : State) (sp : Space) (w : Nat) (ls : List (Nat × Nat)) : Option Trap :=
  match laneTrap 10 sp (fun a => a % w ≠ 0) ls with
  | some t => some t
  | none => if sp = .glob then none else laneTrap 11 sp (fun a => decide (s.spaceSize sp < a + w)) ls

/-- The scope at which an access acts: no agent outside the team can name a byte of its buffers or of lane-private space (13 R226). -/
def scopeIn (sp : Space) (sc : Scope) : Scope := if sp ≠ .glob ∧ 2 ≤ sc.rank then .team else sc

/-- The distinct 128-byte units that an instruction touches in a space (06 R124). -/
def unitCount (sp : Space) (w : Nat) (as : List Nat) : Nat :=
  match sp with
  | .priv => (uniq (as.flatMap fun a => (List.range (ceilDiv w 4)).map fun i => a / 4 + i)).length
  | _ => (uniq (as.map (· / 128))).length

/-! ## Typed buffers and lane-private bytes -/

/-- Where byte `a` of lane `l` stands in a lane-private region (R147). -/
def placed (l a : Nat) : Nat := a / 4 * 128 + 4 * l + a % 4
def Group.privKey (g : Group) (l a : Nat) : Nat := g.privBase + placed l a

def State.localByte (s : State) (sp : Space) (l off : Nat) : Byte :=
  match sp with
  | .glob => 0
  | .w => mapGet 0 s.team.wbuf off
  | .a => mapGet 0 s.team.abuf off
  | .d => mapGet 0 s.team.dbuf off
  | .priv => s.mem.byte (s.grp.privKey l off)

def State.putLocal (sp : Space) (l off : Nat) (b : Byte) (s : State) : State :=
  match sp with
  | .glob => s
  | .w => s.onTeam fun t => { t with wbuf := mapSet 0 t.wbuf off b }
  | .a => s.onTeam fun t => { t with abuf := mapSet 0 t.abuf off b }
  | .d => s.onTeam fun t => { t with dbuf := mapSet 0 t.dbuf off b }
  | .priv => { s with mem := s.mem.put (s.grp.privKey l off) b }

def State.localBytes (s : State) (sp : Space) (l off n : Nat) : List Byte := (List.range n).map fun i => s.localByte sp l (off + i)

/-- Bytes [off, off + n) of a buffer take a value of a release, or of none. A lane-private byte hands nothing on: no other agent can name
it. -/
def Team.wrote (w : Option Release) (sp : Space) (off n : Nat) (t : Team) : Team :=
  if sp = .priv then t else { t with rels := writeRels w (bufBase sp + off) n t.rels }

/-- Cells of memory take values that no release wrote. -/
def State.unrel (cells : List Host.Cell) (s : State) : State := { s with rels := writeCellRels none cells s.rels }

/-- Store bytes one after another, as a release or not. -/
def State.putLocals (w : Option Release) (sp : Space) (l off : Nat) (bs : List Byte) (s : State) : State :=
  (bs.zipIdx.foldl (fun s x => s.putLocal sp l (off + x.2) x.1) s).onTeam (Team.wrote w sp off bs.length)

/-- Which space a key of Ops.lean's `bufBase` names, for lane accesses that stay in the core. -/
def keySpace (k : Nat) : Space :=
  if bufBase .priv ≤ k then .priv else if bufBase .d ≤ k then .d else if bufBase .a ≤ k then .a else if bufBase .w ≤ k then .w
  else .glob

def noLeaf : Leaf :=
  { r := true, w := true, x := false, d := true, cp := 0, wc := 0, mig := false, size := 8192, base := 0, entry := hostBase }

/-- Lane accesses within the core. -/
def localAccs (sp : Space) (ls : List (Nat × Nat)) : List LaneAcc :=
  ls.map fun x => { lane := x.1, va := x.2, key := bufBase sp + x.2, leaf := noLeaf }

/-! ## The L1 (08 R152, R153) -/

def Core.nextAge (c : Core) : Nat := c.lines.foldl (fun m x => Nat.max m x.age) 0 + 1

/-- A write of the core updates its copy of the line, whichever name it has (13 R225, R227, R233), and makes it the latest used (log entry
13). -/
def Core.l1Write (w : Option Release) (cells : List Host.Cell) (c : Core) : Core :=
  { c with lines := c.lines.map fun x =>
      let mine := cells.filter fun k => k.1 / 128 == x.pline
      if mine.isEmpty then x
      else { x with data := mine.foldl (fun d k => d.set (k.1 % 128) k.2) x.data, rels := writeCellRels w mine x.rels, age := c.nextAge } }

/-- D has been set for the lines of a page (08 R151). -/
def Core.l1Dirty (ctx : Nat) (vlines : List Nat) (c : Core) : Core :=
  { c with lines := upd (fun x => x.ctx == ctx && vlines.contains x.vline) (fun x => { x with d := true }) c.lines }

def Core.l1Drop (plines : List Nat) (c : Core) : Core := { c with lines := c.lines.filter fun x => !plines.contains x.pline }

/-- A hit makes a line the latest used (log entry 13). -/
def Core.l1Touch (ctx vline : Nat) (c : Core) : Core :=
  { c with lines := upd (fun x => x.ctx == ctx && x.vline == vline) (fun x => { x with age := c.nextAge }) c.lines }

/-- The way of a set that a new line takes: a free one, else that of the line used longest ago. The set of a line is its virtual line modulo 128, a
private line's the tag that the model gives it modulo 128: the spec names no index (log entry 13). -/
def Core.l1Way (c : Core) (set : Nat) : Nat :=
  let here := c.lines.filter fun x => x.vline % 128 == set
  match (List.range c.l1w).find? fun w => !here.any fun x => x.way == w with
  | some w => w
  | none => match here with
    | [] => 0
    | x :: xs => (xs.foldl (fun m y => if y.age < m.age then y else m) x).way

/-- Put a line into L1, in the place of a copy under the same name and of what stands in the way that it takes. -/
def Core.l1Insert (x : L1Line) (c : Core) : Core :=
  let c := { c with lines := c.lines.filter fun y => !(y.ctx == x.ctx && y.vline == x.vline) }
  let way := c.l1Way (x.vline % 128)
  let c := { c with lines := c.lines.filter fun y => !(y.vline % 128 == x.vline % 128 && y.way == way) }
  { c with lines := c.lines ++ [{ x with way := way, epoch := c.epoch, age := c.nextAge }] }

/-- A write that reaches memory updates the L1 of its core, but for bytes that stores issued later have written there: those are queued,
and follow it in coherence order (13 R225, R233). -/
def State.l1Put (core : Nat) (w : Option Release) (cells : List Host.Cell) (s : State) : State :=
  let later := (queuedOf (s.allGroups.filter fun g => g.live && g.core == core)).flatMap (·.cells)
  let mine := cells.filter fun c => !later.any fun k => k.1 == c.1
  s.mapCores fun c => if c.id = core then c.l1Write w mine else c

/-- The line that a leaf's record gives, before it has a way. -/
def newLine (ctx vline pline : Nat) (l : Leaf) (data : List Byte) (rels : List Rel) : L1Line :=
  { ctx := ctx, vline := vline, pline := pline, r := l.r, w := l.w, d := l.d, cp := l.cp, wc := l.wc, way := 0, data := data, epoch := 0,
    age := 0, rels := rels }

/-- A line has come from its home (R153): every copy under another name in the cluster goes, and a copy under this name is refreshed. A
line that may not allocate does no more, so that no copy older than it stays in the group's reach (13 R225). -/
def State.l1Fill (ctx : Nat) (a : LaneAcc) (alloc : Bool) (s : State) : State :=
  let vline := a.va / 128
  let pline := a.key / 128
  let cl := s.core.id / Config.clusterSize
  let s := s.mapCores fun c =>
    if c.id / Config.clusterSize = cl then
      { c with lines := c.lines.filter fun x => !(x.pline == pline && !(x.ctx == ctx && x.vline == vline)) }
    else c
  if (s.core.l1Find? ctx vline).isNone && !alloc then s
  else s.onCore (Core.l1Insert (newLine ctx vline pline a.leaf (s.coreView.bytes (pline * 128) 128)
    ((s.relsOf s.coreGroups).filter fun r => decide (r.lo < pline * 128 + 128) && decide (pline * 128 < r.lo + r.n))))

/-! ## Lane-private lines (08 R147, R152; 09 R173): word a div 4 of all lanes is one line -/

/-- The virtual line of a private line in L1: apart from every virtual line of the context. -/
def Group.privTag (g : Group) (line : Nat) : Nat := 2 ^ 54 + (32 * g.slot + g.gid) * 2 ^ 16 + line

/-- The private lines of an access at offset `off`. -/
def privLines (off w : Nat) : List Nat := (List.range ((off + w - 1) / 4 + 1 - off / 4)).map fun i => off / 4 + i

/-- An access of the line: in the group's region in device memory, policy normal and way class 0. -/
def Group.privAcc (g : Group) (line : Nat) : LaneAcc :=
  { lane := 0, va := 128 * g.privTag line, key := g.privBase + 128 * line, leaf := noLeaf }

/-- Drop what a core's L1 holds of a slot's private regions. -/
def Core.dropPriv (slot : Nat) (c : Core) : Core :=
  { c with lines := c.lines.filter fun x => !(decide (2 ^ 54 + 32 * slot * 2 ^ 16 ≤ x.vline) && decide (x.vline < 2 ^ 54 + (32 * slot + 32) * 2 ^ 16)) }

/-! ## What a group knows of others (13 R228, R230, R231, R237) -/

/-- An order in the group of the next held write. -/
def Team.heldCount (t : Team) (gid : Nat) : Nat :=
  (t.held.filter fun h => h.chain == t.chain && h.gid == gid).foldl (fun m h => Nat.max m (h.seq + 1)) 0

/-- A global store that has still to reach its home. -/
def Pend.isStore (p : Pend) : Bool := match p.kind with | .store _ _ => true | _ => false

/-- What a release of the group in focus hands on within its team: what it knows, and its own queued stores before place `seq`. -/
def State.known (s : State) (seq : Nat) : Know :=
  if s.grp.pend.any fun p => p.isStore && decide (p.seq < seq) then s.grp.know.join { upto := seq } else s.grp.know

/-- The same for a write after a FENCE with kind stores, of which it releases no more of the group's own stores than those before the
FENCE (R230, R235). -/
def State.knownAt (s : State) (m : FenceMark) : Know :=
  let k := s.known m.upto
  { k with seen := k.seen.filter fun x => x.team != s.team.ident || x.gid != s.grp.gid || decide (x.seq < m.held) ||
      s.team.held.any fun h => s.team.heldId h == x && h.thread.isSome }

/-- What a store of the group in focus releases (R230): a release, all that happens before it; a plain store after a FENCE with kind
stores, the same without the own stores that follow the FENCE; else nothing. Where it is queued itself, what it hands on happens before its reader
with it: no release of the team at device scope goes ahead of it (R231). -/
def State.storeRel (rel : Bool) (sc : Scope) (queued : Bool) (s : State) : Option Release :=
  let self : Know := if queued then { upto := s.core.seq + 1 } else {}
  if rel && decide (1 ≤ sc.rank) then
    some { team := s.team.ident, hand := { near := (s.known s.core.seq).join self, far := if 2 ≤ sc.rank then s.grp.know.seen else [] } }
  else s.grp.fenceTeam.map fun m =>
    { team := s.team.ident, hand := { near := (s.knownAt m).join self, far := match s.grp.fenceDev with
        | some d => (s.knownAt d).seen
        | none => [] } }

/-- A group learns by an acquire that stands at `seq` in its core's order: what it does later knows it, and so does the arrival of a later
BARARR that has still to take place (R229, Table 13-3). -/
def Group.learnAt (seq : Nat) (k : Know) (g : Group) : Group :=
  { g.learn k with pend := g.pend.map fun p => match p.kind with
      | .arrive b t j => if seq < p.seq then { p with kind := .arrive b t (j.join k) } else p
      | _ => p }

/-- An acquire through memory by an instruction at `seq` in the core's order, of what the values that it read hand on. At device scope or
wider no L1 line filled before serves the group any more (R228). -/
def State.acquireMem (seq : Nat) (sc : Scope) (h : Hand) (s : State) : State :=
  let s := if sc.rank = 0 then s else s.onGrp (Group.learnAt seq h.near)
  if 2 ≤ sc.rank then
    (s.onCore fun c => { c with epoch := c.epoch + 1 }).onGrp (Group.learnAt seq { epoch := s.core.epoch + 1, seen := h.far })
  else s

/-- Stores of the team that happen before what the group in focus does now, and are none of its own, have still to reach their homes (R231):
of other groups, or of the team before it in its chain. -/
def State.othersQueued (s : State) : Bool :=
  s.teamGroups.any fun g => g.pend.any fun p =>
    p.isStore && decide (p.seq < s.grp.know.upto) && (g.gid != s.grp.gid || p.carried)

/-- Every access of the group that is ordered before a release has performed at its scope (13 R229): loads are bound; at device
scope and wider no store is queued. Engine threads that have not joined are not ordered before it (R232). -/
def Group.releaseReadyAt (g : Group) (seq : Nat) (sc : Scope) : Bool :=
  !g.pend.any fun p => decide (p.seq < seq) && !p.carried && match p.kind with
    | .load _ _ _ _ _ _ => true
    | .mldb _ => true
    | .stch _ _ _ _ _ => true
    | .store _ _ => decide (2 ≤ sc.rank)
    | _ => false

/-- The same at issue, for everything that has issued; at device scope and wider for all of the team that happens before it too (R231). -/
def State.releaseReady (s : State) (sc : Scope) : Bool :=
  s.grp.releaseReadyAt s.core.seq sc && (decide (sc.rank < 2) || !s.othersQueued)

/-! ## Deterministic mode (06 R131 to R135) -/

/-- An address lies in a shared range of the launch. -/
def Team.isShared (t : Team) (va : Nat) : Bool := t.det && t.shared.any fun r => decide (r.1 ≤ va) && decide (va < r.1 + r.2)

/-- Pieces 0 to k-1 have committed. -/
def State.oldest (s : State) : Bool :=
  match s.findLaunch? s.team.launch with
  | some l => decide (s.team.piece.idx ≤ l.committed)
  | none => true

/-- A read with shared lanes waits (R133). -/
def State.sharedWait (s : State) (ls : List (Nat × Nat)) : Bool := ls.any (fun x => s.team.isShared x.2) && !s.oldest

/-- The same for a read of n bytes in a row. -/
def State.rangeWait (s : State) (a n : Nat) : Bool :=
  s.team.det && s.team.shared.any (fun r => decide (r.1 < a + n) && decide (a < r.1 + r.2)) && !s.oldest

def Team.slotsUsed (t : Team) : Nat := (t.held.map (·.slots)).foldl (· + ·) 0

/-- A held write finds too few slots free and has to wait for the overflow (R135). -/
def State.overflows (s : State) (need : Nat) : Bool :=
  s.team.det && !s.team.through && decide (0 < need) && decide (Config.commitSlots < s.team.slotsUsed + need)

/-- Place held writes of the instruction in hand: one for each pair of a lane and what it does; the first takes the slots. What the group
itself does happens in program order; an engine thread has still to join (13 R232, R237). -/
def State.hold (opc slots : Nat) (thread : Option Count) (rel : Option Release) (hs : List (LaneAcc × HeldKind)) (s : State) : State :=
  let n := s.team.heldCount s.grp.gid
  let new := hs.zipIdx.map fun x =>
    { chain := s.team.chain, gid := s.grp.gid, seq := n, lane := x.1.1.lane, core := s.grp.core, team := s.grp.slot, base := s.grp.base,
      slot := s.grp.pslot, opc := opc, order := s.core.seq, thread := thread, rel := rel, slots := if x.2 = 0 then slots else 0, cp := x.1.1.leaf.cp,
      wc := x.1.1.leaf.wc, kind := x.1.2 : Held }
  let s1 := s.onTeam fun t => { t with held := t.held ++ new }
  if thread.isSome then s1
  else s1.onGrp fun g => { g with know := g.know.join { seen := [{ team := s.team.ident, gid := s.grp.gid, seq := n }] } }

/-- A held write that places bytes of [lo, lo + n). -/
def Held.writes (lo n : Nat) (h : Held) : Bool :=
  match h.kind with
  | .bytes cs => cs.any fun c => decide (lo ≤ c.1) && decide (c.1 < lo + n)
  | _ => false

/-- A queued store of bytes of [lo, lo + n). -/
def Pend.stores (lo n : Nat) (p : Pend) : Bool :=
  match p.kind with
  | .store _ ls => ls.any fun x => decide (x.1.key < lo + n) && decide (lo < x.1.key + x.2.length)
  | _ => false

/-- What happens before the fork of an engine thread that touches the bytes of these runs (13 R232): what acquires, FENCEs with kind stores and
STCHs of the group put before it, the group's own stores of those bytes, and all that happens before one of them that is a release. -/
def State.forkKnow (runs : List (Nat × Nat)) (s : State) : Know :=
  let mine := s.team.held.filter fun h => h.chain == s.team.chain && h.gid == s.grp.gid && h.thread.isNone && runs.any fun r => h.writes r.1 r.2
  let queued := s.grp.pend.filter fun p => runs.any fun r => p.stores r.1 r.2
  let touched : Know := { seen := mine.map s.team.heldId, upto := queued.foldl (fun m p => Nat.max m (p.seq + 1)) 0 }
  runs.foldl (fun k r => k.join (handsOf s.team.ident r.1 r.2 s.grp.ownRels).near) (s.grp.fork.join touched)

/-- The group has released by stores of these runs (13 R232). -/
def Group.ownRelease (w : Option Release) (runs : List (Nat × Nat)) (g : Group) : Group :=
  { g with ownRels := runs.foldl (fun rs r => writeRels w r.1 r.2 rs) g.ownRels }

/-- An engine thread with nothing but held writes has taken its place in the core's order, and is done. -/
def State.threadDone (s : State) : State := s.onCore fun c => { c with seq := c.seq + 1 }

/-- Commit order within a team (R134). -/
def heldBefore (a b : Held) : Bool :=
  if a.chain ≠ b.chain then decide (a.chain < b.chain)
  else if a.gid ≠ b.gid then decide (a.gid < b.gid)
  else if a.seq ≠ b.seq then decide (a.seq < b.seq)
  else decide (a.lane ≤ b.lane)

/-- The held bytes that a read sees before which `k` happens (R133, 13 R237): those of earlier teams of the chain, and those that happen
before it; the last in commit order gives the value. -/
def State.overlay (s : State) (k : Know) (m : Memory) : Memory :=
  let sees := fun h : Held => decide (h.chain < s.team.chain) || k.seen.contains (s.team.heldId h)
  let hs := sortBy heldBefore (s.team.held.filter sees)
  hs.foldl (fun m h => match h.kind with | .bytes cs => m.puts cs | _ => m) m

/-- A write reaches memory; a poisoned line keeps no new data (12 R222). -/
def State.writeMem (cells : List Host.Cell) (s : State) : State :=
  { s with mem := s.mem.puts (cells.filter fun c => !s.poisoned.contains (c.1 / 128)) }.unrel cells

/-- An uncorrectable error in a line that a stitch comes to hold poisons it (R222). -/
def State.poison (line : Nat) (s : State) : State :=
  { s with poisoned := if s.poisoned.contains line then s.poisoned else s.poisoned ++ [line],
           lineErrors := s.lineErrors.filter (· != line) }

/-! ## Lines that are not served now -/

/-- A line is served: no stitch holds it (12 R214). -/
def State.served (s : State) (key : Nat) : Bool :=
  match s.run with | some r => r.key / 128 != key / 128 | none => true

/-! ## Pending accesses of a group -/

/-- A pending load of the group reads a byte of [key, key + n). -/
def Pend.loads (p : Pend) (lane : Nat) (key n : Nat) : Bool :=
  match p.kind with
  | .load as w _ _ _ _ => as.any fun a =>
      decide (a.key < key + n) && decide (key < a.key + w) && (keySpace key != .priv || a.lane == lane)
  | .mldb parts => parts.any fun x => x.2.any fun k => decide (key ≤ k) && decide (k < key + n)
  | _ => false

/-- A store of the group waits while a load of its own has yet to read one of its bytes (13 R225; log entry 9). -/
def Group.loadsBefore (g : Group) (lane key n : Nat) : Bool := g.pend.any fun p => p.loads lane key n

/-- CPY instructions outstanding on the core (08 R164). -/
def State.copiesOut (s : State) : Nat :=
  (s.coreGroups.map fun g => g.pend.countP fun p => match p.kind with | .copy _ _ _ _ _ _ _ => true | _ => false).foldl (· + ·) 0

/-- Where the lanes of a global access would go, for the waits. -/
def State.peek (s : State) (n : Need) (ls : List (Nat × Nat)) : List LaneAcc := laneAccs (s.lanesX n false ls)

/-! ## Reads of a once-per-group instruction (12 R217, 22 R368) -/

/-- What reading bytes for a once-per-group instruction finds. -/
inductive Once
  | pages (fs : List PageFault)
  | bad (key : Nat)
  | bytes (bs : List Byte) (s : State)
  deriving DecidableEq, Repr

/-- The lines of [a, a + n), each as an access of lane 0 in its page. -/
def onceLines (a n : Nat) (accs : List LaneAcc) : List LaneAcc :=
  ((List.range ((a + n - 1) / 128 + 1 - a / 128)).map fun i => 128 * (a / 128 + i)).filterMap fun x =>
    (accs.find? fun p => p.va / 8192 == x / 8192).map fun p => { p with va := x, key := p.key / 8192 * 8192 + x % 8192 }

/-- The bytes of [a, a + n) as runs of keys, one in each page. -/
def onceRuns (a n : Nat) (accs : List LaneAcc) : List (Nat × Nat) :=
  accs.map fun p =>
    let lo := Nat.max a (p.va / 8192 * 8192)
    (p.key - (p.va - lo), Nat.min (a + n) (p.va / 8192 * 8192 + 8192) - lo)

/-- The lines that a read as a load has brought: copies in L1 are refreshed or filled as by a load (13 R225; log entry 64). -/
def State.onceFills (as : List LaneAcc) (s : State) : State := as.foldl (fun s a => s.l1Fill s.team.ctx a (decide (a.leaf.cp ≠ 3))) s

/-- Read n bytes, at most two pages of them, as a load of lane 0 (R217): its requests carry the team's clock as it stands, since the
instruction does not advance it, and state no distance (log entry 64). What the values hand on counts for a later FENCE (13 R230). -/
def State.readOnce (a n : Nat) (s : State) : Once :=
  let ls := if a / 8192 = (a + n - 1) / 8192 then [(0, a)] else [(0, a), (0, a + n - 1)]
  let xs := s.lanesX .r false ls
  let fs := pageFaults ls xs
  if !fs.isEmpty then .pages fs
  else
    let accs := laneAccs xs
    let view := s.overlay s.grp.know s.coreView
    let key := fun x : Nat => match accs.find? fun p => p.va / 8192 == x / 8192 with
      | some p => p.key / 8192 * 8192 + x % 8192
      | none => 0
    match (List.range n).find? fun i => s.bad (key (a + i)) with
    | some i => .bad (key (a + i))
    | none => .bytes ((List.range n).map fun i => view.byte (key (a + i)))
        ((((s.translated false accs).onceFills (onceLines a n accs)).requests s.team.rclk.toNat s.team.gcnt (some 255) false
          (onceLines a n accs)).onGrp fun g =>
            { g with readKnow := (onceRuns a n accs).foldl (fun h r => h.join (handsOf s.team.ident r.1 r.2 (s.relsOf s.coreGroups))) g.readKnow })

/-- No stitch holds a line of the bytes (12 R214), and no earlier load of the group has still to bind one of them (13 R225, R229). -/
def State.onceMay (s : State) (a n : Nat) : Bool :=
  let accs := laneAccs (s.lanesX .r false (if a / 8192 = (a + n - 1) / 8192 then [(0, a)] else [(0, a), (0, a + n - 1)]))
  ((onceLines a n accs).all fun x => s.served x.key) && (onceRuns a n accs).all fun r => !s.grp.loadsBefore 0 r.1 r.2

def onceAlign (a : Nat) : Trap := { kind := 10, cause := 0, d0 := BitVec.ofNat 64 a, d1 := 1 }

/-- Go on with the bytes, or take the fault, once they may be read. -/
def State.onceThen (opc a n : Nat) (k : List Byte → State → State) (s : State) : State :=
  if !s.onceMay a n then s
  else match s.readOnce a n with
  | .pages fs => s.park opc false 1 none fs
  | .bad key => s.takeFault opc (machineCheck 2 key)
  | .bytes bs s' => k bs s'

end Sys2Proof.Machine
end

