-- ==== Sys2Proof/Machine/Control.lean ====
section
/-! DEFINITION. Machine/Control.lean: control instructions, opcodes 0x00 to 0x0A (20 R309 to R312, R315, R316, R326 to R328; 21
R366; 22 R376, R389; 23 R425, R432; 15 R245; 04 R80 to R88). -/

namespace Sys2Proof.Machine

/-- 22 R376. -/
def execNop (g : Guard) (s : State) : Out := perLane 0x00 (.nop g) g (fun _ s => s) s

/-- Take the transfer. -/
def State.jump (act : W32) (t : Nat) (s : State) : State := (s.tally act).onGrp (Group.goto t)

/-- 20 R311. -/
def execBra (g : Guard) (off : BitVec 29) (s : State) : Out :=
  uniformOp 0x01 (.bra g off) g (fun s =>
    let t := s.grp.rel 29 off.toNat
    s.target 0x01 t (State.jump s.grp.xm t)) s

/-- 04 R81, 20 R312. -/
def execBrd (g : Guard) (toff joff : BitVec 22) (s : State) : Out :=
  if s.holds (.brd g toff joff) then .next (s.stay 0x02 (.brd g toff joff))
  else if g.isNever then .next (s.finish 0)
  else
    let t := s.grp.rel 22 toff.toNat
    let j := s.grp.rel 22 joff.toNat
    let e := s.grp.xm
    let taken := s.grp.active g
    .next (s.target 0x02 t fun s => s.target 0x02 j fun s =>
      if 32 ≤ s.grp.stack.length then s.takeFault 0x02 { kind := 8 }
      else
        let p := s.grp.nextPos
        let entry : RecEntry := { join := j, entry := e, pending := if taken = 0 then 0 else e &&& ~~~taken, base := p.1, slot := p.2,
                                  hdr := if p.1 = s.grp.base then s.grp.hdr else none }
        let s := (s.tally taken).onGrp fun g => { g with stack := entry :: g.stack }
        if taken = 0 then s.onGrp Group.step
        else s.onGrp fun g => { g with xm := taken }.goto t)

/-- 04 R82, 21 R366. -/
def execJoin (g : Guard) (s : State) : Out :=
  if s.holds (.join g) then .next (s.stay 0x03 (.join g))
  else if g.isNever then .next (s.finish 0)
  else match s.grp.uniform g with
    | .diverges => .next (s.takeFault 0x03 (s.grp.divergence g 0))
    | .nothing => .next (s.finish s.grp.xm)
    | .acts =>
      match s.grp.stack with
      | [] => .next (s.takeFault 0x03 (s.grp.divergence g 1))
      | top :: rest =>
        if s.grp.base ≠ top.join then .next (s.takeFault 0x03 (s.grp.divergence g 1))
        else if top.pending ≠ 0 then
          .next ((s.tally s.grp.xm).onGrp fun g =>
            { g with xm := top.pending, stack := { top with pending := 0 } :: rest, base := top.base, pslot := top.slot,
                     hdr := top.hdr, enter := false, gap := .before })
        else .next ((s.tally s.grp.xm).onGrp fun g => { g with xm := top.entry, stack := rest }.step)

/-- CALL with its target (20 R316). -/
def callTo (t : Nat) (s : State) : State :=
  s.target 0x04 t fun s => (s.tally s.grp.xm).onGrp fun g => (g.setS 1022 (BitVec.ofNat 64 (g.addr + 8))).goto t

/-- 20 R315, R316. -/
def execCall (g : Guard) (off : BitVec 29) (s : State) : Out :=
  uniformOp 0x04 (.call g off) g (fun s => callTo (s.grp.rel 29 off.toNat) s) s

def execCallReg (g : Guard) (sl : SReg) (s : State) : Out :=
  uniformOp 0x04 (.callReg g sl) g (fun s => callTo (s.grp.S sl.val).toNat s) s

/-- 22 R389. -/
def execRet (g : Guard) (sl : SReg) (s : State) : Out :=
  uniformOp 0x05 (.ret g sl) g (fun s =>
    let t := (s.grp.S sl.val).toNat
    s.target 0x05 t (State.jump s.grp.xm t)) s

/-! ## EXIT (20 R326 to R328) -/

/-- The groups that a buckle names: (own team?, GID) (10 R185). -/
def buckleBits (b : W64) : List (Bool × Nat) :=
  (allLanes.filter fun g => b.getLsbD g).map (fun g => (true, g)) ++ (allLanes.filter fun g => b.getLsbD (32 + g)).map fun g => (false, g)

/-- The groups of the gang set of the group in focus (10 R186). -/
def State.gang (s : State) : List Group :=
  (buckleBits s.grp.buckle).filterMap fun x =>
    let t := if x.1 then some s.team else s.partner?
    match t with
    | none => none
    | some t => s.allGroups.find? fun g => g.live && g.is t.core t.slot x.2

/-- Another member of the gang set is latched (10 R189). -/
def State.gangLatched (s : State) : Bool :=
  s.gang.any fun g => g.susp == .latched && !(g.is s.grp.core s.grp.slot s.grp.gid)

def Group.isExited (g : Group) : Bool := g.susp == .exited

/-- The group retires: it issues nothing more and its stack is discarded (R327, 04 R84). -/
def Group.retire (g : Group) : Group := { g with susp := .exited, stack := [] }

/-- The group in focus is its team's last. -/
def State.lastGroup (s : State) : Bool := s.teamGroups.all fun g => g.isExited || g.gid == s.grp.gid

/-- Read the successor's descriptor as a load; where it faults the whole EXIT is unfinished. -/
def State.readBody (opc addr : Nat) (s : State) : State ⊕ (State × Option Body) :=
  match s.readOnce addr 64 with
  | .pages fs => .inl (s.park opc false 0xFFFFFFFF#32 none (fs.map fun f => { f with lanes := 0xFFFFFFFF#32 }))
  | .bad key => .inl (s.takeFault opc (machineCheck 2 key))
  | .bytes bs s' => .inr (s', parseBody addr bs)

def teamExit (cause : Nat) (addr : W64) : Trap := { kind := 16, cause := cause, d0 := addr }

/-- EXIT once its guard acts. -/
def exitBody (k : ExitKind) (s : State) : State :=
  let addr := match k with | .plain => 0 | .next d => d
  if s.gangLatched then s.takeFault 0x06 { kind := 14, cause := 4, d0 := s.grp.buckle }
  else if addr.toNat % 64 ≠ 0 then s.takeFault 0x06 (teamExit 1 addr)
  else if s.team.exk.isSome && s.team.exk != some k then s.takeFault 0x06 (teamExit 0 addr)
  else
    let out := fun s : State => ((s.tally s.grp.xm).onGrp Group.retire).onTeam fun t => { t with exk := some k }
    if !s.lastGroup then out s
    else match k with
      | .plain => ((out s).retireTeam).reap
      | .next d =>
        if s.rangeWait d.toNat 64 || !s.onceMay d.toNat 64 then s
        else match s.readBody 0x06 d.toNat with
        | .inl s' => s'
        | .inr (s', none) => s'.takeFault 0x06 (teamExit 2 addr)
        | .inr (s', some b) =>
          if s'.holdingsOk b then (out s').startSuccessor b else s'.takeFault 0x06 (teamExit 2 addr)

def execExit (g : Guard) (s : State) : Out := uniformOp 0x06 (.exit g) g (exitBody .plain) s

def execExitNext (g : Guard) (sl : SReg) (s : State) : Out :=
  uniformOp 0x06 (.exitNext g sl) g (fun s => exitBody (.next (s.grp.S sl.val)) s) s

/-! ## YIELD, TRAP, BKPT, STKA -/

/-- 23 R432, 04 R88. -/
def execYield (g : Guard) (b : BReg) (off : BitVec 29) (s : State) : Out :=
  uniformOp 0x07 (.yield g b off) g (fun s =>
    let t := s.grp.rel 29 off.toNat
    s.target 0x07 t fun s =>
      let bar := s.team.bar b
      let s := s.tally s.grp.xm
      if !bar.init then s.onGrp fun g => (g.setStat 0x07 4).goto t
      else s.onGrp fun g => { g with susp := .yield b bar.ph t }) s

/-- 23 R425: codes below 256 are reserved. -/
def execTrap (code : BitVec 16) (s : State) : Out :=
  if s.holds (.trap code) then .next (s.stay 0x08 (.trap code))
  else if code.toNat < 256 then .next (s.takeFault 0x08 { kind := 3 })
  else .next (s.takeFault 0x08 { kind := 18, d0 := code.setWidth 64 })

/-- 20 R309. -/
def execBkpt (g : Guard) (s : State) : Out := uniformOp 0x09 (.bkpt g) g (fun s => s.takeFault 0x09 { kind := 19 }) s

/-- 15 R245. -/
def execStka (n : BitVec 32) (s : State) : Out :=
  if s.holds (.stka n) then .next (s.stay 0x0A (.stka n))
  else
    let sp := s.grp.S 1023
    let new := sp.toInt - n.toInt
    if new < s.grp.slim.toNat ∨ s.team.body.priv < new ∨ new % 4 ≠ 0 then
      .next (s.takeFault 0x0A { kind := 9, d0 := sp, d1 := n })
    else .next ((s.onGrp fun g => g.setS 1023 (BitVec.ofInt 64 new)).finish s.grp.xm)

end Sys2Proof.Machine
end

