-- ==== Sys2Proof/Machine/Flags.lean ====
section
/-! DEFINITION. Machine/Flags.lean: FPCR flags (04 Table 4-2), status codes (04 Table 4-4), the reduction of integer results
(05 R99, 21 R350) and their comparison. -/

namespace Sys2Proof.Machine

/-! ## FPCR (04 Table 4-2, 05 R107) -/

def fNX : Nat := 1
def fUF : Nat := 2
def fOF : Nat := 4
def fDZ : Nat := 8
def fIV : Nat := 16

/-! ## Status codes (04 Table 4-4) -/

def stOK : Nat := 0
def stDENIED : Nat := 1
def stBUSY : Nat := 2
def stKILLED : Nat := 3
def stNOTINIT : Nat := 4
def stINUSE : Nat := 5
def stVERIFY : Nat := 6
def stNORES : Nat := 7
def stEMPTY : Nat := 8
def stFULL : Nat := 9

/-! ## Integers (05 R99) -/

/-- A w-bit pattern read as signed or unsigned. -/
def readInt (signed : Bool) (w x : Nat) : Int := if signed then sext w x else ((x % 2 ^ w : Nat) : Int)

def intMin (signed : Bool) (w : Nat) : Int := if signed then -(2 ^ (w - 1) : Int) else 0
def intMax (signed : Bool) (w : Nat) : Int := if signed then (2 ^ (w - 1) : Int) - 1 else (2 ^ w : Int) - 1

/-- v mod 2^w as a pattern. -/
def wrap (w : Nat) (v : Int) : Nat := (v % (2 ^ w : Int)).toNat

def clampInt (lo hi v : Int) : Int := if v < lo then lo else if hi < v then hi else v

/-- The reduction of 21 R350: modulo 2^w, or clamped with SAT. -/
def reduce (signed sat : Bool) (w : Nat) (v : Int) : Nat :=
  wrap w (if sat then clampInt (intMin signed w) (intMax signed w) v else v)

def ICond.test (c : ICond) (x y : Int) : Bool :=
  match c with
  | .eq => decide (x = y) | .ne => decide (x ≠ y) | .lt => decide (x < y) | .le => decide (x ≤ y)
  | .gt => decide (y < x) | .ge => decide (y ≤ x)

/-- Quotient truncated toward zero, and remainder with the dividend's sign (21 R360). -/
def divTrunc (signed : Bool) (w : Nat) (x y : Int) : Int :=
  if y = 0 then (if signed then -1 else (2 ^ w : Int) - 1) else Int.tdiv x y
def remTrunc (x y : Int) : Int := if y = 0 then x else x - Int.tdiv x y * y

end Sys2Proof.Machine
end

