-- ==== Sys2Proof/Machine/Scalar.lean ====
section
/-! DEFINITION. Machine/Scalar.lean: the scalar instructions, opcodes 0x10 to 0x1B (23 R398 to R417). -/

namespace Sys2Proof.Machine

/-! ## The shared shape (23 R399) -/

def SType.w : SType → Nat
  | .i32 => 32 | .n32 => 32 | .i64 => 64 | .n64 => 64
def SType.signed : SType → Bool
  | .i32 => true | .n32 => false | .i64 => true | .n64 => false

/-- An S register as a number of the type. -/
def SType.read (t : SType) (x : W64) : Int := readInt (SType.signed t) (SType.w t) x.toNat

/-- A w-bit result in 64 bits: sign-extended for I32, zero-extended for N32. -/
def SType.extend (t : SType) (x : Nat) : W64 :=
  match t with
  | .i32 => BitVec.ofInt 64 (sext 32 x)
  | .n32 | .i64 | .n64 => BitVec.ofNat 64 x

/-- v reduced and extended. -/
def SType.result (t : SType) (sat : Bool) (v : Int) : W64 :=
  SType.extend t (reduce (SType.signed t) sat (SType.w t) v)

/-- A scalar instruction's new S[D]. -/
def scalarOp (opc : Nat) (i : Instr) (d : SReg) (f : Group → W64) (s : State) : Out :=
  onceOp opc i (fun s => s.onGrp fun g => g.setS d.val (f g)) s

/-- v = f(x, y) on two registers. -/
def scalar2 (t : SType) (sat : Bool) (a b : SReg) (f : Int → Int → Int) (g : Group) : W64 :=
  SType.result t sat (f (SType.read t (g.S a.val)) (SType.read t (g.S b.val)))

/-- SDIV and SREM write S[D] when they complete (R399, 03 Table 3-2). -/
def scalarLong (opc : Nat) (la : Fin 16) (i : Instr) (d : SReg) (f : Group → W64) (s : State) : Out :=
  onceOp opc i (fun s => longResult opc la i { v := [], s := [(d.val, f s.grp)], flags := 0 } s) s

/-- The shift count: y read as an unsigned w-bit value (R416). -/
def SType.countOf (t : SType) (y : W64) : Nat := y.toNat % 2 ^ SType.w t

/-- x · 2^s exactly; beyond 2w places the reduction is the same. -/
def shlInt (w : Nat) (x : Int) (s : Nat) : Int := x * 2 ^ (min s (2 * w))
/-- Bits read as unsigned, divided by 2^s, rounded down. -/
def shrNat (w x s : Nat) : Int := ((x % 2 ^ w / 2 ^ (min s w) : Nat) : Int)
/-- Bits read as signed, divided by 2^s, rounded toward −∞. -/
def sarInt (w x s : Nat) : Int := sext w x / (2 ^ (min s w) : Int)

/-- ⌊x·y / 2^w⌋ (R415, 21 R363). -/
def mulHigh (w : Nat) (x y : Int) : Int := x * y / (2 ^ w : Int)

/-- Zero bits above the highest 1 bit of a w-bit pattern; w for zero (R405). -/
def clz (w x : Nat) : Nat := if x % 2 ^ w = 0 then w else w - 1 - (x % 2 ^ w).log2

/-! ## Meanings, in the table's order -/

/-- R413. -/
def execSmov (d a : SReg) (s : State) : Out := scalarOp 0x10 (.smov d a) d (fun g => g.S a.val) s

/-- 23 Table 23-4. -/
def execSmovi (d : SReg) (imm : BitVec 32) (s : State) : Out := scalarOp 0x11 (.smovi d imm) d (fun _ => imm.signExtend 64) s
def execSmoviU (d : SReg) (imm : BitVec 32) (s : State) : Out := scalarOp 0x11 (.smoviU d imm) d (fun _ => imm.setWidth 64) s
def execSmoviHi (d : SReg) (imm : BitVec 32) (s : State) : Out :=
  scalarOp 0x11 (.smoviHi d imm) d (fun g => imm ++ (g.S d.val).setWidth 32) s

/-- R402. -/
def execSadd (ty : SType) (sat : Bool) (d a b : SReg) (s : State) : Out :=
  scalarOp 0x12 (.sadd ty sat d a b) d (scalar2 ty sat a b fun x y => x + y) s
def execSsub (ty : SType) (sat : Bool) (d a b : SReg) (s : State) : Out :=
  scalarOp 0x12 (.ssub ty sat d a b) d (scalar2 ty sat a b fun x y => x - y) s

/-- 23 Table 23-2. -/
def execSaddi (d : SReg) (imm : BitVec 32) (s : State) : Out :=
  scalarOp 0x13 (.saddi d imm) d (fun g => g.S d.val + imm.signExtend 64) s
def execSaddiHi (d : SReg) (imm : BitVec 32) (s : State) : Out :=
  scalarOp 0x13 (.saddiHi d imm) d (fun g => g.S d.val + (imm.signExtend 64 <<< 32)) s
def execSaddiReg (d a : SReg) (imm : BitVec 22) (s : State) : Out :=
  scalarOp 0x13 (.saddiReg d a imm) d (fun g => g.S a.val + imm.signExtend 64) s

/-- R415. -/
def execSmul (ty : SType) (sat : Bool) (d a b : SReg) (s : State) : Out :=
  scalarOp 0x14 (.smul ty sat d a b) d (scalar2 ty sat a b fun x y => x * y) s
def execSmulh (ty : SType) (d a b : SReg) (s : State) : Out :=
  scalarOp 0x14 (.smulh ty d a b) d (scalar2 ty false a b (mulHigh (SType.w ty))) s

/-- R407, 21 R360. -/
def execSdiv (la : Fin 16) (ty : SType) (sat : Bool) (d a b : SReg) (s : State) : Out :=
  scalarLong 0x15 la (.sdiv la ty sat d a b) d (scalar2 ty sat a b (divTrunc (SType.signed ty) (SType.w ty))) s
def execSrem (la : Fin 16) (ty : SType) (d a b : SReg) (s : State) : Out :=
  scalarLong 0x15 la (.srem la ty d a b) d (scalar2 ty false a b remTrunc) s

/-- R404: bit patterns; the type chooses the width. -/
def scalarBits (ty : SType) (a b : SReg) (f : Nat → Nat → Nat) (g : Group) : W64 :=
  SType.extend ty (f ((g.S a.val).toNat % 2 ^ SType.w ty) ((g.S b.val).toNat % 2 ^ SType.w ty))
def execSand (ty : SType) (d a b : SReg) (s : State) : Out :=
  scalarOp 0x16 (.sand ty d a b) d (scalarBits ty a b fun x y => x &&& y) s
def execSor (ty : SType) (d a b : SReg) (s : State) : Out :=
  scalarOp 0x16 (.sor ty d a b) d (scalarBits ty a b fun x y => x ||| y) s
def execSxor (ty : SType) (d a b : SReg) (s : State) : Out :=
  scalarOp 0x16 (.sxor ty d a b) d (scalarBits ty a b fun x y => x ^^^ y) s

/-- R416. -/
def execSshl (ty : SType) (sat : Bool) (d a b : SReg) (s : State) : Out :=
  scalarOp 0x17 (.sshl ty sat d a b) d (fun g =>
    SType.result ty sat (shlInt (SType.w ty) (SType.read ty (g.S a.val)) (SType.countOf ty (g.S b.val)))) s
def execSshr (ty : SType) (d a b : SReg) (s : State) : Out :=
  scalarOp 0x17 (.sshr ty d a b) d (fun g =>
    SType.result ty false (shrNat (SType.w ty) (g.S a.val).toNat (SType.countOf ty (g.S b.val)))) s
def execSsar (ty : SType) (d a b : SReg) (s : State) : Out :=
  scalarOp 0x17 (.ssar ty d a b) d (fun g =>
    SType.result ty false (sarInt (SType.w ty) (g.S a.val).toNat (SType.countOf ty (g.S b.val)))) s

/-- R412. -/
def execSmin (ty : SType) (d a b : SReg) (s : State) : Out :=
  scalarOp 0x18 (.smin ty d a b) d (scalar2 ty false a b fun x y => if x ≤ y then x else y) s
def execSmax (ty : SType) (d a b : SReg) (s : State) : Out :=
  scalarOp 0x18 (.smax ty d a b) d (scalar2 ty false a b fun x y => if x ≤ y then y else x) s

/-- R406: the result bit in all 32 lanes; P15 ignores writes. -/
def execScmp (ty : SType) (c : ICond) (d : PReg) (a b : SReg) (s : State) : Out :=
  onceOp 0x19 (.scmp ty c d a b) (fun s => s.onGrp fun g =>
    g.setP d.val (if ICond.test c (SType.read ty (g.S a.val)) (SType.read ty (g.S b.val)) then 0xFFFFFFFF#32 else 0)) s

/-- R417: lane 0 of the predicate. -/
def execSsel (p : PReg) (d a b : SReg) (s : State) : Out :=
  scalarOp 0x1A (.ssel p d a b) d (fun g => if (g.P p.val).getLsbD 0 then g.S a.val else g.S b.val) s

/-- R405. -/
def execSpopc (ty : SType) (d a : SReg) (s : State) : Out :=
  scalarOp 0x1B (.spopc ty d a) d (fun g => SType.extend ty (popcount (SType.w ty) (g.S a.val).toNat)) s
def execSclz (ty : SType) (d a : SReg) (s : State) : Out :=
  scalarOp 0x1B (.sclz ty d a) d (fun g => SType.extend ty (clz (SType.w ty) (g.S a.val).toNat)) s

end Sys2Proof.Machine
end

