-- ==== Sys2Proof/Machine/IntVec.lean ====
section
/-! DEFINITION. Machine/IntVec.lean: the vector integer instructions, opcodes 0x20 to 0x2D (21 R348 to R365). -/

namespace Sys2Proof.Machine

/-! ## Elements (21 R349, R350) -/

def IType.w : IType → Nat
  | .i32 => 32 | .n32 => 32 | .i64 => 64 | .n64 => 64 | .i16x2 => 16 | .n16x2 => 16 | .i8x4 => 8 | .n8x4 => 8
def IType.signed : IType → Bool
  | .i32 => true | .n32 => false | .i64 => true | .n64 => false | .i16x2 => true | .n16x2 => false | .i8x4 => true | .n8x4 => false
/-- Elements of a lane. -/
def IType.n : IType → Nat
  | .i32 => 1 | .n32 => 1 | .i64 => 1 | .n64 => 1 | .i16x2 => 2 | .n16x2 => 2 | .i8x4 => 4 | .n8x4 => 4
def SType.vec : SType → IType
  | .i32 => .i32 | .n32 => .n32 | .i64 => .i64 | .n64 => .n64

/-- Element e of a lane value. -/
def elem (w e x : Nat) : Nat := x / 2 ^ (w * e) % 2 ^ w
/-- Σ f(e)·2^(w·e) for the elements e below n. -/
def packElems (w : Nat) (f : Nat → Nat) : Nat → Nat
  | 0 => 0
  | n + 1 => packElems w f n + f n % 2 ^ w * 2 ^ (w * n)

/-- Element by element: `f` gets the patterns of x, y and z. -/
def onElems (t : IType) (f : Nat → Nat → Nat → Nat) (x y z : Nat) : Nat :=
  packElems (IType.w t) (fun e => f (elem (IType.w t) e x) (elem (IType.w t) e y) (elem (IType.w t) e z)) (IType.n t)

/-- The exact v of signed or unsigned elements, reduced (R350). -/
def onInts (t : IType) (sat : Bool) (f : Int → Int → Int → Int) : Nat → Nat → Nat → Nat :=
  onElems t fun x y z =>
    let r := readInt (IType.signed t) (IType.w t)
    reduce (IType.signed t) sat (IType.w t) (f (r x) (r y) (r z))

def vec1 (opc : Nat) (i : Instr) (g : Guard) (dbl : Bool) (d : VReg) (a : VSrc) (f : Nat → Nat) (s : State) : Out :=
  perLane opc i g (mapLanes dbl d fun p l => f (p.srcNat dbl l a)) s
def vec2 (opc : Nat) (i : Instr) (g : Guard) (dbl : Bool) (d : VReg) (a b : VSrc) (f : Nat → Nat → Nat) (s : State) : Out :=
  perLane opc i g (mapLanes dbl d fun p l => f (p.srcNat dbl l a) (p.srcNat dbl l b)) s
def vec3 (opc : Nat) (i : Instr) (g : Guard) (dbl : Bool) (d : VReg) (a b c : VSrc) (f : Nat → Nat → Nat → Nat) (s : State) : Out :=
  perLane opc i g (mapLanes dbl d fun p l => f (p.srcNat dbl l a) (p.srcNat dbl l b) (p.srcNat dbl l c)) s

/-- A long-latency lane instruction: its results are written when it completes; with no active lane it completes at issue
(21 Table 21-2). -/
def vecLong (opc : Nat) (la : Fin 16) (i : Instr) (g : Guard) (dbl : Bool) (d : VReg) (f : Group → Nat → Nat × Nat) (s : State) : Out :=
  perLane opc i g (fun act s => if act = 0 then s else longResult opc la i (laneResults dbl d f act s) s) s

/-! ## Meanings -/

/-- R353. -/
def execIadd (g : Guard) (ty : IType) (sat : Bool) (d : VReg) (a b : VSrc) (s : State) : Out :=
  vec2 0x20 (.iadd g ty sat d a b) g ty.dbl d a b (fun x y => onInts ty sat (fun x y _ => x + y) x y 0) s
def execIsub (g : Guard) (ty : IType) (sat : Bool) (d : VReg) (a b : VSrc) (s : State) : Out :=
  vec2 0x20 (.isub g ty sat d a b) g ty.dbl d a b (fun x y => onInts ty sat (fun x y _ => x - y) x y 0) s

/-- R354: the immediate is signed whatever the type. -/
def execIaddi (g : Guard) (ty : SType) (sat : Bool) (d a : VReg) (imm : BitVec 24) (s : State) : Out :=
  vec1 0x21 (.iaddi g ty sat d a imm) g ty.dbl d (.v a) (fun x => onInts (SType.vec ty) sat (fun x _ _ => x + imm.toInt) x 0 0) s

/-- R363. -/
def execImul (g : Guard) (ty : IType) (sat : Bool) (d : VReg) (a b : VSrc) (s : State) : Out :=
  vec2 0x22 (.imul g ty sat d a b) g ty.dbl d a b (fun x y => onInts ty sat (fun x y _ => x * y) x y 0) s
def execImulh (g : Guard) (ty : IType) (d : VReg) (a b : VSrc) (s : State) : Out :=
  vec2 0x22 (.imulh g ty d a b) g ty.dbl d a b (fun x y => onInts ty false (fun x y _ => mulHigh (IType.w ty) x y) x y 0) s

/-- R361: the product is never reduced on its own. -/
def execImad (g : Guard) (ty : IType) (sat : Bool) (d : VReg) (a b c : VSrc) (s : State) : Out :=
  vec3 0x23 (.imad g ty sat d a b c) g ty.dbl d a b c (onInts ty sat fun x y z => x * y + z) s

/-- R362. -/
def execImin (g : Guard) (ty : IType) (d : VReg) (a b : VSrc) (s : State) : Out :=
  vec2 0x24 (.imin g ty d a b) g ty.dbl d a b (fun x y => onInts ty false (fun x y _ => if x ≤ y then x else y) x y 0) s
def execImax (g : Guard) (ty : IType) (d : VReg) (a b : VSrc) (s : State) : Out :=
  vec2 0x24 (.imax g ty d a b) g ty.dbl d a b (fun x y => onInts ty false (fun x y _ => if x ≤ y then y else x) x y 0) s

/-- R357: min(max(x, y), z). -/
def execIclamp (g : Guard) (ty : IType) (d : VReg) (a b c : VSrc) (s : State) : Out :=
  vec3 0x25 (.iclamp g ty d a b c) g ty.dbl d a b c (onInts ty false fun x y z =>
    let m := if x ≤ y then y else x
    if m ≤ z then m else z) s

/-- R352. -/
def execIabs (g : Guard) (ty : IType) (sat : Bool) (d : VReg) (a : VSrc) (s : State) : Out :=
  vec1 0x26 (.iabs g ty sat d a) g ty.dbl d a (fun x => onInts ty sat (fun x _ _ => if x < 0 then -x else x) x 0 0) s
def execIneg (g : Guard) (ty : IType) (sat : Bool) (d : VReg) (a : VSrc) (s : State) : Out :=
  vec1 0x26 (.ineg g ty sat d a) g ty.dbl d a (fun x => onInts ty sat (fun x _ _ => -x) x 0 0) s

/-- R355: bit patterns. -/
def execIand (g : Guard) (ty : IType) (d : VReg) (a b : VSrc) (s : State) : Out :=
  vec2 0x27 (.iand g ty d a b) g ty.dbl d a b (fun x y => x &&& y) s
def execIor (g : Guard) (ty : IType) (d : VReg) (a b : VSrc) (s : State) : Out :=
  vec2 0x27 (.ior g ty d a b) g ty.dbl d a b (fun x y => x ||| y) s
def execIxor (g : Guard) (ty : IType) (d : VReg) (a b : VSrc) (s : State) : Out :=
  vec2 0x27 (.ixor g ty d a b) g ty.dbl d a b (fun x y => x ^^^ y) s
/-- x and not y. -/
def execIandn (g : Guard) (ty : IType) (d : VReg) (a b : VSrc) (s : State) : Out :=
  vec2 0x27 (.iandn g ty d a b) g ty.dbl d a b (fun x y => x ^^^ (x &&& y)) s

/-- R364: the count is the element of b read as unsigned. -/
def execIshl (g : Guard) (ty : IType) (sat : Bool) (d : VReg) (a b : VSrc) (s : State) : Out :=
  vec2 0x28 (.ishl g ty sat d a b) g ty.dbl d a b (fun x y => onElems ty (fun x y _ =>
    reduce (IType.signed ty) sat (IType.w ty) (shlInt (IType.w ty) (readInt (IType.signed ty) (IType.w ty) x) y)) x y 0) s
def execIshr (g : Guard) (ty : IType) (d : VReg) (a b : VSrc) (s : State) : Out :=
  vec2 0x28 (.ishr g ty d a b) g ty.dbl d a b (fun x y => onElems ty (fun x y _ => wrap (IType.w ty) (shrNat (IType.w ty) x y)) x y 0) s
def execIsar (g : Guard) (ty : IType) (d : VReg) (a b : VSrc) (s : State) : Out :=
  vec2 0x28 (.isar g ty d a b) g ty.dbl d a b (fun x y => onElems ty (fun x y _ => wrap (IType.w ty) (sarInt (IType.w ty) x y)) x y 0) s

/-- R359. -/
def execIcmp (g : Guard) (ty : SType) (c : ICond) (d : PReg) (a b : VSrc) (s : State) : Out :=
  perLane 0x29 (.icmp g ty c d a b) g (mapPred d fun p l =>
    let r := readInt (SType.signed ty) (SType.w ty)
    ICond.test c (r (p.srcNat ty.dbl l a)) (r (p.srcNat ty.dbl l b))) s

/-- R365. -/
def execIsel (g : Guard) (ty : SType) (p : PReg) (d : VReg) (a b : VSrc) (s : State) : Out :=
  perLane 0x2A (.isel g ty p d a b) g (mapLanes ty.dbl d fun q l =>
    if (q.P p.val).getLsbD l then q.srcNat ty.dbl l a else q.srcNat ty.dbl l b) s

/-- R358. -/
def execIpopc (g : Guard) (ty : IType) (d : VReg) (a : VSrc) (s : State) : Out :=
  vec1 0x2B (.ipopc g ty d a) g ty.dbl d a (fun x => onElems ty (fun x _ _ => popcount (IType.w ty) x) x 0 0) s
def execIclz (g : Guard) (ty : IType) (d : VReg) (a : VSrc) (s : State) : Out :=
  vec1 0x2B (.iclz g ty d a) g ty.dbl d a (fun x => onElems ty (fun x _ _ => clz (IType.w ty) x) x 0 0) s

/-- Position and width of a bit field, the width cut to what fits (R356). -/
def fieldOf (w c : Nat) : Nat × Nat :=
  let pos := c % 256
  let wid := if w ≤ pos then 0 else c / 256 % 256
  (pos, min wid (w - pos))

/-- R356. -/
def bfx (t : SType) (x c : Nat) : Nat :=
  let p := fieldOf (SType.w t) c
  if p.2 = 0 then 0 else wrap (SType.w t) (readInt (SType.signed t) p.2 (x / 2 ^ p.1))
def bfi (t : SType) (x y c : Nat) : Nat :=
  let p := fieldOf (SType.w t) c
  x - x / 2 ^ p.1 % 2 ^ p.2 * 2 ^ p.1 + y % 2 ^ p.2 * 2 ^ p.1

def execIbfx (g : Guard) (ty : SType) (d : VReg) (a c : VSrc) (s : State) : Out :=
  perLane 0x2C (.ibfx g ty d a c) g (mapLanes ty.dbl d fun p l => bfx ty (p.srcNat ty.dbl l a) (p.src32 l c).toNat) s
def execIbfi (g : Guard) (ty : SType) (d : VReg) (a b c : VSrc) (s : State) : Out :=
  perLane 0x2C (.ibfi g ty d a b c) g (mapLanes ty.dbl d fun p l =>
    bfi ty (p.srcNat ty.dbl l a) (p.srcNat ty.dbl l b) (p.src32 l c).toNat) s

/-- R360. -/
def execIdiv (g : Guard) (la : Fin 16) (ty : SType) (sat : Bool) (d : VReg) (a b : VSrc) (s : State) : Out :=
  vecLong 0x2D la (.idiv g la ty sat d a b) g ty.dbl d (fun p l =>
    (onInts (SType.vec ty) sat (fun x y _ => divTrunc (SType.signed ty) (SType.w ty) x y)
      (p.srcNat ty.dbl l a) (p.srcNat ty.dbl l b) 0, 0)) s
def execIrem (g : Guard) (la : Fin 16) (ty : SType) (d : VReg) (a b : VSrc) (s : State) : Out :=
  vecLong 0x2D la (.irem g la ty d a b) g ty.dbl d (fun p l =>
    (onInts (SType.vec ty) false (fun x y _ => remTrunc x y) (p.srcNat ty.dbl l a) (p.srcNat ty.dbl l b) 0, 0)) s

end Sys2Proof.Machine
end

