-- ==== Sys2Proof/Machine/Num.lean ====
section
/-! DEFINITION. Machine/Num.lean: floating-point values and the one rounding step (05 R97, R102 to R107); the exact
functions that instructions round: sums, products, quotients, roots, powers, logarithms and sines (21). -/

namespace Sys2Proof.Machine

/-- A value: NaN (signalling or quiet), infinity, or (−1)^neg · m · 2^e. -/
inductive FVal
  | nan (sig : Bool)
  | inf (neg : Bool)
  | fin (neg : Bool) (m : Nat) (e : Int)
  deriving DecidableEq, Repr

/-- How a format uses its top exponent, and whether it has a sign (05 Table 5-1). -/
inductive FKind
  | ieee | e4m3 | e5m3
  deriving DecidableEq, Repr

/-- A format: exponent bits, fraction bits, kind (05 Table 5-1). -/
structure Fmt where
  eb : Nat
  t : Nat
  kind : FKind
  deriving DecidableEq, Repr

def F64 : Fmt := ⟨11, 52, .ieee⟩
def F32 : Fmt := ⟨8, 23, .ieee⟩
def F16 : Fmt := ⟨5, 10, .ieee⟩
def BF16 : Fmt := ⟨8, 7, .ieee⟩
def E4M3 : Fmt := ⟨4, 3, .e4m3⟩
def E5M2 : Fmt := ⟨5, 2, .ieee⟩
def E5M3 : Fmt := ⟨5, 3, .e5m3⟩

def Fmt.bias (f : Fmt) : Int := (2 ^ (f.eb - 1) : Nat) - 1
/-- Exponent of the smallest subnormal. -/
def Fmt.qmin (f : Fmt) : Int := 1 - f.bias - f.t
/-- The sign's weight. -/
def Fmt.signBit (f : Fmt) : Nat := 2 ^ (f.eb + f.t)
/-- The pattern of the largest finite value (05 Table 5-1). -/
def Fmt.maxFin (f : Fmt) : Nat :=
  match f.kind with
  | .ieee => (2 ^ f.eb - 1) * 2 ^ f.t - 1
  | .e4m3 | .e5m3 => 2 ^ (f.eb + f.t) - 2
/-- The pattern of +∞ (formats that have one). -/
def Fmt.infBits (f : Fmt) : Nat := (2 ^ f.eb - 1) * 2 ^ f.t
/-- The canonical NaN (05 R105). -/
def Fmt.nanBits (f : Fmt) : Nat :=
  match f.kind with
  | .ieee => f.infBits + 2 ^ (f.t - 1)
  | .e4m3 | .e5m3 => 2 ^ (f.eb + f.t) - 1

/-- Formats that can hold signalling NaNs: every NaN of E4M3, E5M2, E5M3 is quiet (R105). -/
def Fmt.hasSig (f : Fmt) : Bool := f == F64 || f == F32 || f == F16 || f == BF16

/-- The value of a pattern (05 R97). -/
def Fmt.val (f : Fmt) (x : Nat) : FVal :=
  let neg := f.kind != .e5m3 && x / f.signBit % 2 == 1
  let e := x / 2 ^ f.t % 2 ^ f.eb
  let m := x % 2 ^ f.t
  let num : FVal := if e = 0 then .fin neg m f.qmin else .fin neg (2 ^ f.t + m) (f.qmin + e - 1)
  match f.kind with
  | .ieee =>
    if e = 2 ^ f.eb - 1 then
      if m = 0 then .inf neg else .nan (f.hasSig && decide (m < 2 ^ (f.t - 1)))
    else num
  | .e4m3 | .e5m3 => if e = 2 ^ f.eb - 1 ∧ m = 2 ^ f.t - 1 then .nan false else num

/-- Rounding modes with stochastic rounding and its bits (05 Table 5-2). -/
inductive RMode
  | std (r : Rnd)
  | sr (r : Nat)
  deriving DecidableEq, Repr

/-- Whether to round away from the truncated magnitude `n` with remainder `rem`/`den` (05 Table 5-2, R104). -/
def RMode.up (md : RMode) (neg : Bool) (n rem den : Nat) : Bool :=
  if rem = 0 then false else
  match md with
  | .std .rne => decide (den < 2 * rem) || (2 * rem == den && n % 2 == 1)
  | .std .rtz => false
  | .std .rup => !neg
  | .std .rdn => neg
  | .std .rna => decide (den ≤ 2 * rem)
  | .sr r => decide (2 ^ 32 ≤ r + rem * 2 ^ 32 / den)

/-- num/den · 2^e in units of 2^q: truncated value, remainder, denominator. -/
def quant (num den : Nat) (e q : Int) : Nat × Nat × Nat :=
  let nn := num * 2 ^ (e - q).toNat
  let dd := den * 2 ^ (q - e).toNat
  (nn / dd, nn % dd, dd)

/-- Floor of log2 of num/den (num nonzero). -/
def ilog (num den : Nat) : Int :=
  let k : Int := (num.log2 : Int) - den.log2
  let lo := num * 2 ^ (-k).toNat
  let hi := den * 2 ^ k.toNat
  if hi ≤ lo then k else k - 1

/-- Overflow (05 R103): the pattern without its sign. -/
def Fmt.overflow (f : Fmt) (md : RMode) (neg up : Bool) : Nat :=
  match f.kind with
  | .e4m3 | .e5m3 => f.maxFin
  | .ieee =>
    let toInf := match md with
      | .std .rne | .std .rna => true
      | .std .rtz => false
      | .std .rup => !neg
      | .std .rdn => neg
      | .sr _ => up
    if toInf then f.infBits else f.maxFin

/-- The rounding step (05 R102 to R104, R107): (−1)^neg · num/den · 2^e into a format; pattern and flags. -/
def Fmt.round (f : Fmt) (md : RMode) (neg : Bool) (num den : Nat) (e : Int) : Nat × Nat :=
  let sg := if neg && f.kind != .e5m3 then f.signBit else 0
  if num = 0 then (sg, 0) else
  let q0 := ilog num den + e - f.t
  let q := if q0 < f.qmin then f.qmin else q0
  let (n, rem, dd) := quant num den e q
  let up := md.up neg n rem dd
  let r := if up then n + 1 else n
  let pat := (q - f.qmin).toNat * 2 ^ f.t + r
  if f.maxFin < pat then (sg + f.overflow md neg up, fOF + fNX) else
  let tiny := decide (q0 < f.qmin) &&
    (let (n0, rem0, dd0) := quant num den e q0
     let r0 := if md.up neg n0 rem0 dd0 then n0 + 1 else n0
     decide (r0 < 2 ^ (f.qmin + f.t - q0).toNat))
  (sg + pat, if rem = 0 then 0 else if tiny then fUF + fNX else fNX)

def Fmt.zero (f : Fmt) (neg : Bool) : Nat := if neg && f.kind != .e5m3 then f.signBit else 0
def Fmt.infinity (f : Fmt) (neg : Bool) : Nat := f.infBits + f.zero neg
/-- An invalid operation (05 R105, R107). -/
def Fmt.invalid (f : Fmt) : Nat × Nat := (f.nanBits, fIV)

def FVal.isNan : FVal → Bool
  | .nan _ => true | _ => false
def FVal.isSig : FVal → Bool
  | .nan s => s | _ => false
/-- IV for signalling operands (05 R105). -/
def sigFlag (vs : List FVal) : Nat := if vs.any FVal.isSig then fIV else 0

def FVal.negate : FVal → FVal
  | .nan s => .nan s
  | .inf n => .inf (!n)
  | .fin n m e => .fin (!n) m e

/-- m · 2^e as a multiple of 2^q, for q ≤ e. -/
def scaled (neg : Bool) (m : Nat) (e q : Int) : Int :=
  let x : Int := ((m * 2 ^ (e - q).toNat : Nat) : Int)
  if neg then -x else x

/-- An exact sum of finite terms: a multiple of 2^q. -/
def exactSum (ts : List (Bool × Nat × Int)) : Int × Int :=
  let q := ts.foldl (fun q t => if t.2.2 < q then t.2.2 else q) 0
  (ts.foldl (fun s t => s + scaled t.1 t.2.1 t.2.2 q) 0, q)

/-- Round a multiple of 2^q that is not zero. -/
def Fmt.roundInt (f : Fmt) (md : RMode) (x : Int) (q : Int) : Nat × Nat := f.round md (decide (x < 0)) x.natAbs 1 q

/-- x + y rounded once (21 R336, 05 R109). -/
def Fmt.add (f : Fmt) (rm : Rnd) (x y : FVal) : Nat × Nat :=
  match x, y with
  | .nan _, _ | _, .nan _ => (f.nanBits, sigFlag [x, y])
  | .inf a, .inf b => if a = b then (f.infinity a, 0) else f.invalid
  | .inf a, .fin _ _ _ => (f.infinity a, 0)
  | .fin _ _ _, .inf b => (f.infinity b, 0)
  | .fin a m e, .fin b n g =>
    if m = 0 ∧ n = 0 ∧ a = b then (f.zero a, 0) else
    let (s, q) := exactSum [(a, m, e), (b, n, g)]
    if s = 0 then (f.zero (rm == .rdn), 0) else f.roundInt (.std rm) s q

/-- x · y rounded once (21 R345). -/
def Fmt.mul (f : Fmt) (rm : Rnd) (x y : FVal) : Nat × Nat :=
  match x, y with
  | .nan _, _ | _, .nan _ => (f.nanBits, sigFlag [x, y])
  | .inf a, .inf b => (f.infinity (a != b), 0)
  | .inf a, .fin b m _ | .fin b m _, .inf a => if m = 0 then f.invalid else (f.infinity (a != b), 0)
  | .fin a m e, .fin b n g => f.round (.std rm) (a != b) (m * n) 1 (e + g)

/-- x·y + z rounded once (21 R342); 0·∞ is invalid even with a quiet NaN z. -/
def Fmt.fma (f : Fmt) (rm : Rnd) (np : Bool) (x y z : FVal) : Nat × Nat :=
  match x, y with
  | .nan _, _ | _, .nan _ => (f.nanBits, sigFlag [x, y, z])
  | .inf _, .fin _ 0 _ | .fin _ 0 _, .inf _ => f.invalid
  | .inf a, .inf b | .inf a, .fin b _ _ | .fin a _ _, .inf b =>
    let pn := (a != b) != np
    match z with
    | .nan _ => (f.nanBits, sigFlag [z])
    | .inf c => if c = pn then (f.infinity c, 0) else f.invalid
    | .fin _ _ _ => (f.infinity pn, 0)
  | .fin a m e, .fin b n g =>
    let pn := (a != b) != np
    match z with
    | .nan _ => (f.nanBits, sigFlag [z])
    | .inf c => (f.infinity c, 0)
    | .fin c k h =>
      if m * n = 0 ∧ k = 0 ∧ pn = c then (f.zero c, 0) else
      let (s, q) := exactSum [(pn, m * n, e + g), (c, k, h)]
      if s = 0 then (f.zero (rm == .rdn), 0) else f.roundInt (.std rm) s q

/-- x / y rounded once (21 R340). -/
def Fmt.div (f : Fmt) (md : RMode) (x y : FVal) : Nat × Nat :=
  match x, y with
  | .nan _, _ | _, .nan _ => (f.nanBits, sigFlag [x, y])
  | .inf _, .inf _ => f.invalid
  | .inf a, .fin b _ _ => (f.infinity (a != b), 0)
  | .fin a _ _, .inf b => (f.zero (a != b), 0)
  | .fin a m e, .fin b n g =>
    if n = 0 then (if m = 0 then f.invalid else (f.infinity (a != b), fDZ))
    else f.round md (a != b) m n (e - g)

/-! ## Order, minimum, maximum (05 R113, 21 R338) -/

/-- A number that orders finite values and infinities; zeros are equal. -/
def FVal.cmp (x y : FVal) : Option Ordering :=
  match x, y with
  | .nan _, _ | _, .nan _ => none
  | .inf a, .inf b => some (if a = b then .eq else if a then .lt else .gt)
  | .inf a, .fin _ _ _ => some (if a then .lt else .gt)
  | .fin _ _ _, .inf b => some (if b then .gt else .lt)
  | .fin a m e, .fin b n g =>
    let (s, _) := exactSum [(a, m, e), (!b, n, g)]
    some (if s < 0 then .lt else if s = 0 then .eq else .gt)

def FVal.isNeg : FVal → Bool
  | .nan _ => false | .inf n => n | .fin n _ _ => n

/-- Minimum or maximum of two patterns: −0 orders below +0; a NaN gives the canonical NaN (R113). -/
def Fmt.minmax (f : Fmt) (isMax : Bool) (a b : Nat) : Nat × Nat :=
  let x := f.val a
  let y := f.val b
  match FVal.cmp x y with
  | none => (f.nanBits, sigFlag [x, y])
  | some .lt => (if isMax then b else a, 0)
  | some .gt => (if isMax then a else b, 0)
  | some .eq => (if isMax then (if x.isNeg then b else a) else (if x.isNeg then a else b), 0)

/-! ## Roots (21 R346, R347) -/

/-- Floor of the square root, bit by bit from bit b − 1. -/
def isqrtFrom (n : Nat) : Nat → Nat → Nat
  | 0, r => r
  | b + 1, r => isqrtFrom n b (if (r + 2 ^ b) * (r + 2 ^ b) ≤ n then r + 2 ^ b else r)
def isqrt (n : Nat) : Nat := isqrtFrom n (n.log2 / 2 + 1) 0

/-- A magnitude a·2^e known to lie strictly between a and a + 1 units unless exact: doubled, with a sticky one. -/
def sticky (a : Nat) (exact : Bool) : Nat := 2 * a + (if exact then 0 else 1)

def Fmt.sqrt (f : Fmt) (rm : Rnd) (x : FVal) : Nat × Nat :=
  match x with
  | .nan s => (f.nanBits, if s then fIV else 0)
  | .inf neg => if neg then f.invalid else (f.infinity false, 0)
  | .fin neg m e =>
    if m = 0 then (f.zero neg, 0) else if neg then f.invalid else
    let e2 := (e - 130) / 2        -- m·2^e = n·2^(2·e2)
    let n := m * 2 ^ (e - 2 * e2).toNat
    let r := isqrt n
    f.round (.std rm) false (sticky r (r * r == n)) 1 (e2 - 1)

def Fmt.rsqrt (f : Fmt) (rm : Rnd) (x : FVal) : Nat × Nat :=
  match x with
  | .nan s => (f.nanBits, if s then fIV else 0)
  | .inf neg => if neg then f.invalid else (f.zero false, 0)
  | .fin neg m e =>
    if m = 0 then (f.infinity neg, fDZ) else if neg then f.invalid else
    -- 1/√(m·2^e) = √(2^(2k)·2^b/m) · 2^(−k−h) with e = 2h − b and b one of 0, 1
    let h := (e + 1) / 2
    let b := (2 * h - e).toNat
    let k := 130 + m.log2
    let n := 2 ^ (2 * k + b)
    let r := isqrt (n / m)
    f.round (.std rm) false (sticky r (r * r * m == n)) 1 (-(k : Int) - h - 1)

/-! ## Powers, logarithms, sines (21 R339, R341): fixed point with `prec` fraction bits, log entry 20 -/

def prec : Nat := 384
def one : Nat := 2 ^ prec

/-- Σ z^(2k+1)/(2k+1), with signs alternating where `alt`: term, square, index, fuel, sums of kept and taken terms. -/
def atanSum (alt : Bool) (z2 : Nat) : Nat → Nat → Nat → Nat → Nat → Nat
  | 0, _, _, pos, neg => pos - neg
  | fuel + 1, p, k, pos, neg =>
    let t := p / (2 * k + 1)
    let p' := p * z2 / one
    if alt && k % 2 == 1 then atanSum alt z2 fuel p' (k + 1) pos (neg + t) else atanSum alt z2 fuel p' (k + 1) (pos + t) neg
/-- atanh of z, and arctan of 1/n, in fixed point. -/
def atanh (z : Nat) : Nat := atanSum false (z * z / one) 260 z 0 0 0
def arctanInv (n : Nat) : Nat := atanSum true (one / (n * n)) 180 (one / n) 0 0 0
def ln2 : Nat := 2 * atanh (one / 3)
def pi : Nat := 16 * arctanInv 5 - 4 * arctanInv 239

/-- Σ y^k/k!. -/
def expSum (y : Nat) : Nat → Nat → Nat → Nat → Nat
  | 0, _, _, s => s
  | fuel + 1, t, k, s => expSum y fuel (t * y / one / (k + 1)) (k + 1) (s + t)
def expFix (y : Nat) : Nat := expSum y 100 one 0 0

/-- y − y³/3! + y⁵/5! − … -/
def sinSum (y2 : Nat) : Nat → Nat → Nat → Bool → Nat → Nat → Nat
  | 0, _, _, _, pos, neg => pos - neg
  | fuel + 1, t, k, sgn, pos, neg =>
    let t' := t * y2 / one / ((k + 1) * (k + 2))
    if sgn then sinSum y2 fuel t' (k + 2) false pos (neg + t) else sinSum y2 fuel t' (k + 2) true (pos + t) neg
def sinFix (y : Nat) : Nat := sinSum (y * y / one) 60 y 1 false 0 0

/-- Round an approximation in fixed point of a value that no rounding boundary is near. -/
def Fmt.roundFix (f : Fmt) (rm : Rnd) (neg : Bool) (a : Nat) (e : Int) : Nat × Nat :=
  f.round (.std rm) neg (sticky (a / 2 ^ 32) false) 1 (e - prec + 31)

/-- A finite value as an integer part (floor) and a fraction in fixed point (exact while e ≥ −prec). -/
def floorFix (neg : Bool) (m : Nat) (e : Int) : Int × Nat :=
  let x : Int := scaled neg m (e + prec) 0
  (x / (one : Int), (x % (one : Int)).toNat)

/-- 2^x (21 Table 21-6). -/
def Fmt.exp2 (f : Fmt) (rm : Rnd) (x : FVal) : Nat × Nat :=
  match x with
  | .nan s => (f.nanBits, if s then fIV else 0)
  | .inf neg => (if neg then f.zero false else f.infinity false, 0)
  | .fin neg m e =>
    if m = 0 then f.round (.std rm) false 1 1 0 else
    if 20 < ilog m 1 + e then f.round (.std rm) false 1 1 (if neg then -100000 else 100000) else
    let (n, fr) := floorFix neg m e
    if fr = 0 then f.round (.std rm) false 1 1 n else f.roundFix rm false (expFix (fr * ln2 / one)) n

/-- log2 x (21 Table 21-6). -/
def Fmt.log2 (f : Fmt) (rm : Rnd) (x : FVal) : Nat × Nat :=
  match x with
  | .nan s => (f.nanBits, if s then fIV else 0)
  | .inf neg => if neg then f.invalid else (f.infinity false, 0)
  | .fin neg m e =>
    if m = 0 then (f.infinity true, fDZ) else if neg then f.invalid else
    let n := ilog m 1 + e
    if m = 2 ^ m.log2 then (if n = 0 then (f.zero false, 0) else f.roundInt (.std rm) n 0) else
    let u := m * one / 2 ^ m.log2 - one          -- the fraction above the leading one
    let l := 2 * atanh (u * one / (2 * one + u)) * one / ln2
    let v : Int := n * one + l
    f.roundFix rm (decide (v < 0)) v.natAbs 0

/-- sin(π·x), or cos(π·x) as sin(π·(x + 1/2)) (21 Table 21-5). -/
def Fmt.sinPi (f : Fmt) (rm : Rnd) (cosine : Bool) (x : FVal) : Nat × Nat :=
  match x with
  | .nan s => (f.nanBits, if s then fIV else 0)
  | .inf _ => f.invalid
  | .fin neg m e =>
    if m = 0 then (if cosine then f.round (.std rm) false 1 1 0 else (f.zero neg, 0)) else
    let (n, fr) := floorFix neg m e
    let (n, fr) := if cosine then (if one / 2 ≤ fr then (n + 1, fr - one / 2) else (n, fr + one / 2)) else (n, fr)
    let odd := decide (n % 2 = 1)
    if fr = 0 then (f.zero (!cosine && neg), 0)
    else if fr = one / 2 then f.round (.std rm) odd 1 1 0
    else
      let r := if one / 2 < fr then one - fr else fr
      f.roundFix rm odd (sinFix (r * pi / one)) 0

/-! ## Classification, scaling, conversion -/

/-- FCLASS (21 Table 21-3). -/
def Fmt.classify (f : Fmt) (x : Nat) : Nat :=
  let neg := x / f.signBit % 2 == 1
  let e := x / 2 ^ f.t % 2 ^ f.eb
  match f.val x with
  | .nan s => if s then 1 else 2
  | .inf n => if n then 4 else 512
  | .fin _ m _ =>
    if m = 0 then (if neg then 32 else 64)
    else if e = 0 then (if neg then 16 else 128)
    else if neg then 8 else 256

/-- x · 2^n (21 R343). -/
def Fmt.ldexp (f : Fmt) (rm : Rnd) (x : FVal) (n : Int) : Nat × Nat :=
  match x with
  | .nan s => (f.nanBits, if s then fIV else 0)
  | .inf neg => (f.infinity neg, 0)
  | .fin neg m e => if m = 0 then (f.zero neg, 0) else
    f.round (.std rm) neg m 1 (e + clampInt (-100000) 100000 n)

/-- A value into a float format (05 Table 5-3, 20 R322). -/
def Fmt.ofVal (f : Fmt) (md : RMode) (x : FVal) : Nat × Nat :=
  match x with
  | .nan s => (f.nanBits, if s then fIV else 0)
  | .inf neg => match f.kind with
    | .ieee => (f.infinity neg, 0)
    | .e4m3 | .e5m3 => f.invalid
  | .fin neg m e =>
    if m = 0 then (f.zero neg, 0)
    else if neg && f.kind == .e5m3 then f.invalid
    else f.round md neg m 1 e

/-- m · 2^e rounded to an integer (05 R102, R104 with u = 1): value and whether inexact. -/
def roundWhole (md : RMode) (neg : Bool) (m : Nat) (e : Int) : Int × Bool :=
  let (n, rem, dd) := quant m 1 e 0
  let r := if md.up neg n rem dd then n + 1 else n
  (if neg then -(r : Int) else (r : Int), rem != 0)

/-- A value into an integer type (05 Table 5-3); the pattern of w bits and flags. -/
def toIntType (signed : Bool) (w : Nat) (md : RMode) (x : FVal) : Nat × Nat :=
  match x with
  | .nan _ => (0, fIV)
  | .inf neg => (wrap w (if neg then intMin signed w else intMax signed w), fIV)
  | .fin neg m e =>
    if m = 0 then (0, 0) else
    if 200 < ilog m 1 + e then (wrap w (if neg then intMin signed w else intMax signed w), fIV) else
    let (v, inexact) := roundWhole md neg m e
    if v < intMin signed w then (wrap w (intMin signed w), fIV)
    else if intMax signed w < v then (wrap w (intMax signed w), fIV)
    else (wrap w v, if inexact then fNX else 0)

/-- An integer as a value. -/
def intVal (v : Int) : FVal := .fin (decide (v < 0)) v.natAbs 0

/-! ## Multi-term sums (05 R110) -/

/-- The exact product of two values as a term: none where it is NaN, with the flag of 0·∞ or a signalling operand. -/
inductive Term
  | nan
  | inf (neg : Bool)
  | fin (neg : Bool) (m : Nat) (e : Int)
  deriving DecidableEq, Repr

def FVal.term : FVal → Term × Nat
  | .nan s => (.nan, if s then fIV else 0)
  | .inf n => (.inf n, 0)
  | .fin n m e => (.fin n m e, 0)

def prodTerm (x y : FVal) : Term × Nat :=
  match x, y with
  | .nan _, _ | _, .nan _ => (.nan, sigFlag [x, y])
  | .inf a, .inf b => (.inf (a != b), 0)
  | .inf a, .fin b m _ | .fin b m _, .inf a => if m = 0 then (.nan, fIV) else (.inf (a != b), 0)
  | .fin a m e, .fin b n g => (.fin (a != b) (m * n) (e + g), 0)

/-- A sum of terms rounded once (R110): an exact zero is +0 unless every term is −0; an empty sum is +0. -/
def Fmt.sum (f : Fmt) (rm : Rnd) (ts : List (Term × Nat)) : Nat × Nat :=
  let fl := ts.foldl (fun m t => m ||| t.2) 0
  let pinf := ts.any fun t => t.1 == .inf false
  let ninf := ts.any fun t => t.1 == .inf true
  if ts.any fun t => t.1 == .nan then (f.nanBits, if pinf && ninf then fl ||| fIV else fl)
  else if pinf && ninf then (f.nanBits, fl ||| fIV)
  else if pinf then (f.infinity false, fl)
  else if ninf then (f.infinity true, fl)
  else
    let fs := ts.filterMap fun t => match t.1 with | .fin n m e => some (n, m, e) | _ => none
    let (s, q) := exactSum fs
    if s = 0 then (f.zero (!fs.isEmpty && fs.all fun t => t.1 && t.2.1 == 0), fl)
    else let r := f.roundInt (.std rm) s q; (r.1, r.2 ||| fl)

/-- x · σ of a scaled element (05 R101), exact. -/
def scaledElem (x sg : FVal) : FVal :=
  match x, sg with
  | .fin a m e, .fin _ n g => .fin a (m * n) (e + g)
  | .inf a, .fin _ n _ => if n = 0 then .fin a 0 0 else .inf a
  | _, _ => .nan false

/-- The eight weights of an LX2 index (05 R100). -/
def lx2Weights (x : Nat) : List FVal :=
  let s7 := (List.range 7).foldl (fun p i => p != bitAt x (1 + i)) false
  (List.range 8).map fun i =>
    let neg := if i = 7 then s7 else bitAt x (1 + i)
    let g := bitAt x (8 + i)
    if bitAt x 0 then .fin neg (if g then 3 else 1) (-1) else .fin neg (if g then 2 else 1) 0

end Sys2Proof.Machine
end

