-- ==== Sys2Proof/Machine/Float.lean ====
section
/-! DEFINITION. Machine/Float.lean: the floating-point instructions, opcodes 0x40 to 0x4C (21 R329 to R347). -/

namespace Sys2Proof.Machine

/-! ## Elements (21 R330, R331) -/

def FType.fmt : FType → Fmt
  | .f64 => F64 | .f32 => F32 | .f16 => F16 | .bf16 => BF16 | .f16x2 => F16 | .bf16x2 => BF16
def FType.w : FType → Nat
  | .f64 => 64 | .f32 => 32 | .f16 => 16 | .bf16 => 16 | .f16x2 => 16 | .bf16x2 => 16
def FType.n : FType → Nat
  | .f16x2 => 2 | .bf16x2 => 2 | .f64 => 1 | .f32 => 1 | .f16 => 1 | .bf16 => 1

/-- `f` on each element's patterns; results laid out, flags joined. -/
def onFloats (t : FType) (f : Fmt → Nat → Nat → Nat → Nat × Nat) (x y z : Nat) : Nat × Nat :=
  let w := FType.w t
  let r := fun e => f (FType.fmt t) (elem w e x) (elem w e y) (elem w e z)
  (packElems w (fun e => (r e).1) (FType.n t), (List.range (FType.n t)).foldl (fun m e => m ||| (r e).2) 0)

def flt1 (opc : Nat) (i : Instr) (g : Guard) (t : FType) (d : VReg) (a : VSrc) (f : Fmt → FVal → Nat × Nat) (s : State) : Out :=
  perLane opc i g (mapLanesF t.dbl d fun p l => onFloats t (fun k x _ _ => f k (k.val x)) (p.srcNat t.dbl l a) 0 0) s
def flt2 (opc : Nat) (i : Instr) (g : Guard) (t : FType) (d : VReg) (a b : VSrc) (f : Fmt → FVal → FVal → Nat × Nat) (s : State) : Out :=
  perLane opc i g (mapLanesF t.dbl d fun p l =>
    onFloats t (fun k x y _ => f k (k.val x) (k.val y)) (p.srcNat t.dbl l a) (p.srcNat t.dbl l b) 0) s
def fltLong1 (opc : Nat) (la : Fin 16) (i : Instr) (g : Guard) (t : FType) (d : VReg) (a : VSrc) (f : Fmt → FVal → Nat × Nat)
    (s : State) : Out :=
  vecLong opc la i g t.dbl d (fun p l => onFloats t (fun k x _ _ => f k (k.val x)) (p.srcNat t.dbl l a) 0 0) s

/-! ## Meanings -/

/-- R336. -/
def execFadd (g : Guard) (ty : FType) (rm : Rnd) (d : VReg) (a b : VSrc) (s : State) : Out :=
  flt2 0x40 (.fadd g ty rm d a b) g ty d a b (fun k x y => k.add rm x y) s
def execFsub (g : Guard) (ty : FType) (rm : Rnd) (d : VReg) (a b : VSrc) (s : State) : Out :=
  flt2 0x40 (.fsub g ty rm d a b) g ty d a b (fun k x y => k.add rm x y.negate) s

/-- R345. -/
def execFmul (g : Guard) (ty : FType) (rm : Rnd) (d : VReg) (a b : VSrc) (s : State) : Out :=
  flt2 0x41 (.fmul g ty rm d a b) g ty d a b (fun k x y => k.mul rm x y) s

/-- R342. -/
def execFfma (g : Guard) (ty : FType) (rm : Rnd) (np : Bool) (d : VReg) (a b c : VSrc) (s : State) : Out :=
  perLane 0x42 (.ffma g ty rm np d a b c) g (mapLanesF ty.dbl d fun p l =>
    onFloats ty (fun k x y z => k.fma rm np (k.val x) (k.val y) (k.val z))
      (p.srcNat ty.dbl l a) (p.srcNat ty.dbl l b) (p.srcNat ty.dbl l c)) s

/-- R344. -/
def execFmin (g : Guard) (ty : FType) (d : VReg) (a b : VSrc) (s : State) : Out :=
  perLane 0x43 (.fmin g ty d a b) g (mapLanesF ty.dbl d fun p l =>
    onFloats ty (fun k x y _ => k.minmax false x y) (p.srcNat ty.dbl l a) (p.srcNat ty.dbl l b) 0) s
def execFmax (g : Guard) (ty : FType) (d : VReg) (a b : VSrc) (s : State) : Out :=
  perLane 0x43 (.fmax g ty d a b) g (mapLanesF ty.dbl d fun p l =>
    onFloats ty (fun k x y _ => k.minmax true x y) (p.srcNat ty.dbl l a) (p.srcNat ty.dbl l b) 0) s

/-- Whether a condition of 21 Table 21-4 holds. -/
def FCond.holds (c : FCond) (o : Option Ordering) : Bool :=
  match c, o with
  | .eq, o => o == some .eq
  | .ne, o => o != some .eq
  | .lt, o => o == some .lt
  | .le, o => o == some .lt || o == some .eq
  | .gt, o => o == some .gt
  | .ge, o => o == some .gt || o == some .eq
  | .un, o => o == none
  | .ord, o => o != none

/-- IV of FCMP: any signalling operand; for lt, le, gt, ge any NaN (R338). -/
def FCond.flags (c : FCond) (x y : FVal) : Nat :=
  let ordered := match c with
    | .lt | .le | .gt | .ge => true
    | .eq | .ne | .un | .ord => false
  if ordered && (x.isNan || y.isNan) then fIV else sigFlag [x, y]

/-- R338: P15 takes no bit, and the flags are set all the same. -/
def execFcmp (g : Guard) (ty : FType) (c : FCond) (d : PReg) (a b : VSrc) (s : State) : Out :=
  perLane 0x44 (.fcmp g ty c d a b) g (fun act s =>
    let k := FType.fmt ty
    let x := fun (p : Group) l => k.val (p.srcNat ty.dbl l a % 2 ^ FType.w ty)
    let y := fun (p : Group) l => k.val (p.srcNat ty.dbl l b % 2 ^ FType.w ty)
    let fl := (lanesOf act).foldl (fun m l => m ||| FCond.flags c (x s.grp l) (y s.grp l)) 0
    (mapPred d (fun p l => FCond.holds c (FVal.cmp (x p l) (y p l))) act s).onGrp fun q => { q with fpcr := q.fpcr ||| BitVec.ofNat 5 fl }) s

/-- R335: no flag; a NaN gives the canonical NaN. -/
def execFabs (g : Guard) (ty : FType) (d : VReg) (a : VSrc) (s : State) : Out :=
  perLane 0x45 (.fabs g ty d a) g (mapLanes ty.dbl d fun p l =>
    (onFloats ty (fun k x _ _ => (if (k.val x).isNan then k.nanBits else x % k.signBit, 0)) (p.srcNat ty.dbl l a) 0 0).1) s
def execFneg (g : Guard) (ty : FType) (d : VReg) (a : VSrc) (s : State) : Out :=
  perLane 0x45 (.fneg g ty d a) g (mapLanes ty.dbl d fun p l =>
    (onFloats ty (fun k x _ _ => (if (k.val x).isNan then k.nanBits else x ^^^ k.signBit, 0)) (p.srcNat ty.dbl l a) 0 0).1) s

/-- R346: FRCP is FDIV with dividend 1.0. -/
def execFrcp (g : Guard) (la : Fin 16) (ty : FType) (rm : Rnd) (d : VReg) (a : VSrc) (s : State) : Out :=
  fltLong1 0x46 la (.frcp g la ty rm d a) g ty d a (fun k x => k.div (.std rm) (.fin false 1 0) x) s
def execFrsq (g : Guard) (la : Fin 16) (ty : FType) (rm : Rnd) (d : VReg) (a : VSrc) (s : State) : Out :=
  fltLong1 0x46 la (.frsq g la ty rm d a) g ty d a (fun k x => k.rsqrt rm x) s

/-- R347. -/
def execFsqrt (g : Guard) (la : Fin 16) (ty : FType) (rm : Rnd) (d : VReg) (a : VSrc) (s : State) : Out :=
  fltLong1 0x47 la (.fsqrt g la ty rm d a) g ty d a (fun k x => k.sqrt rm x) s

/-- R340. -/
def execFdiv (g : Guard) (la : Fin 16) (ty : FType) (rm : Rnd) (d : VReg) (a b : VSrc) (s : State) : Out :=
  vecLong 0x48 la (.fdiv g la ty rm d a b) g ty.dbl d (fun p l =>
    onFloats ty (fun k x y _ => k.div (.std rm) (k.val x) (k.val y)) (p.srcNat ty.dbl l a) (p.srcNat ty.dbl l b) 0) s

/-- R341. -/
def execFex2 (g : Guard) (la : Fin 16) (ty : FType) (rm : Rnd) (d : VReg) (a : VSrc) (s : State) : Out :=
  fltLong1 0x49 la (.fex2 g la ty rm d a) g ty d a (fun k x => k.exp2 rm x) s
def execFlg2 (g : Guard) (la : Fin 16) (ty : FType) (rm : Rnd) (d : VReg) (a : VSrc) (s : State) : Out :=
  fltLong1 0x49 la (.flg2 g la ty rm d a) g ty d a (fun k x => k.log2 rm x) s

/-- R339. -/
def execFsin (g : Guard) (la : Fin 16) (ty : FType) (rm : Rnd) (d : VReg) (a : VSrc) (s : State) : Out :=
  fltLong1 0x4A la (.fsin g la ty rm d a) g ty d a (fun k x => k.sinPi rm false x) s
def execFcos (g : Guard) (la : Fin 16) (ty : FType) (rm : Rnd) (d : VReg) (a : VSrc) (s : State) : Out :=
  fltLong1 0x4A la (.fcos g la ty rm d a) g ty d a (fun k x => k.sinPi rm true x) s

/-- R337: D is one register, whatever the type; no flag. -/
def execFclass (g : Guard) (ty : FType) (d : VReg) (a : VSrc) (s : State) : Out :=
  perLane 0x4B (.fclass g ty d a) g (mapLanes false d fun p l =>
    (FType.fmt ty).classify (p.srcNat ty.dbl l a % 2 ^ FType.w ty)) s

/-- R343: n is an I32 in one register. -/
def execFldex (g : Guard) (ty : FType) (rm : Rnd) (d : VReg) (a b : VSrc) (s : State) : Out :=
  perLane 0x4C (.fldex g ty rm d a b) g (mapLanesF ty.dbl d fun p l =>
    onFloats ty (fun k x _ _ => k.ldexp rm (k.val x) (p.src32 l b).toInt) (p.srcNat ty.dbl l a) 0 0) s

end Sys2Proof.Machine
end

