-- ==== Sys2Proof/Machine/Convert.lean ====
section
/-! DEFINITION. Machine/Convert.lean: CVT, CVTI, BSCAL, PACK, UNPACK, LXDEC, opcodes 0x50 to 0x54 (20 R313, R314, R321 to
R325; 22 R373, R374, R377, R378). -/

namespace Sys2Proof.Machine

/-- What a conversion type is: a float format, or a signed or unsigned integer of a width (03 Table 3-6). -/
inductive CKind
  | flt (f : Fmt)
  | int (signed : Bool) (w : Nat)

def CType.ckind : CType → CKind
  | .f64 => .flt F64 | .f32 => .flt F32 | .f16 => .flt F16 | .bf16 => .flt BF16 | .e4m3 => .flt E4M3 | .e5m2 => .flt E5M2
  | .e5m3 => .flt E5M3 | .i32 => .int true 32 | .n32 => .int false 32 | .i64 => .int true 64 | .n64 => .int false 64
  | .i16 => .int true 16 | .n16 => .int false 16 | .i8 => .int true 8 | .n8 => .int false 8

/-- A source pattern's value, read from the low bits (05 R98). -/
def CType.value (t : CType) (x : Nat) : FVal :=
  match CType.ckind t with
  | .flt f => f.val (x % 2 ^ (f.eb + f.t + if f.kind = .e5m3 then 0 else 1))
  | .int sg w => intVal (readInt sg w x)

/-- A value into a type, laid out as 05 R98 states: narrow signed integers sign-extended to 32 bits. -/
def CType.convert (t : CType) (md : RMode) (v : FVal) : Nat × Nat :=
  match CType.ckind t with
  | .flt f => f.ofVal md v
  | .int sg w =>
    let r := toIntType sg w md v
    (if sg && decide (w < 32) then wrap 32 (sext w r.1) else r.1, r.2)

/-- 20 R321, R322. -/
def execCvt (g : Guard) (dst src : CType) (rm : CvtRnd) (d a : VReg) (s : State) : Out :=
  perLane 0x50 (.cvt g dst src rm d a) g (mapLanesF dst.dbl d fun p l =>
    let md := match rm with
      | .mode r => RMode.std r
      | .sr c => RMode.sr (p.V c.val l).toNat
    CType.convert dst md (CType.value src (p.srcNat src.dbl l (.v a)))) s

/-- 20 R325: v = F32 · 2^n rounded RNE to the type, or the integer · 2^−n rounded RNE to F32. -/
def execCvti (g : Guard) (ty : SType) (tof : Bool) (d a : VReg) (n : BitVec 24) (s : State) : Out :=
  perLane 0x51 (.cvti g ty tof d a n) g (mapLanesF (!tof && ty.dbl) d fun p l =>
    if tof then
      match intVal (SType.read ty (BitVec.ofNat 64 (p.srcNat ty.dbl l (.v a)))) with
      | .fin neg m e => F32.ofVal (.std .rne) (.fin neg m (e - n.toInt))
      | v => F32.ofVal (.std .rne) v
    else
      match F32.val (p.V a.val l).toNat with
      | .fin neg m e => toIntType (SType.signed ty) (SType.w ty) (.std .rne) (.fin neg m (e + n.toInt))
      | v => toIntType (SType.signed ty) (SType.w ty) (.std .rne) v) s

/-- a · s or a / s with the special cases of 20 R314; every zero result takes the sign of a. -/
def bscale (f : Fmt) (rm : Rnd) (inv : Bool) (a sc : FVal) : Nat × Nat :=
  match a, sc with
  | .nan sig, _ => (f.nanBits, if sig then fIV else 0)
  | _, .nan _ => (f.nanBits, 0)
  | a, sc => if inv then f.div (.std rm) a sc else f.mul rm a sc

/-- 20 R313, R314. -/
def execBscal (g : Guard) (dbl : Bool) (rm : Rnd) (inv : Bool) (n : Fin 4) (d : VReg) (a b : VSrc) (s : State) : Out :=
  perLane 0x52 (.bscal g dbl rm inv n d a b) g (mapLanesF dbl d fun p l =>
    let f := if dbl then F64 else F32
    bscale f rm inv (f.val (p.srcNat dbl l a)) (E5M3.val (elem 8 n.val (p.src32 l b).toNat))) s

/-- 22 R377, R378. -/
def execPack (g : Guard) (d : VReg) (a b : VSrc) (c : Option VSrc) (s : State) : Out :=
  perLane 0x53 (.pack g d a b c) g (mapLanes false d fun p l =>
    let x := (p.src32 l a).toNat
    let y := (p.src32 l b).toNat
    match c with
    | none => x % 2 ^ 16 + y % 2 ^ 16 * 2 ^ 16
    | some c => x % 2 ^ 8 + y % 2 ^ 8 * 2 ^ 8 + (p.src32 l c).toNat % 2 ^ 16 * 2 ^ 16) s

def execUnpack (g : Guard) (byte sx : Bool) (e : Fin 4) (d : VReg) (a : VSrc) (s : State) : Out :=
  perLane 0x53 (.unpack g byte sx e d a) g (mapLanes false d fun p l =>
    let w := if byte then 8 else 16
    let f := elem w e.val (p.src32 l a).toNat
    if sx then wrap 32 (sext w f) else f) s

/-- The eight values of an index under a scale (22 R374): exact in F32 and BF16, so no flag. -/
def lxValues (f : Fmt) (idx : Nat) (sg : FVal) : List Nat :=
  (lx2Weights idx).map fun w => (f.ofVal (.std .rne) (scaledElem w sg)).1

/-- 22 R373, R374. -/
def execLxdec (g : Guard) (sc : Option (VSrc × Fin 4)) (bf : Bool) (d : VReg) (a : VSrc) (s : State) : Out :=
  perLane 0x54 (.lxdec g sc bf d a) g (fun act s =>
    let vals := fun l =>
      let sg := match sc with
        | none => FVal.fin false 1 0
        | some (b, n) => E5M3.val (elem 8 n.val (s.grp.src32 l b).toNat)
      lxValues (if bf then BF16 else F32) (s.grp.src32 l a).toNat sg
    let word := fun l k => if bf then (vals l).getD (2 * k) 0 + (vals l).getD (2 * k + 1) 0 * 2 ^ 16 else (vals l).getD k 0
    { s with grp := (lanesOf act).foldl (fun g l =>
        (List.range (if bf then 4 else 8)).foldl (fun g k => g.setV (d.val + k) l (BitVec.ofNat 32 (word l k))) g) s.grp }) s

end Sys2Proof.Machine
end

