-- ==== Sys2Proof/Machine/Mem.lean ====
section
/-! DEFINITION. Machine/Mem.lean: loads, stores, prefetch, FENCE and RESIZE, opcodes 0x70 to 0x77 (22 R370 to R372, R382; 23 R410,
R411, R418 to R420; 08 R159, R160, R169 to R171; 13 R223 to R235), and the events that complete them. -/

namespace Sys2Proof.Machine

/-! ## Page faults of an instruction in hand -/

/-- What a lane access finds: a line that answers a machine-check. -/
def State.badLane (s : State) (as : List LaneAcc) : Option LaneAcc := as.find? fun a => s.bad a.key

/-- The instruction has issued in the lanes that translated; the others are unfinished (17 R268, R269). -/
def State.issueOrPark (opc : Nat) (wr : Bool) (act : W32) (r : Nat) (ps : List PageFault) (s : State) : State :=
  match ps with
  | [] => s.finish act
  | _ =>
    let unf := ps.foldl (fun m p => m ||| p.lanes) 0
    (s.tally act).park opc wr unf (some (unf, r)) ps

/-! ## Loads -/

/-- A load has issued: its pending operation for the lanes `as`; with none it is complete. -/
def State.postLoad (opc : Nat) (la : Fin 16) (i : Instr) (w : Nat) (sx home : Bool) (acq : Option Scope) (dst : LoadDst)
    (as : List LaneAcc) (r : Nat) (nud : BitVec 8) (s : State) : State :=
  match as with
  | [] => s
  | _ => s.post { Pend.new opc (.load as w sx home acq dst) with
      count := some .loads, window := true, left := la.val + 1, reads := (Instr.uses i).allReads, writes := (Instr.uses i).allWrites,
      stamp := r, nud := nud.toNat }

/-- Issue of a load whose lanes have these addresses (R371, R411). -/
def loadIssue (opc : Nat) (la : Fin 16) (i : Instr) (w : Nat) (sx : Bool) (sp : Space) (acq : Bool) (sc : Scope) (dst : LoadDst)
    (nud : BitVec 8) (act : W32) (ls : List (Nat × Nat)) (s : State) : State :=
  match s.memTrap sp w ls with
  | some t => s.takeFault opc t
  | none =>
    let s1 := (s.addL (unitCount sp w (ls.map (·.2)))).advanceClock
    let r := s1.stamp
    let acqS := if acq then some (scopeIn sp sc) else none
    if sp = .glob then
      let home := acq || decide (2 ≤ sc.rank)
      let xs := s1.lanesX .r (!home) ls
      let as := laneAccs xs
      match s1.badLane as with
      | some a => s.takeFault opc (machineCheck 2 a.key)
      | none => (((s1.translated false as).postLoad opc la i w sx home acqS dst as r nud).issueOrPark opc false act r (pageFaults ls xs))
    else (s1.postLoad opc la i w sx false acqS dst (localAccs sp ls) r nud).finish act

/-- A load with shared lanes waits for the earlier pieces (06 R133). -/
def State.loadWaits (s : State) (sp : Space) (ls : List (Nat × Nat)) : Bool := sp == .glob && s.sharedWait ls

/-- Issue of a load: alignment and bounds are checked before it waits. -/
def loadStep (opc : Nat) (la : Fin 16) (i : Instr) (w : Nat) (sx : Bool) (sp : Space) (acq : Bool) (sc : Scope) (dst : LoadDst)
    (nud : BitVec 8) (act : W32) (ls : List (Nat × Nat)) (s : State) : State :=
  if (s.memTrap sp w ls).isNone && s.loadWaits sp ls then s else loadIssue opc la i w sx sp acq sc dst nud act ls s

/-- 22 R371. -/
def execLd (g : Guard) (la : Fin 16) (w : Width) (sx : Bool) (sp : Space) (acq : Bool) (sc : Scope) (d av : VReg) (as : SLow)
    (nud : BitVec 8) (s : State) : Out :=
  let i := Instr.ld g la w sx sp acq sc d av as nud
  let ls := s.grp.laneAddrs sp as av (s.lanes g)
  if s.holds i then .next (s.stay 0x70 i)
  else if g.isNever then .next (s.finish 0)
  else match s.grp.bounds i with
    | some t => .next (s.takeFault 0x70 t)
    | none =>
      .next (loadStep 0x70 la i w.bytes sx sp acq sc (.v d) nud (s.lanes g) ls s)

/-- 23 R411. -/
def execSld (la : Fin 16) (w : Width) (sx : Bool) (sp : Space) (acq : Bool) (sc : Scope) (d as : SReg) (nud : BitVec 8)
    (off : Fin 128) (s : State) : Out :=
  let i := Instr.sld la w sx sp acq sc d as nud off
  let ls := [(0, s.grp.scalarAddr as off.val w.bytes)]
  if s.holds i then .next (s.stay 0x72 i)
  else match s.grp.bounds i with
    | some t => .next (s.takeFault 0x72 t)
    | none =>
      .next (loadStep 0x72 la i w.bytes sx sp acq sc (.s d) nud s.grp.xm ls s)

/-! ## Binding a load (13 R225, R227, R228, R231) -/

/-- An earlier load of the group has not bound a byte that this lane reads (13 R225). -/
def Group.loadBehind (g : Group) (seq : Nat) (a : LaneAcc) (w : Nat) : Bool :=
  g.pend.any fun p => decide (p.seq < seq) && p.loads a.lane a.key w

/-- A write of the core to the line, earlier than `seq`, has not performed at the home (13 R227). -/
def PKind.writesLine (k : PKind) (line : Nat) : Bool :=
  match k with
  | .store _ ls => ls.any fun x => x.1.key / 128 == line
  | .copy toGlobal _ _ _ _ _ xs => toGlobal && xs.any fun x => x.1.key / 128 == line
  | .stch _ _ _ _ ls => ls.any fun x => x.1.key / 128 == line
  | .mdrain _ _ _ ls _ => ls.any fun x => x.1.key / 128 == line
  | _ => false

def State.writeBefore (s : State) (seq line : Nat) : Bool :=
  s.coreGroups.any fun g => g.pend.any fun p => decide (p.seq < seq) && p.kind.writesLine line

/-- The L1 line that serves a lane: a plain load at group or team scope, not shared, of a line filled since the last acquire before it
(R228). -/
def State.hitLine? (s : State) (p : Pend) (home : Bool) (a : LaneAcc) : Option L1Line :=
  if home || s.team.isShared a.va then none
  else match s.core.l1Find? s.team.ctx (a.va / 128) with
    | some x => if p.know.epoch ≤ x.epoch then some x else none
    | none => none

def State.canBind (s : State) (p : Pend) (w : Nat) (home : Bool) (a : LaneAcc) : Bool :=
  !s.grp.loadBehind p.seq a w &&
  (keySpace a.key != .glob || (s.hitLine? p home a).isSome ||
    (!s.writeBefore p.seq (a.key / 128) && s.served a.key))

/-- The L1 line that serves a lane-private line: at team scope, to which such an access comes down (R226, R228). -/
def State.privHit? (s : State) (p : Pend) (line : Nat) : Option L1Line :=
  match s.core.l1Find? s.team.ctx (s.grp.privTag line) with
  | some x => if p.know.epoch ≤ x.epoch then some x else none
  | none => none

/-- A byte of a lane-private region (08 R147, R152): of the L1 line that serves it, or of memory. -/
def State.privByte (s : State) (p : Pend) (lane off : Nat) : Byte :=
  match s.privHit? p (off / 4) with
  | some x => x.data.getD (placed lane off % 128) 0
  | none => s.localByte .priv lane off

/-- The line is brought: it is the latest used in L1, or comes through L1 from its home. -/
def State.privRead (p : Pend) (line : Nat) (s : State) : State :=
  if (s.privHit? p line).isSome then s.onCore (Core.l1Touch s.team.ctx (s.grp.privTag line))
  else (s.l1Fill s.team.ctx (s.grp.privAcc line) (decide (p.nud ≠ 0))).requests p.stamp p.gcnt (some p.nud) false [s.grp.privAcc line]

/-- The homes of the lines that a lane-private store writes are asked. -/
def State.privAsk (r : Nat) (nud : BitVec 8) (w : Nat) (ls : List (Nat × Nat)) (s : State) : State :=
  (uniq (ls.flatMap fun x => privLines x.2 w)).foldl (fun s l => s.requests r s.team.gcnt (some nud.toNat) true [s.grp.privAcc l]) s

/-- What a load that misses L1 reads, or a copy (R227): memory under the queued stores of the team, which have performed for it; over the
shared bytes what is held and happens before it (06 R133). -/
def State.seenBy (s : State) (k : Know) (va : Nat) : Memory :=
  if s.team.isShared va then s.overlay k s.teamView else s.teamView

/-- The bytes of one lane, and the state after: the L1 touched or filled, the home asked. -/
def State.bindLane (p : Pend) (w : Nat) (home : Bool) (a : LaneAcc) (s : State) : List Byte × State :=
  match keySpace a.key with
  | .glob =>
    match s.hitLine? p home a with
    | some x => ((x.data.drop (a.key % 128)).take w, s.onCore (Core.l1Touch s.team.ctx x.vline))
    | none =>
      ((s.seenBy p.know a.va).bytes a.key w,
       (s.l1Fill s.team.ctx a (decide (a.leaf.cp ≠ 3) && decide (p.nud ≠ 0))).requests p.stamp p.gcnt (some p.nud) false [a])
  | .priv => ((List.range w).map fun i => s.privByte p a.lane (a.va + i), (privLines a.va w).foldl (fun s l => s.privRead p l) s)
  | sp => (s.localBytes sp a.lane a.va w, s)

/-- Put a lane's value where it goes (R371, R411). -/
def Group.loaded (dst : LoadDst) (w : Nat) (sx : Bool) (lane : Nat) (bs : List Byte) (g : Group) : Group :=
  let x := leNat bs
  match dst with
  | .s d => g.setS d.val (if sx then BitVec.ofInt 64 (sext (8 * w) x) else BitVec.ofNat 64 x)
  | .v d =>
    if w ≤ 2 then g.setV d.val lane (if sx then BitVec.ofInt 32 (sext (8 * w) x) else BitVec.ofNat 32 x)
    else (List.range (w / 4)).foldl (fun g i => g.setV (d.val + i) lane (BitVec.ofNat 32 (x / 2 ^ (32 * i)))) g

/-- MLDB: each four bytes to their register lane (10 R202); a lane without a column takes zero. -/
def State.loadParts (s : State) (parts : List (Nat × List Nat)) : Group :=
  parts.foldl (fun g x =>
    { g with v := mapSet 0 g.v x.1 (BitVec.ofNat 32 (leNat (x.2.map fun k => s.localByte (keySpace k) 0 (k - bufBase (keySpace k))))) })
    s.grp

/-- Lanes of a load bind, lowest first. A line that has come to answer a machine-check since the issue gives what it stores: the load met none
(17 R268; log entry 68). -/
def State.bindLanes (p : Pend) (w : Nat) (sx home : Bool) (dst : LoadDst) (as : List LaneAcc) (s : State) : State :=
  as.foldl (fun s a =>
    let r := s.bindLane p w home a
    r.2.onGrp (Group.loaded dst w sx a.lane r.1)) s

/-- The lanes of a load that bind together: the D-buffer takes a drain's tile as one update (10 R204), and a load from an unreachable peer has no
effect (17 R268). -/
def bindWhole (as : List LaneAcc) : Bool := as.any fun a => keySpace a.key == .d || isPeer a.key
def bindMask (as : List LaneAcc) (lanes : W32) : W32 := if bindWhole as then 0xFFFFFFFF#32 else lanes

/-- What the value that a lane reads hands on (R230): by its L1 line, by the queued stores of the team and memory, or by its buffer. -/
def State.laneHand (s : State) (p : Pend) (w : Nat) (home : Bool) (a : LaneAcc) : Hand :=
  match keySpace a.key with
  | .glob => handsOf s.team.ident a.key w (match s.hitLine? p home a with
      | some x => x.rels
      | none => s.relsOf s.teamGroups)
  | _ => handsOf s.team.ident a.key w s.team.rels

def State.readHands (s : State) (p : Pend) (w : Nat) (home : Bool) (as : List LaneAcc) : Hand :=
  as.foldl (fun h a => h.join (s.laneHand p w home a)) {}

/-- An earlier load of the group has not bound a byte that an MLDB reads (13 R225, R229). -/
def Group.partsBehind (g : Group) (seq : Nat) (parts : List (Nat × List Nat)) : Bool :=
  g.pend.any fun p => decide (p.seq < seq) && parts.any fun x => x.2.any fun k => p.loads 0 k 1

/-- What the values that an MLDB reads from a buffer hand on (13 R230). -/
def State.partHands (s : State) (parts : List (Nat × List Nat)) : Hand :=
  (s.team.rels.filter fun r => parts.any fun x => x.2.any fun k => decide (r.lo ≤ k) && decide (k < r.lo + r.n)).foldl
    (fun h r => h.join (r.what.hand_ s.team.ident)) {}

/-- LOAD_COMPLETE: the lanes of the mask that may bind now do; with the last of them the load completes, and an acquire has
performed. -/
def execLoadComplete (core slot gid seq : Nat) (lanes : W32) (s : State) : Out :=
  .next <| s.withFocus core slot gid fun s =>
    match s.grp.findPend? seq with
    | none => s
    | some p =>
      match p.kind with
      | .load as w sx home acq dst =>
        let may := fun a : LaneAcc => (bindMask as lanes).getLsbD a.lane && s.canBind p w home a
        let now := if bindWhole as && !as.all may then [] else as.filter may
        let rest := as.filter fun a => !now.contains a
        let got := p.got.join (s.readHands p w home now)
        let s1 := s.bindLanes p w sx home dst now
        if rest.isEmpty then
          let s2 := s1.onGrp fun g => g.dropPend seq
          match acq with
          | some sc => s2.acquireMem seq sc got
          | none => s2.onGrp fun g => { g with readKnow := g.readKnow.join got }
        else s1.onGrp fun g => g.updPend seq fun p => { p with got := got, kind := .load rest w sx home acq dst }
      | .mldb parts =>
        if s.grp.partsBehind seq parts then s
        else { s with grp := { (s.loadParts parts).dropPend seq with readKnow := s.grp.readKnow.join (p.got.join (s.partHands parts)) } }
      | _ => s

/-! ## Stores -/

/-- The bytes that a lane stores (R419): its registers, lowest address first. -/
def Group.storeBytes (g : Group) (d : VReg) (w l : Nat) : List Byte :=
  if w ≤ 4 then leBytes w (g.V d.val l).toNat
  else (List.range (w / 4)).flatMap fun i => leBytes 4 (g.V (d.val + i) l).toNat

/-- Cells of stored bytes. -/
def accCells (x : LaneAcc × List Byte) : List Host.Cell := x.2.mapIdx fun i b => (x.1.key + i, b)

/-- Cells of lane-private bytes. -/
def Group.privCells (g : Group) (ls : List (Nat × Nat)) (data : Nat → List Byte) : List Host.Cell :=
  ls.flatMap fun x => (data x.1).mapIdx fun i b => (g.privKey x.1 (x.2 + i), b)

/-- The lanes' bytes in memory have the value of this store. -/
def State.storeHands (w : Option Release) (xs : List (LaneAcc × List Byte)) (s : State) : State :=
  { s with rels := xs.foldl (fun rs x => writeRels w x.1.key x.2.length rs) s.rels }

/-- Issue of a store: lanes, addresses, bytes (R419, R411). -/
def storeIssue (opc : Nat) (w : Nat) (sp : Space) (rel : Bool) (sc : Scope) (nud : BitVec 8) (act : W32)
    (ls : List (Nat × Nat)) (data : Nat → List Byte) (s : State) : State :=
  match s.memTrap sp w ls with
  | some t => s.takeFault opc t
  | none =>
    let s1 := (s.addL (unitCount sp w (ls.map (·.2)))).advanceClock
    let r := s1.stamp
    if sp = .glob then
      let xs := s1.lanesX .w true ls
      let as := laneAccs xs
      match s1.badLane as with
      | some a => s.takeFault opc (machineCheck 2 a.key)
      | none =>
        let k := s.storeRel rel sc true
        let runs := if rel then as.map fun a => (a.key, w) else []
        let s2 := ((s1.translated true as).onCore (Core.l1Dirty s1.team.ctx (as.map fun a => a.va / 128))).onGrp (Group.ownRelease k runs)
        let all := as.map fun a => (a, data a.lane)
        let held := all.filter fun x => s.team.isShared x.1.va && !s.team.through
        let sent := all.filter fun x => !(s.team.isShared x.1.va && !s.team.through)
        let s3 := if held.isEmpty then s2
          else s2.hold opc (uniq (held.map fun x => x.1.key / 128)).length none k (held.map fun x => (x.1, .bytes (accCells x)))
        let s4 := if sent.isEmpty then s3
          else (s3.onCore (Core.l1Write k (sent.flatMap accCells))).post { Pend.new opc (.store sc sent) with
            count := if 2 ≤ sc.rank then some .stores else none, stamp := r, nud := nud.toNat, rel := k }
        s4.issueOrPark opc true act r (pageFaults ls xs)
    else
      let k := s.storeRel rel (scopeIn sp sc) false
      let runs := if rel && sp != .priv then ls.map fun x => (bufBase sp + x.2, w) else []
      let s2 := (if sp = .priv then s1.privAsk r nud w ls else s1).onGrp (Group.ownRelease k runs)
      let s3 := ls.foldl (fun s x => s.putLocals k sp x.1 x.2 (data x.1)) s2
      (if sp = .priv then s3.onCore (Core.l1Write none (s.grp.privCells ls data)) else s3).finish act

/-- A read and write of the line at its home is on its way for the team: a stitch, or a line of an add-on-store drain. -/
def PKind.stitches (k : PKind) (line : Nat) : Bool :=
  match k with
  | .stch _ _ _ _ ls => ls.any fun x => x.1.key / 128 == line
  | .mdrain _ true _ ls _ => ls.any fun x => x.1.key / 128 == line
  | _ => false

/-- A store that issued now would have performed for the team before it (13 R227; log entry 9). -/
def State.stitchBefore (s : State) (line : Nat) : Bool := s.teamGroups.any fun g => g.pend.any fun p => p.kind.stitches line

/-- A store waits at issue as a release (R419), as a write after a FENCE at device scope or wider for what happens before it (13 R231),
while a load of the group has yet to read a byte of it or a stitch of the team its line (log entry 9), or while the commit area lacks
room (06 R135). -/
def State.storeWaits (s : State) (w : Nat) (sp : Space) (rel : Bool) (sc : Scope) (ls : List (Nat × Nat)) : Bool :=
  (rel && !s.releaseReady (scopeIn sp sc)) ||
  (if sp = .glob then
     let as := s.peek .w ls
     (s.grp.fenceDev.isSome && s.othersQueued) ||
     as.any (fun a => s.grp.loadsBefore a.lane a.key w || s.stitchBefore (a.key / 128)) ||
     s.overflows (uniq ((as.filter fun a => s.team.isShared a.va).map fun a => a.key / 128)).length
   else ls.any fun x => s.grp.loadsBefore x.1 (bufBase sp + x.2) w)

/-- Issue of a store: alignment and bounds are checked before it waits (R411, R419). -/
def storeStep (opc : Nat) (w : Nat) (sp : Space) (rel : Bool) (sc : Scope) (nud : BitVec 8) (act : W32) (ls : List (Nat × Nat))
    (data : Nat → List Byte) (s : State) : State :=
  if (s.memTrap sp w ls).isNone && s.storeWaits w sp rel sc ls then s else storeIssue opc w sp rel sc nud act ls data s

/-- 23 R419. -/
def execSt (g : Guard) (w : Width) (sp : Space) (rel : Bool) (sc : Scope) (d av : VReg) (as : SLow) (nud : BitVec 8) (s : State) :
    Out :=
  let i := Instr.st g w sp rel sc d av as nud
  let ls := s.grp.laneAddrs sp as av (s.lanes g)
  if s.holds i then .next (s.stay 0x71 i)
  else if g.isNever then .next (s.finish 0)
  else match s.grp.bounds i with
    | some t => .next (s.takeFault 0x71 t)
    | none =>
      .next (storeStep 0x71 w.bytes sp rel sc nud (s.lanes g) ls (s.grp.storeBytes d w.bytes) s)

/-- 23 R411. -/
def execSst (w : Width) (sp : Space) (rel : Bool) (sc : Scope) (d as : SReg) (nud : BitVec 8) (off : Fin 128) (s : State) : Out :=
  let i := Instr.sst w sp rel sc d as nud off
  let ls := [(0, s.grp.scalarAddr as off.val w.bytes)]
  if s.holds i then .next (s.stay 0x73 i)
  else match s.grp.bounds i with
    | some t => .next (s.takeFault 0x73 t)
    | none =>
      .next (storeStep 0x73 w.bytes sp rel sc nud s.grp.xm ls (fun _ => leBytes w.bytes (s.grp.S d.val).toNat) s)

/-- A lane of a store may perform at the home: behind the core's earlier writes to its line (13 R227), where no stitch holds the line, and
not before a lane of lower number that writes a byte of its own, so that the highest gives the byte's value (R223). -/
def State.laneMay (s : State) (seq : Nat) (lanes : W32) (ls : List (LaneAcc × List Byte)) (x : LaneAcc × List Byte) : Bool :=
  lanes.getLsbD x.1.lane && !s.writeBefore seq (x.1.key / 128) && s.served x.1.key &&
  ls.all fun y => decide (x.1.lane ≤ y.1.lane) || decide (y.1.key + y.2.length ≤ x.1.key) || decide (x.1.key + x.2.length ≤ y.1.key) ||
    lanes.getLsbD y.1.lane

/-- The lanes of a store that perform now: those of the mask that may; where one is at a peer all of them or none, since a store to an unreachable
peer has no effect (17 R268). -/
def State.lanesNow (s : State) (seq : Nat) (lanes : W32) (ls : List (LaneAcc × List Byte)) : List (LaneAcc × List Byte) :=
  let whole := ls.any fun x => isPeer x.1.key
  let may := s.laneMay seq (if whole then 0xFFFFFFFF#32 else lanes) ls
  if whole && !ls.all may then [] else ls.filter may

/-- STORE_PERFORMED: the lanes that may perform at the home do; with the last of them the store leaves its count. -/
def execStorePerformed (core slot gid seq : Nat) (lanes : W32) (s : State) : Out :=
  .next <| (s.withFocus core slot gid fun s =>
    match s.grp.findPend? seq with
    | none => s
    | some p =>
      match p.kind with
      | .store sc ls =>
        let now := s.lanesNow seq lanes ls
        let rest := ls.filter fun x => !now.contains x
        let s1 := ((s.requests p.stamp p.gcnt (some p.nud) true (now.map (·.1))).writeMem (now.flatMap accCells)).storeHands p.rel now
        if rest.isEmpty then s1.onGrp fun g => g.dropPend seq
        else s1.onGrp fun g => g.updPend seq fun p => { p with kind := .store sc rest }
      | _ => s).reap

/-- ARITH_COMPLETE: the result registers and flags are written (03 Table 3-2, 21 Table 21-2). -/
def execArithComplete (core slot gid seq : Nat) (s : State) : Out :=
  .next <| s.withFocus core slot gid fun s =>
    match s.grp.findPend? seq with
    | none => s
    | some p =>
      match p.kind with
      | .arith res => s.onGrp fun g => (g.apply res).dropPend seq
      | _ => s

/-! ## PFCH (08 R168 to R171) -/

/-- A lane's page lets a prefetch through (R170). -/
def State.prefetchX (s : State) (x : Nat × Nat) : Option LaneAcc :=
  match s.laneX s.cluster s.team.ctx .r x.1 x.2 with
  | .ok a => if a.leaf.mig then none else some a
  | .fault _ _ _ => none

def execPfch (g : Guard) (la : Fin 16) (w : Width) (sc : Scope) (av : VReg) (as : SLow) (nud : BitVec 8) (s : State) : Out :=
  let i := Instr.pfch g la w sc av as nud
  let ls := s.grp.laneAddrs .glob as av (s.lanes g)
  if s.holds i then .next (s.stay 0x75 i)
  else if g.isNever then .next (s.finish 0)
  else match s.grp.bounds i with
    | some t => .next (s.takeFault 0x75 t)
    | none =>
      match laneTrap 10 .glob (fun a => a % w.bytes ≠ 0) ls with
      | some t => .next (s.takeFault 0x75 t)
      | none =>
        let s1 := (s.addL (unitCount .glob w.bytes (ls.map (·.2)))).advanceClock
        let ok := ls.filterMap s1.prefetchX
        let s2 := s1.requests s1.stamp s1.team.gcnt (some nud.toNat) false ok
        let s3 := if ok.length = ls.length then s2 else s2.onCell s2.cellId fun c => { c with dropped := c.dropped + 1 }
        let s4 := s3.onGrp fun g => { g with gap := if ls.isEmpty then g.gap else .inHand }
        .next (s4.finish (s.lanes g))

/-! ## FENCE (13 R235) -/

/-- What FENCE still waits for of its own group. -/
def Group.fenceWaits (g : Group) (sc : Scope) (ld st eng : Bool) : Bool :=
  g.pend.any fun p => !p.carried && match p.kind with
    | .load _ _ _ _ _ _ => ld
    | .mldb _ => ld
    | .store _ _ => st && decide (2 ≤ sc.rank)
    | .copy _ _ _ _ _ _ _ => eng
    | .stch _ _ _ _ _ => eng
    | .mma _ => eng
    | .mdrain _ _ _ _ _ => eng
    | .arith _ => false
    | .arrive _ _ _ => false

/-- A FENCE with kind stores at device scope or wider waits, as the release that it makes of a later write, for the stores of others that
happen before it too (R231). -/
def State.fenceWaits (s : State) (sc : Scope) (ld st eng : Bool) : Bool :=
  s.grp.fenceWaits sc ld st eng || (st && decide (2 ≤ sc.rank) && s.othersQueued)

def execFence (sc : Scope) (ld st eng : Bool) (s : State) : Out :=
  if s.fenceWaits sc ld st eng then .next (if s.holds (.fence sc ld st eng) then s.stay 0x76 (.fence sc ld st eng) else s)
  else onceOp 0x76 (.fence sc ld st eng) (fun s =>
    let s := if eng then s.joinThreads [.copies, .matrix] else s
    let m : FenceMark := { held := s.team.heldCount s.grp.gid, upto := s.core.seq }
    let s := if st then s.onGrp fun g => { g with fenceTeam := if 1 ≤ sc.rank then some m else g.fenceTeam,
                                                  fenceDev := if 2 ≤ sc.rank then some m else g.fenceDev,
                                                  fork := g.fork.join (s.known s.core.seq) } else s
    if ld then s.acquireMem s.core.seq sc s.grp.readKnow else s) s

/-! ## RESIZE (08 R159, R160) -/

/-- The outcome that RESIZE decides: DENIED, NORES, or a new size. -/
inductive Resize
  | denied | nores
  | to (t : Nat)
  deriving DecidableEq, Repr

def State.resizeTo (s : State) (t : Nat) : Resize :=
  if !s.team.body.excl then .denied
  else if t < Nat.max s.team.agBase s.team.body.ag ∨ s.team.agBase + 12 < t then .nores
  else .to t

/-- L1 fills outstanding, and accesses to the A-buffer from the offset that changes on, of every group of the team. A member of a gang
that waits at the latch has issued nothing: what its MMA then reads beyond the new end is 0 (log entry 65). -/
def State.resizeWaits (s : State) (t : Nat) : Bool :=
  let low := 16384 * Nat.min t s.team.aNow
  s.teamGroups.any fun g => g.pend.any fun p => match p.kind with
    | .load as w _ _ _ _ => as.any fun a => keySpace a.key == .glob || keySpace a.key == .priv || (keySpace a.key == .a && decide (low < a.va + w))
    | .mldb parts => parts.any fun x => x.2.any fun k => keySpace k == .a && decide (low ≤ k - bufBase .a)
    | .copy _ w b _ _ _ as => b == .a && as.any fun x => decide (low < x.2 + w)
    | _ => false

/-- Bytes of a buffer below a size. -/
def trim (n : Nat) (m : Map Byte) : Map Byte := m.filter fun c => decide (c.1 < n)

def State.resizeDo (d : SReg) (t : Nat) (s : State) : State :=
  let now := s.team.aNow
  let ways := 16 - (t - s.team.agBase)
  let s := if t = now then s
    else if now < t then s.onCore fun c => { c with lines := c.lines.filter fun x => decide (x.way < ways), l1w := ways }
    else (s.onCore fun c => { c with l1w := ways }).onTeam fun x => { x with abuf := trim (16384 * t) x.abuf }
  (s.onTeam fun x => { x with aNow := t }).onGrp fun g => (g.setS d.val (BitVec.ofNat 64 t)).setStat 0x77 0

def execResize (d a : SReg) (s : State) : Out :=
  let out := s.resizeTo (s.grp.S a.val).toNat
  let wait := match out with | .to t => s.resizeWaits t | _ => false
  if wait && (s.grp.bounds (.resize d a)).isNone then
    .next (if s.holds (.resize d a) then s.stay 0x77 (.resize d a) else s.onGrp fun g => { g with resizing := true })
  else onceOp 0x77 (.resize d a) (fun s =>
    let s := s.onGrp fun g => { g with resizing := false }
    let keep := fun (code : Nat) => s.onGrp fun g => (g.setS d.val (BitVec.ofNat 64 s.team.aNow)).setStat 0x77 code
    match out with
    | .denied => keep 1
    | .nores => keep 7
    | .to t => s.resizeDo d t) s

end Sys2Proof.Machine
end

