-- ==== Sys2Proof/Machine/Sync.lean ====
section
/-! DEFINITION. Machine/Sync.lean: named barriers (20 R298 to R308) and stage rings (22 R390 to R396), opcodes 0x83 to 0x8C. -/

namespace Sys2Proof.Machine

/-! ## Barriers -/

/-- A group waits on a barrier: in BARWAIT, BARSYNC or YIELD (Table 20-1). -/
def Group.waitsOn (g : Group) (b : BReg) : Bool :=
  match g.susp with
  | .bar c _ _ => c == b
  | .sync c => c == b
  | .yield c _ _ => c == b
  | _ => false

def State.waiters (s : State) (b : BReg) : Nat := s.teamGroups.countP fun g => g.waitsOn b

/-- PEND: copies of the team that name the barrier, have not arrived and are not discarded. -/
def State.copiesDue (s : State) (b : BReg) : Nat :=
  (s.teamGroups.map fun g => g.pend.countP fun p => match p.kind with
    | .copy _ _ _ (some c) false _ _ => c == b
    | _ => false).foldl (· + ·) 0

/-- A waiter goes on with a status: an OK release acquires what the phases hand on (13 Table 13-3). -/
def Group.released (code : Nat) (k : Know) (g : Group) : Group :=
  let g := if code = stOK then g.learn k else g
  match g.susp with
  | .bar _ _ opc => { g.setStat opc code with susp := .ready }.step
  | .sync _ => { g.setStat 0x86 code with susp := .ready }.step
  | .yield _ _ t => { g.setStat 0x07 code with susp := .ready }.goto t
  | _ => g

/-- The awaited phase of a waiter that a completion can release. -/
def Group.awaits (g : Group) (b : BReg) : Option W32 :=
  match g.susp with
  | .bar c p _ => if c = b then some p else none
  | .yield c p _ => if c = b then some p else none
  | _ => none

/-- One arrival (R299); `k` is what it releases. -/
def State.arrive (b : BReg) (k : Know) (s : State) : State :=
  let x := s.team.bar b
  if !x.init then s
  else
    let cur := x.cur.join k
    if x.arr + 1 = x.exp then
      let x' := { x with arr := 0, ph := x.ph + 1, cur := cur, done := x.done.join cur }
      (s.onTeam fun t => t.setBar b x').mapTeamGroups fun g =>
        match g.awaits b with
        | some p => if p ≠ x'.ph then g.released stOK x'.done else g
        | none => g
    else s.onTeam fun t => t.setBar b { x with arr := x.arr + 1, cur := cur }

/-- R304. -/
def execBarinit (b : BReg) (a : SReg) (s : State) : Out :=
  onceOp 0x83 (.barinit b a) (fun s =>
    let n := (s.grp.S a.val).toNat
    let x := s.team.bar b
    if s.waiters b ≠ 0 ∨ s.copiesDue b ≠ 0 then s.onGrp (Group.setStat 0x83 stBUSY)
    else if n = 0 ∨ 65535 < n then s.onGrp (Group.setStat 0x83 stNORES)
    else (s.onTeam fun t => t.setBar b { init := true, exp := n, arr := 0, ph := x.ph }).onGrp (Group.setStat 0x83 stOK)) s

/-- A BARARR has issued: its arrival comes later (R303). -/
def postArrival (b : BReg) (tok : Option SReg) (s : State) : State :=
  s.post { Pend.new 0x84 (.arrive b tok (s.known s.core.seq)) with
    writes := kLstat :: (match tok with | some d => [kS d.val] | none => []) }

def execBararr (b : BReg) (s : State) : Out := onceOp 0x84 (.bararr b) (postArrival b none) s

def execBararrToken (b : BReg) (d : SReg) (s : State) : Out := onceOp 0x84 (.bararrToken b d) (postArrival b (some d)) s

/-- An arrival comes to the team of a group, which is unparked before it (16 R261); it waits where that cannot be yet. -/
def arriving (core slot gid : Nat) (f : State → State) (s : State) : State :=
  s.withFocus core slot gid fun s =>
    match s.unparked? with
    | some s1 => f s1
    | none => s

/-- BARARR_ARRIVAL (R303): once every access ordered before it has performed at team scope, and earlier arrivals of the group have
taken place. -/
def execBararrArrival (core slot gid seq : Nat) (s : State) : Out :=
  .next <| s |> arriving core slot gid fun s =>
    match s.grp.findPend? seq with
    | none => s
    | some p =>
      match p.kind with
      | .arrive b tok k =>
        let earlier := s.grp.pend.any fun q => decide (q.seq < seq) && match q.kind with | .arrive _ _ _ => true | _ => false
        if !s.grp.releaseReadyAt seq .team || earlier then s
        else
          let s1 := s.onGrp fun g => g.dropPend seq
          let x := s1.team.bar b
          if !x.init then s1.onGrp (Group.setStat 0x84 stNOTINIT)
          else
            let s2 := match tok with
              | some d => s1.onGrp fun g => g.setS d.val (x.ph.setWidth 64)
              | none => s1
            (s2.arrive b k).onGrp (Group.setStat 0x84 stOK)
      | _ => s

/-- Complete a waiting instruction at once, or wait for a phase. -/
def waitPhase (b : BReg) (p : W32) (s : State) : State :=
  let x := s.team.bar b
  if !x.init then (s.onGrp (Group.setStat 0x85 stNOTINIT)).finish s.grp.xm
  else if x.ph ≠ p then (s.onGrp fun g => (g.learn x.done).setStat 0x85 stOK).finish s.grp.xm
  else (s.tally s.grp.xm).onGrp fun g => { g with susp := .bar b p 0x85 }

/-- An instruction of the group that may leave it waiting: `body` issues it. -/
def waitOp (opc : Nat) (i : Instr) (body : State → State) (s : State) : Out :=
  if s.holds i then .next (s.stay opc i)
  else match s.grp.bounds i with
    | some t => .next (s.takeFault opc t)
    | none => .next (body s)

/-- R308. -/
def execBarwait (b : BReg) (s : State) : Out := waitOp 0x85 (.barwait b) (fun s => waitPhase b (s.team.bar b).ph s) s

def execBarwaitPhase (b : BReg) (a : SReg) (s : State) : Out :=
  waitOp 0x85 (.barwaitPhase b a) (fun s => waitPhase b ((s.grp.S a.val).setWidth 32) s) s

/-- R307: the group becomes a waiter; its arrival comes later. -/
def execBarsync (b : BReg) (s : State) : Out :=
  waitOp 0x86 (.barsync b) (fun s =>
    if !(s.team.bar b).init then (s.onGrp (Group.setStat 0x86 stNOTINIT)).finish s.grp.xm
    else (s.tally s.grp.xm).onGrp fun g => { g with susp := .sync b }) s

/-- BARSYNC_ARRIVAL (R307). -/
def execBarsyncArrival (core slot gid : Nat) (s : State) : Out :=
  .next <| s |> arriving core slot gid fun s =>
    match s.grp.susp with
    | .sync b =>
      if !s.releaseReady .team then s
      else
        let p := (s.team.bar b).ph
        let s1 := s.arrive b (s.known s.core.seq)
        let x := s1.team.bar b
        s1.onGrp fun g => if x.ph ≠ p then g.released stOK x.done else { g with susp := .bar b p 0x86 }
    | _ => s

/-- The arrivals of the team's pending copies on a barrier are discarded (R305). -/
def Group.discard (b : BReg) (g : Group) : Group :=
  { g with pend := g.pend.map fun p => match p.kind with
      | .copy d w f (some c) _ k as => if c = b then { p with kind := .copy d w f (some c) true k as } else p
      | _ => p }

/-- R305. -/
def execBarkill (b : BReg) (s : State) : Out :=
  onceOp 0x87 (.barkill b) (fun s =>
    let x := s.team.bar b
    if !x.init && s.waiters b == 0 && s.copiesDue b == 0 then s.onGrp (Group.setStat 0x87 stNOTINIT)
    else
      let s1 := s.mapTeamGroups fun g => (if g.waitsOn b then g.released stKILLED {} else g).discard b
      (s1.onTeam fun t => t.setBar b { init := false, exp := x.exp, arr := 0, ph := x.ph }).onGrp (Group.setStat 0x87 stOK)) s

/-- R306. -/
def execBarq (b : BReg) (d : SReg) (s : State) : Out :=
  onceOp 0x88 (.barq b d) (fun s => s.onGrp fun g => g.setS d.val ((s.team.bar b).ph.setWidth 64)) s

/-- Table 20-3. -/
def State.barCounts (s : State) (b : BReg) : Nat :=
  let x := s.team.bar b
  (if x.init then x.exp else 0) + x.arr * 2 ^ 16 + s.copiesDue b * 2 ^ 32 + s.waiters b * 2 ^ 40 + (if x.init then 2 ^ 48 else 0)

def execBarqCnt (b : BReg) (d : SReg) (s : State) : Out :=
  onceOp 0x88 (.barqCnt b d) (fun s => s.onGrp fun g => g.setS d.val (BitVec.ofNat 64 (s.barCounts b))) s

/-! ## Rings -/

def Team.ring (t : Team) (j : Fin 8) : Ring := mapGet {} t.rings j.val
def Team.setRing (t : Team) (j : Fin 8) (x : Ring) : Team := { t with rings := mapSet {} t.rings j.val x }

/-- Entries held. -/
def Ring.held (r : Ring) : Nat := (r.tail + 2 * r.cap - r.head) % (2 * r.cap)

/-- The lowest run of `n` free pool entries (R395). -/
def Team.freeRun (t : Team) (n : Nat) : Option Nat :=
  let used := fun i : Nat => (List.range 8).any fun j =>
    let r := mapGet ({} : Ring) t.rings j
    r.init && decide (r.first ≤ i) && decide (i < r.first + r.cap)
  (List.range (Config.ringPool + 1 - n)).find? fun f => !(List.range n).any fun i => used (f + i)

/-- R395. -/
def execRnga (j : Fin 8) (a : SReg) (s : State) : Out :=
  onceOp 0x89 (.rnga j a) (fun s =>
    let c := (s.grp.S a.val).toNat
    if (s.team.ring j).init then s.onGrp (Group.setStat 0x89 stDENIED)
    else if c = 0 ∨ 128 < c then s.onGrp (Group.setStat 0x89 stNORES)
    else match s.team.freeRun c with
      | none => s.onGrp (Group.setStat 0x89 stNORES)
      | some f => (s.onTeam fun t => t.setRing j { init := true, cap := c, first := f, head := 0, tail := 0 }).onGrp
                    (Group.setStat 0x89 stOK)) s

/-- What one evaluation of a ring instruction gives: a state in which it is complete, or none where it waits. -/
def putEval (j : Fin 8) (waits : Bool) (a : SReg) (s : State) : Option State :=
  let r := s.team.ring j
  if !r.init then some (s.onGrp (Group.setStat 0x8A stNOTINIT))
  else if r.held = r.cap then (if waits then none else some (s.onGrp (Group.setStat 0x8A stFULL)))
  else
    let e := r.first + r.tail % r.cap
    some ((s.onTeam fun t =>
      { t.setRing j { r with tail := (r.tail + 1) % (2 * r.cap) } with
        pool := mapSet 0 t.pool e (s.grp.S a.val)
        poolKnow := (e, s.known s.core.seq) :: t.poolKnow.filter fun x => x.1 != e }).onGrp (Group.setStat 0x8A stOK))

def getEval (j : Fin 8) (waits : Bool) (d : SReg) (s : State) : Option State :=
  let r := s.team.ring j
  if !r.init then some (s.onGrp (Group.setStat 0x8B stNOTINIT))
  else if r.tail = r.head then (if waits then none else some (s.onGrp (Group.setStat 0x8B stEMPTY)))
  else
    let e := r.first + r.head % r.cap
    let k := match s.team.poolKnow.find? fun x => x.1 == e with
      | some x => x.2
      | none => {}
    some ((s.onTeam fun t => t.setRing j { r with head := (r.head + 1) % (2 * r.cap) }).onGrp fun g =>
      ((g.setS d.val (mapGet 0 s.team.pool e)).learn k).setStat 0x8B stOK)

/-- A suspended group goes on with the next instruction. -/
def Group.resumeNext (g : Group) : Group := { g with susp := .ready }.step

/-- A waiting form of the group in focus is evaluated again (R392). -/
def State.ringAgain (s : State) : State :=
  match s.grp.susp with
  | .ring j put a =>
    match (if put then putEval j true a s else getEval j true a s) with
    | some s' => s'.onGrp Group.resumeNext
    | none => s
  | _ => s

/-- A group waits on ring j. -/
def Group.waitsRing (j : Fin 8) (g : Group) : Bool :=
  match g.susp with
  | .ring k _ _ => k == j
  | _ => false

/-- The groups of the team in focus that wait on ring j, in increasing quadrant number, as GIDs. -/
def State.ringWaiters (j : Fin 8) (s : State) : List Nat :=
  (sortBy (fun a b => decide (a % 4 < b % 4) || (a % 4 == b % 4 && decide (a ≤ b)))
    ((s.teamGroups.filter (Group.waitsRing j)).map (·.gid)))

/-- Ring j has changed from `r`: the groups that wait on it are evaluated, and again as far as they change it (R392, R393). -/
def State.ringWake (j : Fin 8) (r : Ring) (s : State) : State :=
  if s.team.ring j = r then s
  else
    let ws := s.ringWaiters j
    ws.foldl (fun t _ => ws.foldl (fun u i => u.withFocus s.team.core s.team.slot i State.ringAgain) t) s

/-- Issue: complete, or wait (R392). -/
def ringIssue (j : Fin 8) (eval : State → Option State) (w : Susp) (s : State) : State :=
  match eval s with
  | some s' => (s'.finish s.grp.xm).ringWake j (s.team.ring j)
  | none => (s.tally s.grp.xm).onGrp fun g => { g with susp := w }

/-- R396: RPUT first waits for the accesses ordered before it. -/
def putIssue (j : Fin 8) (waits : Bool) (a : SReg) (s : State) : State :=
  if s.releaseReady .team then ringIssue j (putEval j waits a) (.ring j true a) s
  else (s.tally s.grp.xm).onGrp fun g => { g with susp := .rput j waits a }

def execRput (j : Fin 8) (a : SReg) (s : State) : Out := waitOp 0x8A (.rput j a) (putIssue j false a) s
def execRputW (j : Fin 8) (a : SReg) (s : State) : Out := waitOp 0x8A (.rputW j a) (putIssue j true a) s
/-- R394. -/
def execRget (j : Fin 8) (d : SReg) (s : State) : Out :=
  waitOp 0x8B (.rget j d) (ringIssue j (getEval j false d) (.ring j false d)) s
def execRgetW (j : Fin 8) (d : SReg) (s : State) : Out :=
  waitOp 0x8B (.rgetW j d) (ringIssue j (getEval j true d) (.ring j false d)) s

/-- The ring that the group in focus waits on. -/
def Group.ringOf? (g : Group) : Option (Fin 8) :=
  match g.susp with
  | .ring j _ _ => some j
  | .rput j _ _ => some j
  | _ => none

/-- RING_REEVALUATE (R392): a waiting form is evaluated again, after a restore as well. -/
def execRingReevaluate (core slot gid : Nat) (s : State) : Out :=
  .next <| s.withFocus core slot gid fun s =>
    match s.grp.ringOf? with
    | some j => s.ringAgain.ringWake j (s.team.ring j)
    | none => s

/-- RPUT_PLACEMENT (R396). -/
def execRputPlacement (core slot gid : Nat) (s : State) : Out :=
  .next <| s.withFocus core slot gid fun s =>
    match s.grp.susp with
    | .rput j waits a =>
      if !s.releaseReady .team then s
      else match putEval j waits a s with
        | some s' => (s'.onGrp Group.resumeNext).ringWake j (s.team.ring j)
        | none => s.onGrp fun g => { g with susp := .ring j true a }
    | _ => s

/-- R393. -/
def execRfree (j : Fin 8) (s : State) : Out :=
  onceOp 0x8C (.rfree j) (fun s =>
    let r := s.team.ring j
    if !r.init then s.onGrp (Group.setStat 0x8C stNOTINIT)
    else ((s.onTeam fun t =>
      { t.setRing j {} with
        pool := t.pool.filter fun e => !(decide (r.first ≤ e.1) && decide (e.1 < r.first + r.cap)) }).onGrp
      (Group.setStat 0x8C stOK)).ringWake j r) s

end Sys2Proof.Machine
end

