-- ==== Sys2Proof/Machine/Copy.lean ====
section
/-! DEFINITION. Machine/Copy.lean: CPY, opcode 0x74 (20 R318 to R320; 08 R161 to R164), and COPY_COMPLETE. -/

namespace Sys2Proof.Machine

/-! ## Roles (03 R54) -/

/-- An instruction of class M or C stands outside its role or its class of clause. -/
def Group.roleFault (g : Group) (kind : RoleKind) (k : ClauseClass) : Bool := g.kind != kind || !g.inClass k

/-- Frame of the instructions of classes M and C: the role comes before the operands (03 R70). -/
def classOp (opc : Nat) (i : Instr) (kind : RoleKind) (k : ClauseClass) (body : State → State) (s : State) : Out :=
  if s.grp.windowShut i then .next (s.stay opc i)
  else if s.grp.roleFault kind k then .next (s.takeFault opc { kind := 6 })
  else if s.holds i then .next (s.stay opc i)
  else .next (body s)

/-! ## Issue -/

/-- The buffer offsets of the lanes. -/
def Group.bufAddrs (g : Group) (bv : VReg) (act : W32) : List (Nat × Nat) := (lanesOf act).map fun l => (l, (g.V bv.val l).toNat)

/-- Alignment of the global side and of the buffer side, then buffer bounds (R319). -/
def State.copyTrap (s : State) (buf : Buf) (w : Nat) (gl bl : List (Nat × Nat)) : Option Trap :=
  match laneTrap 10 .glob (fun a => a % w ≠ 0) gl with
  | some t => some t
  | none => s.memTrap buf.space w bl

/-- CPY waits at issue, past the wait for the 65th copy of the core (R164): for a shared read (06 R133), for room in the commit area (06
R135). -/
def State.copyWaits (s : State) (toGlobal : Bool) (gl : List (Nat × Nat)) : Bool :=
  if toGlobal then
    s.overflows (uniq (((s.peek .w gl).filter fun a => s.team.isShared a.va).map fun a => a.key / 128)).length
  else s.sharedWait gl

/-- A CPY would stay at its place: for the 65th copy of the core, or past its checks for shared reads or the commit area. -/
def State.copyAwaits (s : State) (toGlobal : Bool) (g : Guard) (w : Nat) (buf : Buf) (bv gv : VReg) (gs : SLow) : Bool :=
  let gl := s.grp.laneAddrs .glob gs gv (s.lanes g)
  decide (64 ≤ s.copiesOut) ||
    ((s.copyTrap buf w gl (s.grp.bufAddrs bv (s.lanes g))).isNone &&
     (pageFaults gl (s.lanesX (if toGlobal then .w else .r) false gl)).isEmpty && s.copyWaits toGlobal gl)

/-- The bytes that a copy to global memory writes, as the buffer holds them now. -/
def State.copyCells (s : State) (buf : Buf) (w : Nat) (xs : List (LaneAcc × Nat)) : List Host.Cell :=
  xs.flatMap fun x => (s.localBytes buf.space x.1.lane x.2 w).mapIdx fun i b => (x.1.key + i, b)

/-- The barrier arrival of a copy (R163). -/
def State.copyArrives (bar : Option BReg) (know : Know) (s : State) : State :=
  match bar with
  | some b => s.arrive b know
  | none => s

/-- Fork the copy thread: shared lanes of a copy to global memory are held (06 R132); with nothing left to do the copy arrives. -/
def copyFork (toGlobal : Bool) (w : Nat) (buf : Buf) (bar : Option BReg) (r : Nat) (nud : BitVec 8)
    (xs : List (LaneAcc × Nat)) (s : State) : State :=
  let holds := fun x : LaneAcc × Nat => toGlobal && s.team.isShared x.1.va && !s.team.through
  let held := xs.filter holds
  let sent := xs.filter fun x => !holds x
  let n := s.team.heldCount s.grp.gid
  let s1 := if held.isEmpty then s
    else s.hold 0x74 (uniq (held.map fun x => x.1.key / 128)).length (some .copies) none
           (held.map fun x => (x.1, .bytes (s.copyCells buf w [x])))
  -- what the thread releases at its arrival: what happens before its fork, and its own held writes
  let fork := s.forkKnow (xs.flatMap fun x => [(x.1.key, w), (bufBase buf.space + x.2, w)])
  let know := if held.isEmpty then fork else fork.join { seen := [{ team := s.team.ident, gid := s.grp.gid, seq := n }] }
  if sent.isEmpty then s1.threadDone.copyArrives bar know
  else s1.post { Pend.new 0x74 (.copy toGlobal w buf bar false know sent) with
    count := some .copies, stamp := r,
    nud := nud.toNat }

/-- R319. All registers are read at issue (log entry 60). -/
def copyIssue (toGlobal : Bool) (i : Instr) (g : Guard) (w : Nat) (buf : Buf) (bar : Option BReg) (bv gv : VReg)
    (gs : SLow) (nud : BitVec 8) (s : State) : State :=
  let act := s.lanes g
  let gl := s.grp.laneAddrs .glob gs gv act
  let bl := s.grp.bufAddrs bv act
  if g.isNever then s.finish 0
  else if 64 ≤ s.copiesOut then s
  else match s.grp.bounds i with
    | some t => s.takeFault 0x74 t
    | none =>
      match s.copyTrap buf w gl bl with
      | some t => s.takeFault 0x74 t
      | none =>
        let xs := s.lanesX (if toGlobal then .w else .r) false gl
        let fs := pageFaults gl xs
        let as := laneAccs xs
        if !fs.isEmpty then s.park 0x74 toGlobal act none fs
        else if s.copyWaits toGlobal gl then s
        else match s.badLane as with
        | some a => s.takeFault 0x74 (machineCheck 2 a.key)
        | none =>
          let s1 := (s.addL (unitCount .glob w (gl.map (·.2)) + unitCount buf.space w (bl.map (·.2)))).advanceClock
          let s2 := s1.translated toGlobal as
          let s3 := if toGlobal then s2.onCore (Core.l1Dirty s2.team.ctx (as.map fun a => a.va / 128)) else s2
          (copyFork toGlobal w buf bar s1.stamp nud (as.zip (bl.map (·.2))) s3).finish act

def execCpy (g : Guard) (la : Fin 16) (w : Width) (bsp : Buf) (bar : Option BReg) (bv gv : VReg) (gs : SLow) (nud : BitVec 8)
    (s : State) : Out :=
  let i := Instr.cpy g la w bsp bar bv gv gs nud
  classOp 0x74 i .cpy .c (copyIssue false i g w.bytes bsp bar bv gv gs nud) s

def execCpyToGlobal (g : Guard) (la : Fin 16) (w : Width) (bsp : Buf) (bar : Option BReg) (bv gv : VReg) (gs : SLow)
    (nud : BitVec 8) (s : State) : Out :=
  let i := Instr.cpyToGlobal g la w bsp bar bv gv gs nud
  classOp 0x74 i .cpy .c (copyIssue true i g w.bytes bsp bar bv gv gs nud) s

/-! ## Completion (R162, R163) -/

/-- A copy may move its bytes: what its fork is ordered after has performed (13 R232), on either side, and its lines are served. -/
def State.copyMay (s : State) (p : Pend) (w : Nat) (buf : Buf) (xs : List (LaneAcc × Nat)) : Bool :=
  xs.all fun x =>
    !s.writeBefore p.seq (x.1.key / 128) && s.served x.1.key && !s.grp.loadBehind p.seq x.1 w &&
    !s.grp.loadBehind p.seq { x.1 with key := bufBase buf.space + x.2 } w

/-- Move every lane's bytes; of the lanes that write one byte the highest gives its value. Stores that have performed for the team stand
before the memory that is read (13 R227). -/
def State.copyMove (p : Pend) (toGlobal : Bool) (w : Nat) (buf : Buf) (xs : List (LaneAcc × Nat)) (s : State) : State :=
  let as := xs.map (·.1)
  if toGlobal then
    let cells := s.copyCells buf w xs
    ((s.requests p.stamp p.gcnt (some p.nud) true as).writeMem cells).l1Put s.core.id none cells
  else
    let s1 := xs.foldl (fun t x => t.putLocals none buf.space x.1.lane x.2 ((s.seenBy p.know x.1.va).bytes x.1.key w)) s
    s1.requests p.stamp p.gcnt (some p.nud) false as

/-- COPY_COMPLETE: every byte performs at its destination, the copy leaves the count and makes its arrival. -/
def execCopyComplete (core slot gid seq : Nat) (s : State) : Out :=
  .next <| (s |> arriving core slot gid fun s =>
    match s.grp.findPend? seq with
    | none => s
    | some p =>
      match p.kind with
      | .copy toGlobal w buf bar discarded know xs =>
        if !s.copyMay p w buf xs then s
        else
          let s1 := (s.copyMove p toGlobal w buf xs).onGrp fun g => g.dropPend seq
          if discarded then s1 else s1.copyArrives bar know
      | _ => s).reap

end Sys2Proof.Machine
end

