-- ==== Sys2Proof/Machine/Reach.lean ====
section
/-! DEFINITION. Machine/Reach.lean: memory as firmware, the Skiver and the front end reach it: through the context's tables and at the
home (16 R250, R255, R256; 06 R118, R129, R130), and the words of a queue control block at their physical address. -/

namespace Sys2Proof.Machine

/-- What an access of the device itself comes to: it is done; it waits, for a stitch that holds the line (12 R214) or for the end of a
page's migration (08 R150); or it fails, with a fault that firmware never resolves (17 R271). -/
inductive Reach (α : Type)
  | ok (a : α) (s : State)
  | waits
  | fails
  deriving DecidableEq, Repr

def Reach.bind {α β : Type} (r : Reach α) (k : α → State → Reach β) : Reach β :=
  match r with
  | .ok a s => k a s
  | .waits => .waits
  | .fails => .fails

/-- A page that is not mapped is backed on the way (17 R271), and invalidated as after each change of firmware's own (08 R154). -/
def State.backed (ctx va : Nat) (s : State) : State :=
  match s.walk ctx va with
  | .notMapped => match s.backPage ctx va with
    | some s1 => s1.invalidate ctx fun p => p == va / 8192
    | none => s
  | _ => s

/-- One byte; a poisoned line cannot be read (12 R222). -/
def State.reach (ctx va : Nat) (n : Need) (s : State) : Reach LaneAcc :=
  if nonCanonical va then .fails
  else
    match (s.backed ctx va).walk ctx va with
    | .leaf l =>
      let key := l.base + va % 8192
      if !l.grants n then (if (l.denial n).1 = 2 then .waits else .fails)
      else if !s.served key then .waits
      else if n != .w && s.bad key then .fails
      else .ok { lane := 0, va := va, key := key, leaf := l } ((s.backed ctx va).setAD ctx va l n.writes)
    | _ => .fails

/-- Bytes one after another. -/
def State.reachAll (ctx : Nat) (n : Need) : List Nat → State → Reach (List LaneAcc)
  | [], s => .ok [] s
  | va :: vas, s => (s.reach ctx va n).bind fun a s => (State.reachAll ctx n vas s).bind fun as s => .ok (a :: as) s

/-- The homes of the lines are asked from the I/O die, one request a line. -/
def State.askHome (ctx : Nat) (dirty : Bool) (as : List LaneAcc) (s : State) : State :=
  (onePerLine as).foldl (fun s a => s.request (plainReq ioDie ctx dirty a)) s

/-- Read `n` bytes. -/
def State.readCtx (ctx va n : Nat) (s : State) : Reach (List Byte) :=
  (s.reachAll ctx .r ((List.range n).map (va + ·))).bind fun as s => .ok (as.map fun a => s.mem.byte a.key) (s.askHome ctx false as)

/-- Write bytes; none is written where some byte cannot be. -/
def State.writeCtx (ctx va : Nat) (bs : List Byte) (s : State) : Reach Unit :=
  (s.reachAll ctx .w ((List.range bs.length).map (va + ·))).bind fun as s =>
    .ok () ((s.askHome ctx true as).writeMem ((as.map (·.key)).zip bs))

def State.writeWord (ctx va n x : Nat) (s : State) : Reach Unit := s.writeCtx ctx va (leBytes n x)

/-! ## The queue control block (16 R250) -/

/-- An access by physical address: policy normal and way class 0. -/
def physAcc (key : Nat) : LaneAcc := { lane := 0, va := 0, key := key, leaf := noLeaf }

/-- Write a word of a QCB at its physical address. It belongs to no context: its request carries CTX 0 (log entry 54). -/
def State.qcbPut (pa x : Nat) (s : State) : State :=
  (s.request (plainReq ioDie 0 true (physAcc pa))).writeMem (leCells pa 8 x)

/-- Put a field of n bits at bit lo of a word. -/
def putBits (x lo n v : Nat) : Nat := x - x / 2 ^ lo % 2 ^ n * 2 ^ lo + v % 2 ^ n * 2 ^ lo

/-- HALT and HSTAT in the QCB in memory. -/
def State.qcbHalt (qcb reason : Nat) (halted : Bool) (s : State) : State :=
  s.qcbPut qcb (putBits (putBits (s.mem.word qcb 8) 18 1 (bit halted)) 24 4 reason)

/-- No stitch holds the QCB's first line, which has HALT, HSTAT, RD and WR. -/
def State.qcbServed (s : State) (n : Nat) : Bool :=
  match s.findQueue? n with
  | some q => s.served q.qcb
  | none => true

end Sys2Proof.Machine
end

