-- ==== Sys2Proof/Machine/Stitch.lean ====
section
/-! DEFINITION. Machine/Stitch.lean: stitch routines (12 R207 to R221): the 25 operations, verification, the standard slots; STCH,
STDEF and STREL (23 R421 to R424), opcodes 0x80 to 0x82; invocations at the home. -/

namespace Sys2Proof.Machine

/-! ## Elements (R207, R209) -/

/-- Elements of a line: 32 words, or 16 pairs. -/
def StitchRun.E (r : StitchRun) : Nat := if r.wide then 16 else 32
def StitchRun.w (r : StitchRun) : Nat := if r.wide then 64 else 32

/-- Element e of a vector of words. -/
def elemGet (wide : Bool) (l : List W32) (e : Nat) : Nat :=
  if wide then (l.getD (2 * e) 0).toNat + 2 ^ 32 * (l.getD (2 * e + 1) 0).toNat else (l.getD e 0).toNat
def elemSet (wide : Bool) (l : List W32) (e x : Nat) : List W32 :=
  if wide then (l.set (2 * e) (BitVec.ofNat 32 x)).set (2 * e + 1) (BitVec.ofNat 32 (x / 2 ^ 32)) else l.set e (BitVec.ofNat 32 x)

/-- A mask's bit of element e; a 64-bit routine sets and reads the bits of both words together. -/
def maskGet (wide : Bool) (m : W32) (e : Nat) : Bool := if wide then m.getLsbD (2 * e) else m.getLsbD e
def maskSet (wide : Bool) (m : W32) (e : Nat) (b : Bool) : W32 :=
  let bit : W32 := if wide then 3#32 <<< (2 * e) else 1#32 <<< e
  if b then m ||| bit else m &&& ~~~bit

/-- A source code may be read (Table 12-3). -/
def sourceOk (wide : Bool) (c : Nat) : Bool := decide (c ≤ 14) && !(wide && (c == 9 || c == 11))
/-- A broadcast source. -/
def broadcast (c : Nat) : Bool := decide (7 ≤ c) && decide (c ≤ 14)
/-- A source that uses IMM10. -/
def usesImm (c : Nat) : Bool := decide (12 ≤ c) && decide (c ≤ 14)

/-- The value of a source for element e (Table 12-3). -/
def StitchRun.src (r : StitchRun) (c : Nat) (i : BitVec 10) (e : Nat) : Nat :=
  let a := fun n => (r.a.getD n 0).toNat
  let at_ := i.toNat % r.E
  match c with
  | 0 => elemGet r.wide r.l e
  | 1 => elemGet r.wide (r.t.getD 0 []) e
  | 2 => elemGet r.wide (r.t.getD 1 []) e
  | 3 => elemGet r.wide (r.t.getD 2 []) e
  | 4 => elemGet r.wide (r.t.getD 3 []) e
  | 5 => elemGet r.wide r.old e
  | 6 => e
  | 7 => r.off
  | 8 => if r.wide then a 0 + 2 ^ 32 * a 1 else a 0
  | 9 => a 1
  | 10 => if r.wide then a 2 + 2 ^ 32 * a 3 else a 2
  | 11 => a 3
  | 12 => wrap r.w (sext 10 i.toNat)
  | 13 => elemGet r.wide r.l at_
  | 14 => elemGet r.wide (r.t.getD 0 []) at_
  | _ => 0

def StitchRun.vec (r : StitchRun) (d : Nat) : List W32 := if d = 0 then r.l else r.t.getD (d - 1) []
def StitchRun.setVec (r : StitchRun) (d : Nat) (l : List W32) : StitchRun :=
  if d = 0 then { r with l := l } else { r with t := r.t.set (d - 1) l }

/-- g(e) of R210: MG 0 takes every element, 1 to 4 those of M0 to M3. -/
def StitchRun.sel (r : StitchRun) (mg e : Nat) : Bool := mg == 0 || maskGet r.wide (r.m.getD (mg - 1) 0) e

/-- d[e] ← f e for each element that `p` picks; every source is read before. -/
def StitchRun.write (r : StitchRun) (d : Nat) (p : Nat → Bool) (f : Nat → Nat) : StitchRun :=
  r.setVec d ((List.range r.E).foldl (fun l e => if p e then elemSet r.wide l e (f e % 2 ^ r.w) else l) (r.vec d))

def StitchRun.op2 (r : StitchRun) (m : Fin 8) (d : Fin 16) (a b : Fin 32) (i : BitVec 10) (f : Nat → Nat → Nat) : StitchRun :=
  r.write d.val (r.sel m.val) fun e => f (r.src a.val i e) (r.src b.val i e)

/-- A comparison's mask bits. -/
def StitchRun.cmp (r : StitchRun) (m : Fin 8) (d : Fin 16) (a b : Fin 32) (i : BitVec 10) (f : Nat → Nat → Bool) : StitchRun :=
  let k := d.val - 5
  { r with m := r.m.set k ((List.range r.E).foldl (fun x e =>
      if r.sel m.val e then maskSet r.wide x e (f (r.src a.val i e) (r.src b.val i e)) else x) (r.m.getD k 0)) }

def StitchRun.fmt (r : StitchRun) : Fmt := if r.wide then F64 else F32
def StitchRun.signed (r : StitchRun) (x : Nat) : Int := sext r.w x

/-- What an operation other than COMMIT and ABORT does to the routine's state (Table 12-4). -/
def StitchRun.eff (r : StitchRun) : Instr → StitchRun
  | .wmov m d a i => r.write d.val (r.sel m.val) (r.src a.val i)
  | .wadd m d a b i => r.op2 m d a b i fun x y => x + y
  | .wsub m d a b i => r.op2 m d a b i fun x y => x + 2 ^ r.w - y
  | .wmin m d a b i => r.op2 m d a b i fun x y => if r.signed y < r.signed x then y else x
  | .wminU m d a b i => r.op2 m d a b i Nat.min
  | .wmax m d a b i => r.op2 m d a b i fun x y => if r.signed x < r.signed y then y else x
  | .wmaxU m d a b i => r.op2 m d a b i Nat.max
  | .wand m d a b i => r.op2 m d a b i fun x y => x &&& y
  | .wor m d a b i => r.op2 m d a b i fun x y => x ||| y
  | .wxor m d a b i => r.op2 m d a b i fun x y => x ^^^ y
  | .wshl m d a b i => r.op2 m d a b i fun x y => x * 2 ^ (y % r.w)
  | .wshr m d a b i => r.op2 m d a b i fun x y => x / 2 ^ (y % r.w)
  | .fwadd m d a b i => r.op2 m d a b i fun x y => (r.fmt.add .rne (r.fmt.val x) (r.fmt.val y)).1
  | .fwmin m d a b i => r.op2 m d a b i fun x y => (r.fmt.minmax false x y).1
  | .fwmax m d a b i => r.op2 m d a b i fun x y => (r.fmt.minmax true x y).1
  | .wcmpEq m d a b i => r.cmp m d a b i fun x y => x == y
  | .wcmpNe m d a b i => r.cmp m d a b i fun x y => x != y
  | .wcmpLt m d a b i => r.cmp m d a b i fun x y => decide (r.signed x < r.signed y)
  | .wcmpLtu m d a b i => r.cmp m d a b i fun x y => decide (x < y)
  | .wcmpLe m d a b i => r.cmp m d a b i fun x y => decide (r.signed x ≤ r.signed y)
  | .wcmpLeu m d a b i => r.cmp m d a b i fun x y => decide (x ≤ y)
  | .wsel k d a b i => r.write d.val (fun _ => true) fun e => if r.sel k.val e then r.src a.val i e else r.src b.val i e
  | .wset d a b i => r.write d.val (fun e => e == r.src b.val i 0 % r.E) fun _ => r.src a.val i 0
  | _ => r

/-- The words that COMMIT and ABORT return (R210). -/
def StitchRun.back (r : StitchRun) (n : Fin 16) (a : Fin 32) (i : BitVec 10) : List W32 :=
  let b := r.src a.val i 0
  let b := if r.wide then 2 * b else b
  (List.range n.val).map fun j => r.old.getD ((b + j) % 32) 0

/-! ## Verification (R208 to R210, R217) -/

/-- A code set of one operation: MG, D, and its sources; IMM10 is zero unless a source uses it. -/
def codesOk (wide : Bool) (mgOk dOk : Bool) (srcs : List Nat) (i : BitVec 10) : Bool :=
  mgOk && dOk && srcs.all (sourceOk wide) && (srcs.any usesImm || i == 0)

def stitchOk (wide : Bool) : Instr → Bool
  | .wmov m d a i => codesOk wide (decide (m.val ≤ 4)) (decide (d.val ≤ 4)) [a.val] i
  | .wadd m d a b i | .wsub m d a b i | .wmin m d a b i | .wminU m d a b i | .wmax m d a b i | .wmaxU m d a b i
  | .wand m d a b i | .wor m d a b i | .wxor m d a b i | .wshl m d a b i | .wshr m d a b i | .fwadd m d a b i
  | .fwmin m d a b i | .fwmax m d a b i => codesOk wide (decide (m.val ≤ 4)) (decide (d.val ≤ 4)) [a.val, b.val] i
  | .wcmpEq m d a b i | .wcmpNe m d a b i | .wcmpLt m d a b i | .wcmpLtu m d a b i | .wcmpLe m d a b i | .wcmpLeu m d a b i =>
    codesOk wide (decide (m.val ≤ 4)) (decide (5 ≤ d.val) && decide (d.val ≤ 8)) [a.val, b.val] i
  | .wsel k d a b i => codesOk wide (decide (1 ≤ k.val) && decide (k.val ≤ 4)) (decide (d.val ≤ 4)) [a.val, b.val] i
  | .wset d a b i => codesOk wide true (decide (d.val ≤ 4) && broadcast a.val && broadcast b.val) [a.val, b.val] i
  | .commit n a i | .abort n a i =>
    codesOk wide true (decide (n.val ≤ 4) && decide (7 ≤ a.val) && decide (a.val ≤ 12)) [a.val] i
  | _ => false

def endsRoutine : Instr → Bool
  | .commit _ _ _ => true
  | .abort _ _ _ => true
  | _ => false

/-- The detail code of a routine's first fault (R217), none where it passes. -/
def verifyFrom (wide : Bool) (count : Nat) : Nat → List Nat → Option Nat
  | _, [] => none
  | i, w :: ws =>
    match decode32 w with
    | none => some (i + 1)
    | some op =>
      if !stitchOk wide op || (endsRoutine op && i + 1 ≠ count) then some (i + 1)
      else if i + 1 = count && !endsRoutine op then some 0x41
      else verifyFrom wide count (i + 1) ws

def verifyRoutine (wide : Bool) (ws : List Nat) : Option Nat := verifyFrom wide ws.length 0 ws

/-! ## Standard slots (R220, Table 12-7) -/

def m0Op (f : Fin 8 → Fin 16 → Fin 32 → Fin 32 → BitVec 10 → Instr) (n : Fin 16) : List Instr := [f 1 0 0 8 0, .commit n 7 0]

/-- The routine of a standard slot, and whether it is 64 bits wide (log entry 24); slots 23 and 24 as they run where old = A0. -/
def standardRoutine (slot : Nat) : Bool × List Instr :=
  match slot with
  | 0 | 1 => (false, m0Op .wadd 1)
  | 2 | 3 => (true, m0Op .wadd 2)
  | 4 => (false, m0Op .fwadd 1)
  | 5 => (true, m0Op .fwadd 2)
  | 6 => (false, m0Op .wmin 1)
  | 7 => (false, m0Op .wminU 1)
  | 8 => (true, m0Op .wmin 2)
  | 9 => (true, m0Op .wminU 2)
  | 10 => (false, m0Op .fwmin 1)
  | 11 => (true, m0Op .fwmin 2)
  | 12 => (false, m0Op .wmax 1)
  | 13 => (false, m0Op .wmaxU 1)
  | 14 => (true, m0Op .wmax 2)
  | 15 => (true, m0Op .wmaxU 2)
  | 16 => (false, m0Op .fwmax 1)
  | 17 => (true, m0Op .fwmax 2)
  | 18 => (false, m0Op .wand 1)
  | 19 => (false, m0Op .wor 1)
  | 20 => (false, m0Op .wxor 1)
  | 21 => (false, [.wmov 1 0 8 0, .commit 1 7 0])
  | 22 => (true, [.wmov 1 0 8 0, .commit 2 7 0])
  | 23 => (false, [.wcmpEq 0 6 0 8 0, .wsel 2 1 9 0 0, .wmov 1 0 1 0, .commit 1 7 0])
  | 24 => (true, [.wcmpEq 0 6 0 8 0, .wsel 2 1 10 0 0, .wmov 1 0 1 0, .commit 2 7 0])
  | 25 => (false, [.wcmpLeu 0 6 8 0 0, .wadd 0 1 0 12 1, .wsel 2 2 12 1 0, .wmov 1 0 2 0, .commit 1 7 0])
  | 26 => (false, [.wcmpEq 0 6 0 12 0, .wcmpLtu 0 7 8 0 0, .wsub 0 1 0 12 1, .wsel 2 2 8 1 0, .wsel 3 2 8 2 0, .wmov 1 0 2 0,
                   .commit 1 7 0])
  | 27 => (false, [.wmov 0 1 13 1, .wsub 0 2 1 13 0, .wcmpLtu 0 6 2 13 2, .wcmpEq 0 7 6 12 1, .wadd 0 3 1 12 1, .wsel 2 4 3 1 0,
                   .wmov 3 0 4 0, .commit 3 12 0])
  | 28 => (false, [.wmov 0 1 13 0, .wcmpNe 0 6 1 13 1, .wadd 0 2 1 12 1, .wsel 2 3 2 1 0, .wcmpEq 0 7 6 12 0, .wmov 3 0 3 0,
                   .commit 3 12 0])
  | 29 => (false, [.wmov 0 1 13 0, .wadd 0 1 1 12 1, .wcmpEq 0 6 1 13 2, .wsel 2 2 12 1 0, .wmov 0 3 13 1, .wadd 0 4 3 12 1,
                   .wsel 2 3 4 3 0, .wcmpEq 0 7 6 12 0, .wmov 3 0 2 0, .wcmpEq 0 8 6 12 1, .wmov 4 0 3 0, .commit 2 12 0])
  | 30 => (false, [.wset 0 12 12 0, .wset 0 8 12 2, .commit 3 12 0])
  | _ => (false, [.abort 4 7 0])

/-! ## Running a routine -/

def lineWords (m : Memory) (key : Nat) : List W32 := (List.range 32).map fun i => BitVec.ofNat 32 (m.word (key / 128 * 128 + 4 * i) 4)
def wordCells (key : Nat) (l : List W32) : List Host.Cell := l.zipIdx.flatMap fun x => leCells (key / 128 * 128 + 4 * x.2) 4 x.1.toNat

/-- The start of an invocation (R207): L and OLD hold the line, M0 picks the target element. -/
def startRun (m : Memory) (core slot gid seq lane ctx key : Nat) (wide : Bool) (code : List Nat) (a : List W32) : StitchRun :=
  let l := lineWords m key
  let off := if wide then key % 128 / 8 else key % 128 / 4
  { core := core, slot := slot, gid := gid, seq := seq, lane := lane, ctx := ctx, key := key, wide := wide, code := code, pc := 0,
    l := l, old := l, t := List.replicate 4 (List.replicate 32 0), m := [maskSet wide 0 off true, 0, 0, 0], a := a, off := off }

/-- The run of a slot's routine. Table 12-7 lets slots 23 and 24 end in ABORT where the old element is not A0, which no routine can
decide: their last word is then ABORT of the same words. -/
def StitchRun.ofSlot (slot : Nat) (r : StitchRun) : StitchRun :=
  if (slot = 23 ∨ slot = 24) ∧ r.src 5 0 r.off ≠ r.src 8 0 r.off then
    { r with code := r.code.dropLast ++ [encode (.abort (if slot = 24 then 2 else 1) 7 0)] }
  else r

/-- A whole routine at once, for invocations that no lane waits for: the line that it commits, if it does. -/
def StitchRun.all (r : StitchRun) : List Instr → Option (List W32)
  | [] => none
  | .commit _ _ _ :: _ => some r.l
  | .abort _ _ _ :: _ => none
  | i :: is => (r.eff i).all is

/-- The same with the words that it returns. -/
def StitchRun.result (r : StitchRun) : List Instr → Option (List W32) × List W32
  | [] => (none, [])
  | .commit n a i :: _ => (some r.l, r.back n a i)
  | .abort n a i :: _ => (none, r.back n a i)
  | i :: is => (r.eff i).result is

def decodeAll (ws : List Nat) : List Instr := ws.filterMap decode32

/-- An operation in a running routine. -/
def stitchStep (i : Instr) (s : State) : Out :=
  match s.run with
  | none => .fault .stitchWordInvalid
  | some r =>
    if stitchOk r.wide i then .next { s with run := some { r.eff i with pc := r.pc + 1 } } else .fault .stitchWordInvalid

def execWmov (m : Fin 8) (d : Fin 16) (a : Fin 32) (i : BitVec 10) (s : State) : Out := stitchStep (.wmov m d a i) s
def execWadd (m : Fin 8) (d : Fin 16) (a b : Fin 32) (i : BitVec 10) (s : State) : Out := stitchStep (.wadd m d a b i) s
def execWsub (m : Fin 8) (d : Fin 16) (a b : Fin 32) (i : BitVec 10) (s : State) : Out := stitchStep (.wsub m d a b i) s
def execWmin (m : Fin 8) (d : Fin 16) (a b : Fin 32) (i : BitVec 10) (s : State) : Out := stitchStep (.wmin m d a b i) s
def execWminU (m : Fin 8) (d : Fin 16) (a b : Fin 32) (i : BitVec 10) (s : State) : Out := stitchStep (.wminU m d a b i) s
def execWmax (m : Fin 8) (d : Fin 16) (a b : Fin 32) (i : BitVec 10) (s : State) : Out := stitchStep (.wmax m d a b i) s
def execWmaxU (m : Fin 8) (d : Fin 16) (a b : Fin 32) (i : BitVec 10) (s : State) : Out := stitchStep (.wmaxU m d a b i) s
def execWand (m : Fin 8) (d : Fin 16) (a b : Fin 32) (i : BitVec 10) (s : State) : Out := stitchStep (.wand m d a b i) s
def execWor (m : Fin 8) (d : Fin 16) (a b : Fin 32) (i : BitVec 10) (s : State) : Out := stitchStep (.wor m d a b i) s
def execWxor (m : Fin 8) (d : Fin 16) (a b : Fin 32) (i : BitVec 10) (s : State) : Out := stitchStep (.wxor m d a b i) s
def execWshl (m : Fin 8) (d : Fin 16) (a b : Fin 32) (i : BitVec 10) (s : State) : Out := stitchStep (.wshl m d a b i) s
def execWshr (m : Fin 8) (d : Fin 16) (a b : Fin 32) (i : BitVec 10) (s : State) : Out := stitchStep (.wshr m d a b i) s
def execFwadd (m : Fin 8) (d : Fin 16) (a b : Fin 32) (i : BitVec 10) (s : State) : Out := stitchStep (.fwadd m d a b i) s
def execFwmin (m : Fin 8) (d : Fin 16) (a b : Fin 32) (i : BitVec 10) (s : State) : Out := stitchStep (.fwmin m d a b i) s
def execFwmax (m : Fin 8) (d : Fin 16) (a b : Fin 32) (i : BitVec 10) (s : State) : Out := stitchStep (.fwmax m d a b i) s
def execWcmpEq (m : Fin 8) (d : Fin 16) (a b : Fin 32) (i : BitVec 10) (s : State) : Out := stitchStep (.wcmpEq m d a b i) s
def execWcmpNe (m : Fin 8) (d : Fin 16) (a b : Fin 32) (i : BitVec 10) (s : State) : Out := stitchStep (.wcmpNe m d a b i) s
def execWcmpLt (m : Fin 8) (d : Fin 16) (a b : Fin 32) (i : BitVec 10) (s : State) : Out := stitchStep (.wcmpLt m d a b i) s
def execWcmpLtu (m : Fin 8) (d : Fin 16) (a b : Fin 32) (i : BitVec 10) (s : State) : Out := stitchStep (.wcmpLtu m d a b i) s
def execWcmpLe (m : Fin 8) (d : Fin 16) (a b : Fin 32) (i : BitVec 10) (s : State) : Out := stitchStep (.wcmpLe m d a b i) s
def execWcmpLeu (m : Fin 8) (d : Fin 16) (a b : Fin 32) (i : BitVec 10) (s : State) : Out := stitchStep (.wcmpLeu m d a b i) s
def execWsel (k : Fin 8) (d : Fin 16) (a b : Fin 32) (i : BitVec 10) (s : State) : Out := stitchStep (.wsel k d a b i) s
def execWset (d : Fin 16) (a b : Fin 32) (i : BitVec 10) (s : State) : Out := stitchStep (.wset d a b i) s

/-- The lane's words go to RV to RV + 3, zero beyond those returned, and zero where the lane's address is shared (R213, 06 R132). -/
def Group.stitched (rv : VReg) (zero : W32) (lane : Nat) (ws : List W32) (g : Group) : Group :=
  (List.range 4).foldl (fun g i => g.setV (rv.val + i) lane (if zero.getLsbD lane then 0 else ws.getD i 0)) g

/-- A lane's invocation has ended. -/
def Group.laneDone (seq lane : Nat) (ws : List W32) (g : Group) : Group :=
  match g.findPend? seq with
  | none => g
  | some p =>
    match p.kind with
    | .stch sl sc rv zero lanes =>
      (g.stitched rv zero lane ws).updPend seq fun p =>
        { p with kind := .stch sl sc rv zero (lanes.filter fun x => x.1.lane != lane) }
    | _ => g

/-- A routine writes its line. What releases wrote there it hands on, in a chain that runs in coherence order (13 R230). -/
def State.commitLine (key : Nat) (l : List W32) (s : State) : State :=
  { s with mem := s.mem.puts ((wordCells key l).filter fun c => !s.poisoned.contains (c.1 / 128)) }

/-- A release of a team joins those whose values bytes [lo, lo + n) have. -/
def State.addRel (lo n : Nat) (r : Release) (s : State) : State :=
  { s with rels := match s.rels.find? fun x => x.lo == lo && x.n == n && x.what.team == r.team with
      | some x => { x with what := { x.what with hand := x.what.hand.join r.hand } } :: s.rels.erase x
      | none => { lo := lo, n := n, what := r } :: s.rels }

/-- What a STCH of the group in focus releases: what happens before it, its group's queued stores too where it acts at team scope. -/
def State.stitchRel (s : State) (sc : Scope) (p : Pend) : Release :=
  let own := s.grp.pend.any fun q => q.isStore && decide (q.seq < p.seq)
  { team := s.team.ident, hand := { near := if own then p.know.join { upto := p.seq } else p.know,
                                    far := if 2 ≤ sc.rank then p.know.seen else [] } }

/-- The line has a value of this STCH of the group in focus, which is a release too. The copy in the L1 of its core, which a load may have
filled since the STCH was sent, goes (13 R233). -/
def State.stitchHands (seq key : Nat) (s : State) : State :=
  let s := s.onCore (Core.l1Drop [key / 128])
  match s.grp.findPend? seq with
  | none => s
  | some p =>
    match p.kind with
    | .stch _ sc _ _ _ => if sc.rank = 0 then s else s.addRel (key / 128 * 128) 128 (s.stitchRel sc p)
    | _ => s

/-- COMMIT and ABORT end the routine: the line, if any, and the words returned. -/
def stitchEnd (i : Instr) (commits : Bool) (words : StitchRun → List W32) (s : State) : Out :=
  match s.run with
  | none => .fault .stitchWordInvalid
  | some r =>
    if !stitchOk r.wide i then .fault .stitchWordInvalid
    else
      let s1 := { if commits then s.commitLine r.key r.l else s with run := none }
      .next (s1.withFocus r.core r.slot r.gid fun s =>
        (if commits then s.stitchHands r.seq r.key else s).onGrp (Group.laneDone r.seq r.lane (words r)))

def execCommit (n : Fin 16) (a : Fin 32) (i : BitVec 10) (s : State) : Out :=
  stitchEnd (.commit n a i) true (fun r => r.back n a i) s
def execAbort (n : Fin 16) (a : Fin 32) (i : BitVec 10) (s : State) : Out :=
  stitchEnd (.abort n a i) false (fun r => r.back n a i) s

/-! ## STCH (23 R421, R422; 12 R213) -/

def Group.operands (g : Group) (ov : VReg) (l : Nat) : List W32 := (List.range 4).map fun i => g.V (ov.val + i) l

/-- STCH waits, once every lane has translated, for room in the commit area for the lanes that it would hold. -/
def State.stchOverflows (s : State) (as : List LaneAcc) : Bool := s.overflows (as.filter fun a => s.team.isShared a.va).length

/-- Send the lanes, or hold those that are shared under DET. Held stitches synchronise with nothing at run time (13 R237); where all are held, the
STCH is complete, and stands as a release and an acquire of its group between what is before and after it (13 R228, R229). -/
def stchSend (slot : Fin 256) (sc : Scope) (rv ov : VReg) (p : Pend) (as : List LaneAcc) (s : State) : State :=
  let ops := as.map fun a => (a, s.grp.operands ov a.lane)
  let shared := fun a : LaneAcc => s.team.isShared a.va
  let held := ops.filter fun x => shared x.1 && !s.team.through
  let sent := ops.filter fun x => !(shared x.1 && !s.team.through)
  let zero := maskOf ((as.filter shared).map (·.lane))
  let s1 := s.onCore (Core.l1Drop (sent.map fun x => x.1.key / 128))
  let s2 := if held.isEmpty then s1
    else s1.hold 0x80 held.length none none (held.map fun x => (x.1, .stitch slot.val x.1.va x.1.key x.2))
  let s3 := s2.onGrp fun g => held.foldl (fun g x => g.stitched rv zero x.1.lane []) g
  if !sent.isEmpty then s3.post { p with kind := .stch slot.val sc rv zero sent }
  else
    let s4 := s3.acquireMem s3.core.seq sc {}
    if held.isEmpty then s4 else s4.onGrp fun g => { g with fork := g.fork.join (s3.known s3.core.seq) }

def execStch (g : Guard) (la : Fin 16) (slot : Fin 256) (sc : Scope) (rv ov av : VReg) (as : SLow) (s : State) : Out :=
  let i := Instr.stch g la slot sc rv ov av as
  let act := s.lanes g
  let ls := s.grp.laneAddrs .glob as av act
  if s.holds i then .next (s.stay 0x80 i)
  else if g.isNever then .next (s.finish 0)
  else match s.grp.bounds i with
    | some t => .next (s.takeFault 0x80 t)
    | none =>
      match laneTrap 10 .glob (fun a => a % 4 ≠ 0) ls with
      | some t => .next (s.takeFault 0x80 t)
      | none =>
        if !s.releaseReady sc then .next s
        else
          let xs := s.lanesX .rw false ls
          let fs := pageFaults ls xs
          let accs := laneAccs xs
          if fs.isEmpty && s.stchOverflows accs then .next s
          else
            let s1 := (s.addL (unitCount .glob 4 (ls.map (·.2)))).advanceClock
            let r := s1.stamp
            if !fs.isEmpty then .next ((s1.tally act).park 0x80 true act (some (act, r)) fs)
            else
              let p := { Pend.new 0x80 (.stch slot.val sc rv 0 []) with
                count := some .stores, window := true, left := la.val + 1, reads := (Instr.uses i).allReads,
                writes := (Instr.uses i).allWrites, stamp := r }
              .next ((stchSend slot sc rv ov p accs (s1.translated true accs)).finish act)

/-! ## The routine and the line at the home (R214, R216, R219, R222) -/

/-- The bytes of a routine image: its header gives its length (Table 12-5). -/
def imageLen (hdr : Nat) : Nat := 8 + 4 * (bits hdr 19 16 + 1)

/-- A routine image: its width and words, or the detail code of its first fault (R217). -/
def checkImage (bs : List Byte) : Nat ⊕ (Bool × List Nat) :=
  let hdr := leNat (bs.take 8)
  let ws := (List.range (bits hdr 19 16 + 1)).map fun i => leNat ((bs.drop (8 + 4 * i)).take 4)
  if bits hdr 7 0 ≠ 1 ∨ bits hdr 15 9 ≠ 0 ∨ bits hdr 63 20 ≠ 0 then .inl 0x40
  else match verifyRoutine (bitAt hdr 8) ws with
    | some d => .inl d
    | none => .inr (bitAt hdr 8, ws)

def Ctx.slotAt (c : Ctx) (slot : Nat) : Nat := c.table + 128 * slot

/-- A slot is free: its header in the table is zero. The standard slots never are (R216). -/
def State.slotFree (s : State) (ctx slot : Nat) : Bool :=
  decide (32 ≤ slot) && match s.findCtx? ctx with
    | some c => s.mem.word (c.slotAt slot) 8 == 0
    | none => true

/-- The routine of a slot in the context's table: its width and its words. Bytes that are no image that verifies are none (log entry 54). -/
def State.tableRoutine? (s : State) (ctx slot : Nat) : Option (Bool × List Nat) :=
  if slot < 32 then some ((standardRoutine slot).1, (standardRoutine slot).2.map encode)
  else match s.findCtx? ctx with
    | none => none
    | some c => match checkImage (s.mem.bytes (c.slotAt slot) 72) with
      | .inr r => some r
      | .inl _ => none

/-- The home of a line of this device's memory or of host memory, which has a routine cache; a peer's line has its home there (R214). -/
def routineUnit (key : Nat) : Option Nat := if isLocal key then some (homeUnit key) else if key < peerBase then some 72 else none

def Routine.is (unit dev ctx slot : Nat) (r : Routine) : Bool := r.unit == unit && r.dev == dev && r.ctx == ctx && r.slot == slot

/-- The home has the routine (R219): the copy used last stands last, and the one used longest ago makes room. -/
def State.routineUsed (x : Routine) (s : State) : State :=
  let mine := s.routines.filter fun r => r.unit == x.unit && !r.is x.unit x.dev x.ctx x.slot
  let rest := s.routines.filter fun r => r.unit != x.unit
  { s with routines := rest ++ (if mine.length < 64 then mine else mine.drop 1) ++ [x] }

/-- What an invocation comes to at its home: it stops, or its routine runs. -/
inductive Invoked
  | stops (t : Trap) (s : State)
  | runs (wide : Bool) (words : List Nat) (s : State)

/-- An invocation of a slot of a device's context, whose table gives `miss` where the home does not have the routine (Table 12-8). What stops
it, in the order in which the home meets it: a poisoned line (log entry 66); a free slot; an error in the routine as read; an error in the
line once it is held. -/
def State.invoke (dev ctx slot va key : Nat) (miss : Option (Bool × List Nat)) (s : State) : Invoked :=
  let cached := (routineUnit key).bind fun u => s.routines.find? (Routine.is u dev ctx slot)
  if s.bad key then .stops (machineCheck 2 key) s
  else match (match cached with | some r => some (r.wide, r.words) | none => miss) with
    | none => .stops { kind := 15, d0 := BitVec.ofNat 64 va, d1 := BitVec.ofNat 32 slot } s
    | some (wide, words) =>
      if cached.isNone && dev == s.dev.devid && s.routineErrors.contains (ctx, slot) then .stops (machineCheck 1 key) s
      else
        let s1 := match routineUnit key with
          | some u => s.routineUsed { unit := u, dev := dev, ctx := ctx, slot := slot, wide := wide, words := words }
          | none => s
        if s1.lineErrors.contains (key / 128) then .stops (machineCheck 0 key) (s1.poison (key / 128)) else .runs wide words s1

/-- An invocation of this device's. -/
def State.invokeOwn (ctx slot va key : Nat) (s : State) : Invoked :=
  s.invoke s.dev.devid ctx slot va key (s.tableRoutine? ctx slot)

/-- The words that a lane receives with machine-check status, which the spec does not give: free values (log entry 66). -/
def checkWords (n : Nat) : List W32 := (List.range 4).map fun i => Config.checkWord (n + i)

/-- The line stands where its home holds it for a stitch (R214): in L2, or with no allocation. -/
def State.lineThere (s : State) (a : LaneAcc) : Bool :=
  !isLocal a.key || a.leaf.cp == 3 || (s.findLine? (homeUnit a.key) a.key).isSome

/-- The home has still to fill the line. -/
def State.lineComes (s : State) (key : Nat) : Bool := s.fills.any fun f => f.unit == homeUnit key && f.req.key / 128 == key / 128

/-- A lane's invocation stops, and its launch ends: zeros for a free slot, machine-check status else (R222). -/
def State.laneStops (p : Pend) (lane : Nat) (t : Trap) (s : State) : State :=
  let ws := if t.kind = 17 then checkWords s.free else []
  ({ s with free := s.free + ws.length }.faultAt p t).onGrp (Group.laneDone p.seq lane ws)

/-- STITCH_INVOCATION (R214): the request has reached the home; once the line and the routine are there, the line is held and the
routine runs. What stops it ends the launch (R222). -/
def execStitchInvocation (core slot gid seq lane : Nat) (s : State) : Out :=
  .next <| s.withFocus core slot gid fun s =>
    match s.run, s.grp.findPend? seq with
    | none, some p =>
      match p.kind with
      | .stch sl _ _ _ lanes =>
        match lanes.find? fun x => x.1.lane == lane with
        | none => s
        | some x =>
          let key := x.1.key
          if s.writeBefore seq (key / 128) || !s.served key then s
          else
            let ask := !p.asked.contains lane || (!s.lineThere x.1 && !s.lineComes key)
            let s1 := if ask then
                (s.requests p.stamp p.gcnt none true [x.1]).onGrp fun g => g.updPend seq fun p =>
                  { p with asked := if p.asked.contains lane then p.asked else p.asked ++ [lane] }
              else s
            if !s1.lineThere x.1 then s1
            else match s1.invokeOwn s1.team.ctx sl x.1.va key with
              | .stops t s2 => s2.laneStops p lane t
              | .runs wide code s2 =>
                let got := handsOf s2.team.ident (key / 128 * 128) 128 s2.rels
                let s3 := s2.onGrp fun g => g.updPend seq fun p => { p with got := p.got.join got }
                { s3 with run := some ((startRun s3.mem core slot gid seq lane s3.team.ctx key wide code x.2).ofSlot sl) }
      | _ => s
    | _, _ => s

/-- STCH_COMPLETE (R213, R234): every lane's words are written. All that is ordered before the STCH happens before a thread that forks later (13
R232). -/
def execStchComplete (core slot gid seq : Nat) (s : State) : Out :=
  .next <| (s.withFocus core slot gid fun s =>
    match s.grp.findPend? seq with
    | none => s
    | some p =>
      match p.kind with
      | .stch _ sc _ _ [] =>
        let fork := (s.stitchRel sc p).hand.near
        ((s.onGrp fun g => g.dropPend seq).acquireMem seq sc p.got).onGrp fun g => { g with fork := g.fork.join fork }
      | _ => s).reap

/-! ## STDEF, STREL (12 R212, R217, R218) -/

/-- The image of a routine. -/
def imageBytes (wide : Bool) (ws : List Nat) : List Byte :=
  leBytes 8 (1 + bit wide * 2 ^ 8 + (ws.length - 1) * 2 ^ 16) ++ ws.flatMap fun w => leBytes 4 w

/-- The bytes of a slot in the context's stitch table in memory (R216). -/
def tableCells (table slot : Nat) (bs : List Byte) : List Host.Cell := bs.mapIdx fun i b => (table + 128 * slot + i, b)

/-- A new context's table: zeros but for the standard routines, so that every other slot's header is zero. -/
def State.newTable (table : Nat) (s : State) : State :=
  let slot := fun i : Nat => tableCells table i (imageBytes (standardRoutine i).1 ((standardRoutine i).2.map encode))
  let m := s.mem.filter fun c => decide (c.1 < table ∨ table + 2 ^ 15 ≤ c.1)
  { s with mem := (List.range 32).foldl (fun m i => m.puts (slot i)) m }

/-- What installing an image does: the status, the detail, and the context's table (R217). -/
def State.install (ctx slot : Nat) (bytes : List Byte) (s : State) : Nat × Nat × State :=
  match checkImage bytes with
  | .inl d => (stVERIFY, d, s)
  | .inr (wide, ws) =>
    if !s.slotFree ctx slot then (stINUSE, 0x43, s)
    else match s.findCtx? ctx with
      | none => (stOK, 0, s)
      | some c => (stOK, 0, { s with mem := s.mem.puts (tableCells c.table slot (imageBytes wide ws)) })

/-- Every home here drops its copy of a routine (R218). -/
def State.dropRoutine (dev ctx slot : Nat) (s : State) : State :=
  { s with routines := s.routines.filter fun r => !(r.dev == dev && r.ctx == ctx && r.slot == slot) }

/-- A slot is free again (R218): its header is zero, and every home has dropped its copy. -/
def State.release (ctx slot : Nat) (s : State) : State :=
  match s.findCtx? ctx with
  | none => s
  | some c =>
    { s with mem := s.mem.puts (tableCells c.table slot (leBytes 8 0)) }.dropRoutine s.dev.devid ctx slot

/-- 23 R423. -/
def execStdef (d a b : SReg) (s : State) : Out :=
  let i := Instr.stdef d a b
  let img := (s.grp.S a.val).toNat
  let slot := (s.grp.S b.val).toNat
  let finish := fun (st det : Nat) (s : State) =>
    (s.onGrp fun g => (g.setS d.val (BitVec.ofNat 64 det)).setStat 0x81 st).finish s.grp.xm
  if s.holds i then .next (s.stay 0x81 i)
  else match s.grp.bounds i with
    | some t => .next (s.takeFault 0x81 t)
    | none =>
      if 255 < slot then .next (finish stVERIFY 0x42 s)
      else if img % 8 ≠ 0 then .next (s.takeFault 0x81 (onceAlign img))
      else if s.rangeWait img 8 then .next s
      else .next (s.onceThen 0x81 img 8 fun h s1 =>
        let n := imageLen (leNat h)
        if s1.rangeWait img n then s
        else s1.onceThen 0x81 img n fun bs s2 =>
          let r := s2.install s.team.ctx slot bs
          finish r.1 r.2.1 r.2.2)

/-- 23 R424, 12 R218: an invocation that holds a line ends first. -/
def execStrel (a : SReg) (s : State) : Out :=
  let slot := (s.grp.S a.val).toNat
  if s.run.isSome then .next (if s.holds (.strel a) then s.stay 0x82 (.strel a) else s)
  else onceOp 0x82 (.strel a) (fun s =>
    if slot < 32 ∨ 255 < slot then s.onGrp (Group.setStat 0x82 stDENIED)
    else (s.release s.team.ctx slot).onGrp (Group.setStat 0x82 stOK)) s

end Sys2Proof.Machine
end

