-- ==== Sys2Proof/Machine/Launch.lean ====
section
/-! DEFINITION. Machine/Launch.lean: launch records (16 R251 to R254), the launch checks (06 R116 to R118, R130, R131), cutting bands
(06 R119, R120), LAUNCH, opcode 0x0B (22 R367 to R369), and the start of child launches (06 R137). -/

namespace Sys2Proof.Machine

/-! ## Packet bytes -/

/-- The little-endian number in bytes [off, off + n). -/
def numAt (bs : List Byte) (off n : Nat) : Nat := leNat ((bs.drop off).take n)

/-- Packet headers (16 Table 16-2). -/
def pktType (h : Nat) : Nat := bits h 7 0
def pktLen (h : Nat) : Nat := bits h 15 8
def pktIc (h : Nat) : Bool := bitAt h 16
def pktBar (h : Nat) : Bool := bitAt h 17
def pktStop (h : Nat) : Bool := bitAt h 18
/-- The teams of a HARNESS packet by its LEN, 2 + 9·NT. -/
def harnessNt (len : Nat) : Nat := (len - 2) / 9
def lenOk (ty len : Nat) : Bool :=
  match ty with
  | 1 => len == 22
  | 2 => decide (2 ≤ harnessNt len) && decide (harnessNt len ≤ 8) && decide (len = 2 + 9 * harnessNt len)
  | 3 => len == 2
  | 4 => len == 2
  | 5 => len == 1
  | 6 => len == 2
  | 7 => decide (1 ≤ len)
  | _ => false

/-! ## What an empty core offers (16 R259) -/

/-- Whether a team for p points fits an empty core, and under PAIR its MAT groups make a gang (R118, 02 R37). -/
def Body.fits (b : Body) (p : Nat) : Bool :=
  let gs := mkGroups b p [] 0 0
  decide (b.gcnt p ≤ 32) && quads.all (fun q => decide (vNeed gs q ≤ 32)) && decide (sNeed gs ≤ 1024) &&
  (!b.pair || decide (2 * gs.countP (fun g => g.kind == .mat) ≤ 6))

/-! ## The SPACE record (16 Table 16-4) -/

def menuWord (bs : List Byte) (i : Nat) : Nat := numAt bs (0x20 + 4 * i) 4
def menuEntry (bs : List Byte) (i : Nat) : MenuEntry :=
  { sx := bits (menuWord bs i) 10 0, sy := bits (menuWord bs i) 21 11, order := bits (menuWord bs i) 23 22 }

def params (bs : List Byte) (off : Nat) : List W64 := (List.range 16).map fun j => BitVec.ofNat 64 (numAt bs (off + 8 * j) 8)

/-- The launch that a record describes, before its body is known. -/
def spaceLaunch (id queue ctx cell : Nat) (bs : List Byte) : Launch :=
  let xy := numAt bs 0x10 8
  let zw := numAt bs 0x18 8
  { id := id, queue := queue, ctx := ctx, cell := cell,
    x := bits xy 30 0, y := bits xy 62 32, z := bits zw 30 0, menu := (List.range (bits zw 34 32 + 1)).map (menuEntry bs),
    lag := bits zw 38 35, wd := bits zw 45 39, wl := bits zw 52 46, tail := bitAt zw 53, timed := bitAt zw 54, det := bitAt zw 55,
    cut := bits zw 57 56, cutAddr := numAt bs 0x40 8,
    shared := (List.range (bits zw 61 58)).map fun i => (numAt bs (0x60 + 16 * i) 8, numAt bs (0x68 + 16 * i) 8),
    seed := BitVec.ofNat 64 (numAt bs 0x48 8), signal := numAt bs 0x50 8, stop := pktStop (numAt bs 0 8) }

/-- The SPACE errors of a record (06 Table 6-2). -/
def spaceBad (l : Launch) (bs : List Byte) : Bool :=
  let zw := numAt bs 0x18 8
  let within := fun n : Nat => decide (1 ≤ n) && decide (n < 2 ^ 31)
  let entryOk := fun m : MenuEntry =>
    decide (1 ≤ m.sx) && decide (1 ≤ m.sy) && decide (m.sx * m.sy ≤ 1024) && decide (m.order ≤ 2)
  decide (numAt bs 0x08 8 / 2 ^ 53 ≠ 0) || bitAt (numAt bs 0x10 8) 31 || bitAt (numAt bs 0x10 8) 63 || bitAt zw 31 ||
  decide (bits zw 63 62 ≠ 0) || (List.range 8).any (fun i => decide (bits (menuWord bs i) 31 24 ≠ 0)) ||
  decide (numAt bs 0x58 8 ≠ 0) ||
  !within l.x || !within l.y || !within l.z || !l.menu.all entryOk ||
  (List.range 8).any (fun i => decide (l.menu.length ≤ i) && decide (menuWord bs i ≠ 0)) ||
  decide (l.lag < 1) || decide (8 < l.lag) || decide (64 < l.wd) || decide (64 < l.wl) || decide (l.cut = 3) ||
  decide (8 < bits zw 61 58) ||
  (List.range 8).any (fun i => decide (bits zw 61 58 ≤ i) && decide (numAt bs (0x60 + 16 * i) 16 ≠ 0)) ||
  ((l.cut == 1 || l.cut == 2) && decide (l.cutAddr % 16 ≠ 0))

/-- Two ranges share a byte. -/
def overlap (a b : Nat × Nat) : Bool := decide (a.1 < b.1 + b.2) && decide (b.1 < a.1 + a.2)
def pairwise (l : List (Nat × Nat)) : Bool :=
  match l with
  | [] => true
  | a :: l => l.all (fun b => !overlap a b) && pairwise l

/-- The DETCFG errors (R131, 02 R37). -/
def detBad (l : Launch) (b : Body) : Bool :=
  if l.det then
    (l.timed && l.cut != 2) || decide (b.dg < 4) ||
    l.shared.any (fun r => decide (r.1 % 128 ≠ 0) || decide (r.2 % 128 ≠ 0) || decide (r.2 < 128)) || !pairwise l.shared
  else !l.shared.isEmpty

/-! ## Cutting (R119) -/

/-- Where the cut stands: the slice, the remainder box's corner, the SERP count. -/
structure Cut where
  z : Nat := 0
  bx : Nat := 0
  by_ : Nat := 0
  sc : Nat := 0
  deriving DecidableEq, Repr

/-- Tiles of [a, n) of length w, with their starts. -/
def tiles (a n w : Nat) : List (Nat × Nat) := (List.range (ceilDiv (n - a) w)).map fun i => (a + i * w, Nat.min w (n - (a + i * w)))

/-- One band: the origins and extents of its pieces in order, and where the cut stands after it. -/
def cutBand (x y : Nat) (m : MenuEntry) (c : Cut) : List (Nat × Nat × Nat × Nat) × Cut :=
  if m.order = 1 then
    let w := Nat.min m.sx (x - c.bx)
    let ps := (tiles c.by_ y m.sy).map fun t => (c.bx, t.1, w, t.2)
    (ps, if c.bx + w = x then { z := c.z + 1 } else { c with bx := c.bx + w })
  else
    let h := Nat.min m.sy (y - c.by_)
    let ps := (tiles c.bx x m.sx).map fun t => (t.1, c.by_, t.2, h)
    let ps := if m.order = 2 ∧ c.sc % 2 = 1 then ps.reverse else ps
    let sc := if m.order = 2 then c.sc + 1 else c.sc
    (ps, if c.by_ + h = y then { z := c.z + 1 } else { c with by_ := c.by_ + h, sc := sc })

def Launch.cutAt (l : Launch) : Cut := { z := l.slice, bx := l.bx, by_ := l.by_, sc := l.sc }

/-! ## Replay records (R130) -/

/-- Check the band entries of a record from band b on, and collect them. -/
def replayFrom (l : Launch) (addr : Nat) : Nat → Nat → Nat → Cut → State → Reach (List Nat)
  | 0, _, _, c, s => if c.z = l.z then .ok [] s else .fails
  | n + 1, b, first, c, s =>
    if c.z = l.z then .fails
    else (s.readCtx l.ctx (addr + 16 * (b + 1)) 16).bind fun bs s =>
      let e := numAt bs 0 8
      match l.menu[bits e 2 0]? with
      | none => .fails
      | some m =>
        if e / 16 ≠ 0 ∨ numAt bs 8 8 ≠ first then .fails
        else
          let r := cutBand l.x l.y m c
          (replayFrom l addr n (b + 1) (first + r.1.length) r.2 s).bind fun es s => .ok (bits e 2 0 :: es) s

def replayRead (l : Launch) (addr : Nat) (s : State) : Reach (List Nat) :=
  (s.readCtx l.ctx addr 16).bind fun bs s =>
    let h := numAt bs 0 8
    if bits h 15 0 ≠ 1 ∨ bits h 31 19 ≠ 0 ∨ bits h 18 16 + 1 ≠ l.menu.length ∨ l.z * (l.x + l.y - 1) < numAt bs 8 8 then .fails
    else replayFrom l addr (numAt bs 8 8) 0 0 {} s

/-! ## The launch checks -/

/-- The body at an address as the Skiver reads it. -/
def readBodyAt (ctx addr : Nat) (s : State) : Reach Body :=
  if addr % 64 ≠ 0 then .fails
  else (s.readCtx ctx addr 64).bind fun bs s => match parseBody addr bs with
    | some b => .ok b s
    | none => .fails

/-- Hand a launch to the Skiver: it has its place in the order of acceptance (16 R259). -/
def State.addLaunch (l : Launch) (s : State) : State :=
  { s with launches := s.launches ++ [{ l with seq := s.nextAccept }], nextAccept := s.nextAccept + 1 }

/-- A SPACE record: its checks, and its launch, handed over or failed with the first error of Table 6-2; none where a read has to wait. -/
def acceptSpace (id queue ctx cell : Nat) (parent : Option (Nat × Nat × Nat)) (cutload : Option Nat) (bs : List Byte) (s : State) :
    Option State :=
  let l0 := { spaceLaunch id queue ctx cell bs with parent := parent }
  let l := match cutload with
    | some a => if l0.cut = 3 then l0 else { l0 with cut := 2, cutAddr := a }
    | none => l0
  let fail := fun (code : Nat) (s : State) => some (s.addLaunch { l with status := some code })
  match readBodyAt ctx (numAt bs 0x08 8 % 2 ^ 53) s with
  | .waits => none
  | .fails => fail 1 s
  | .ok b s =>
    if spaceBad l bs then fail 2 s
    else if !l.menu.all (fun m => b.fits (m.sx * m.sy)) then fail 3 s
    else if detBad l b then fail 4 s
    else
      let go := { l with bodies := [(b, params bs 0xE0)] }
      if l.cut = 2 then
        match replayRead l l.cutAddr s with
        | .waits => none
        | .fails => fail 5 s
        | .ok es s => some (s.addLaunch { go with replay := some es })
      else some (s.addLaunch go)

/-- The bodies of a harness. -/
def harnessBodies (ctx : Nat) (bs : List Byte) : List Nat → State → Reach (List (Body × List W64))
  | [], s => .ok [] s
  | i :: is, s =>
    (readBodyAt ctx (numAt bs (0x20 + 0x90 * i) 8) s).bind fun b s =>
      if b.hasPts || b.pair then .fails
      else (harnessBodies ctx bs is s).bind fun r s => .ok ((b, params bs (0x28 + 0x90 * i)) :: r) s

/-- A HARNESS record (16 R254). Its one dispatch is the pseudo-piece 0. -/
def acceptHarness (id queue ctx cell : Nat) (parent : Option (Nat × Nat × Nat)) (bs : List Byte) (s : State) : Option State :=
  let nt := harnessNt (pktLen (numAt bs 0 8))
  let l : Launch := { id := id, queue := queue, ctx := ctx, cell := cell, harness := true, signal := numAt bs 0x10 8,
                      seed := BitVec.ofNat 64 (numAt bs 0x18 8), stop := pktStop (numAt bs 0 8), parent := parent }
  match harnessBodies ctx bs (List.range nt) s with
  | .waits => none
  | .fails => some (s.addLaunch { l with status := some 1 })
  | .ok bodies s =>
    if !bodies.all (fun b => b.1.fits 0) then some (s.addLaunch { l with status := some 3 })
    else some (s.addLaunch { l with bodies := bodies, cutq := [{}], nextIdx := nt })

/-- A record of either type. -/
def acceptRecord (id queue ctx cell : Nat) (parent : Option (Nat × Nat × Nat)) (cutload : Option Nat) (bs : List Byte) (s : State) :
    Option State :=
  if pktType (numAt bs 0 8) = 1 then acceptSpace id queue ctx cell parent cutload bs s
  else acceptHarness id queue ctx cell parent bs s

/-- IC: the cell's instruction caches (03 R73). -/
def State.dropIcache (cell : Nat) (s : State) : State :=
  match s.findCell? cell with
  | none => s
  | some c => s.mapCores fun k => if c.clusters.contains (k.id / 8) then { k with icache := [] } else k

/-! ## Children (R137, 22 R368) -/

def State.cellChildren (s : State) (cell : Nat) : Nat := s.children.countP fun c => c.cell == cell

/-- Create a child from a record's bytes. -/
def State.addChild (k i : Nat) (bs : List Byte) (l : Launch) (s : State) : State :=
  { s with children := s.children ++ [{ id := s.nextLaunch, queue := l.queue, ctx := l.ctx, cell := l.cell, parent := l.id, k := k, i := i,
                                        bytes := bs }],
           nextLaunch := s.nextLaunch + 1 }

def launchHeaderOk (h : Nat) : Bool := (pktType h == 1 || pktType h == 2) && lenOk (pktType h) (pktLen h) && decide (h / 2 ^ 19 = 0)

/-- NT of the record agrees with its LEN (R368). -/
def ntOk (bs : List Byte) : Bool := pktType (numAt bs 0 8) != 2 || numAt bs 8 1 % 16 == harnessNt (pktLen (numAt bs 0 8))

/-- One more LAUNCH of the piece has written OK. -/
def State.countLaunch (s : State) : State :=
  s.mapTeams fun t => if t.live && t.launch == s.team.launch && t.piece.idx == s.team.piece.idx then { t with nlaunch := t.nlaunch + 1 } else t

/-- The effect of LAUNCH once its record has been read. Under DET the record is held, and its child is created when the piece commits; a
piece past its overflow has no commit area, and its records take no slots (06 R135, 22 R369). S[D] takes the number of LAUNCHes of the
piece that wrote OK before this one, in the order in which they executed (log entry 41). -/
def launchDo (d : SReg) (bs : List Byte) (s0 s : State) : State :=
  let stat := fun (c : Nat) (s : State) => (s.onGrp (Group.setStat 0x0B c)).finish s.grp.xm
  let i := s.team.nlaunch
  let ok := fun s : State => stat stOK (s.countLaunch.onGrp fun g => g.setS d.val (BitVec.ofNat 64 i))
  let need := if s.team.through then 0 else ceilDiv bs.length 128
  if !ntOk bs then stat stDENIED s
  else match s.findLaunch? s.team.launch with
    | none => s
    | some l =>
      if s.team.det then
        if s.overflows need then s0
        else ok (s.hold 0x0B need none none [({ lane := 0, va := 0, key := 0, leaf := noLeaf }, .child bs)])
      else if 65535 ≤ i ∨ 256 ≤ s.cellChildren l.cell then stat stNORES s
      else ok (s.addChild s.team.piece.idx i bs l)

/-- 22 R368, R369. -/
def execLaunch (d a : SReg) (s : State) : Out :=
  let i := Instr.launch d a
  let r := (s.grp.S a.val).toNat
  if s.holds i then .next (s.stay 0x0B i)
  else match s.grp.bounds i with
    | some t => .next (s.takeFault 0x0B t)
    | none =>
      if r % 64 ≠ 0 then .next (s.takeFault 0x0B (onceAlign r))
      else if !s.releaseReady .device || s.rangeWait r 8 then .next s
      else .next (s.onceThen 0x0B r 8 fun h s1 =>
        if !launchHeaderOk (leNat h) then (s1.onGrp (Group.setStat 0x0B stDENIED)).finish s1.grp.xm
        else
          let n := 16 * pktLen (leNat h)
          if s1.rangeWait r n then s
          else s1.onceThen 0x0B r n fun bs s2 => launchDo d bs s s2)

/-- The launch is in a saved context (17 R280). -/
def State.isSaved (s : State) (launch : Nat) : Bool := s.images.any fun m => m.launches.contains launch

/-- Launches resident on a cell. -/
def State.resident (s : State) (cell : Nat) : List Launch := s.launches.filter fun l => l.cell == cell && !s.isSaved l.id

/-- The cell may run work of a context: it runs no other's, and is not held (16 R258, 17 R277). -/
def State.mayRun (s : State) (k : CellSt) (ctx : Nat) : Bool :=
  !k.halting && (k.ctx == some ctx || k.ctx == none || (s.resident k.id).all fun l => l.ctx == ctx)

/-- Whether the piece that made a child has committed, or its launch has ended; without DET there is nothing to commit (R137). -/
def State.pieceDone (s : State) (parent k : Nat) : Bool :=
  match s.findLaunch? parent with
  | some l => !l.det || decide (k < l.committed)
  | none => true

/-- The launch is ending, or failed its checks. -/
def Launch.ends (l : Launch) : Bool := l.fault.isSome || l.status.isSome

/-- A child may be handed over before its piece has committed only where the commit waits for that: the cell holds 256 children, and the
child is one of those that the commit under way has created (22 R369; log entry 41). None of a launch under DET that is ending starts (17
R275). -/
def State.childDue (s : State) (c : Child) : Bool :=
  (s.pieceDone c.parent c.k || decide (256 ≤ s.cellChildren c.cell)) && match s.findLaunch? c.parent with
    | some l => !(l.det && l.ends)
    | none => true

/-- CHILD_LAUNCH_START (R137, 22 R368): the queue's first child that waits is accepted, ahead of the queue's next packet. -/
def execChildLaunchStart (launch : Nat) (s : State) : Out :=
  .next <| match s.children.find? fun c => c.id == launch with
    | none => s
    | some c =>
      let h := numAt c.bytes 0 8
      let first := (s.children.find? fun x => x.queue == c.queue).map (·.id) == some launch
      let earlier := s.launches.any fun l => l.queue == c.queue && decide (l.id < launch)
      match s.findCell? c.cell with
      | none => s
      | some k =>
        if !first || !s.childDue c || !s.mayRun k c.ctx || (pktBar h && !c.lost && earlier) then s
        else
          let s1 := if pktIc h then s.dropIcache c.cell else s
          let s2 := { s1 with children := s1.children.filter fun x => x.id != launch }
          match acceptRecord launch c.queue c.ctx c.cell (some (c.parent, c.k, c.i)) none c.bytes
              ((s2.bindCtx c.ctx).onCell c.cell fun k => { k with ctx := some c.ctx }) with
          | none => s
          | some s3 => if c.lost then s3.onLaunch launch fun l => { l with status := some (l.status.getD 8) } else s3

end Sys2Proof.Machine
end

