-- ==== Sys2Proof/Machine/Matrix.lean ====
section
/-! DEFINITION. Machine/Matrix.lean: the matrix engine, opcodes 0x90 to 0x93 (10 R185 to R204), the rendezvous, and the events that
complete matrix operations. -/

namespace Sys2Proof

open Machine

/-! ## Formats (Table 10-3) and layouts (R195) -/

def MFmt.isLx : MFmt → Bool
  | .lx2e4m3 => true | .lx2bf16 => true | _ => false
/-- Width of an A element; of an LX2 index. -/
def MFmt.aw : MFmt → Nat
  | .f64 => 8 | .f32 => 4 | .bf16 => 2 | .f16 => 2 | .e4m3 => 1 | .e5m2 => 1 | .e4m3e5m2 => 1 | .e5m2e4m3 => 1 | .i8 => 1
  | .lx2e4m3 => 2 | .lx2bf16 => 2
def MFmt.bw : MFmt → Nat
  | .f64 => 8 | .f32 => 4 | .bf16 => 2 | .f16 => 2 | .e4m3 => 1 | .e5m2 => 1 | .e4m3e5m2 => 1 | .e5m2e4m3 => 1 | .i8 => 1
  | .lx2e4m3 => 1 | .lx2bf16 => 2
/-- Values of k in one step. -/
def MFmt.kb : MFmt → Nat
  | .f64 => 4 | .f32 => 8 | .bf16 => 16 | .f16 => 16 | .e4m3 => 32 | .e5m2 => 32 | .e4m3e5m2 => 32 | .e5m2e4m3 => 32 | .i8 => 32
  | .lx2e4m3 => 32 | .lx2bf16 => 32
/-- Lanes that hold one column's chunk. -/
def MFmt.lpc (f : MFmt) : Nat := f.kb * f.bw / 4
def MFmt.cpr (f : MFmt) : Nat := 32 / f.lpc
/-- Registers that hold one step. -/
def MFmt.nb (f : MFmt) (n m : Nat) : Nat := ceilDiv (ceilDiv n m) f.cpr
/-- The value of an A element that is no LX2 weight, and of a B element. -/
def MFmt.aVal (f : MFmt) (x : Nat) : FVal :=
  match f with
  | .f64 => F64.val x | .f32 => F32.val x | .bf16 => BF16.val x | .f16 => F16.val x
  | .e4m3 => E4M3.val x | .e5m2 => E5M2.val x | .e4m3e5m2 => E4M3.val x | .e5m2e4m3 => E5M2.val x
  | .i8 => intVal (sext 8 x) | .lx2e4m3 => .nan false | .lx2bf16 => .nan false
def MFmt.bVal (f : MFmt) (x : Nat) : FVal :=
  match f with
  | .f64 => F64.val x | .f32 => F32.val x | .bf16 => BF16.val x | .f16 => F16.val x
  | .e4m3 => E4M3.val x | .e5m2 => E5M2.val x | .e4m3e5m2 => E5M2.val x | .e5m2e4m3 => E4M3.val x
  | .i8 => intVal (sext 8 x) | .lx2e4m3 => E4M3.val x | .lx2bf16 => BF16.val x
/-- B is scaled where scales apply, but for LX2 by BF16. -/
def MFmt.bScaled (f : MFmt) : Bool := f != .lx2bf16
/-- Registers of one accumulator column. -/
def MFmt.accRegs (f : MFmt) : Nat := if f == .f64 then 2 else 1

/-- Width of an element of MDRAIN (R203). -/
def DrainCt.w : DrainCt → Nat
  | .f32 => 4 | .bf16 => 2 | .f64 => 8

end Sys2Proof

namespace Sys2Proof.Machine

/-! ## The configuration word (Table 10-2) -/

structure MCfg where
  n : Nat
  ks : Nat
  ta : Bool
  tb : Bool
  rs : Nat
  deriving DecidableEq, Repr

def mcfg (w : Nat) : MCfg := { n := bits w 8 0, ks := bits w 11 9 + 1, ta := bitAt w 12, tb := bitAt w 13, rs := bits w 33 14 }

/-- The word keeps Table 10-2 for a gang of m members; `scaled` where an MMA's scales apply. -/
def mcfgOk (f : MFmt) (m : Nat) (scaled : Bool) (w : Nat) : Bool :=
  let c := mcfg w
  decide (1 ≤ c.n) && decide (c.n ≤ if f == .f64 then 192 else if 5 ≤ m then 384 else 256) &&
  (!scaled || decide (c.ks ≤ 4)) && !(c.ta && f.isLx) && decide (w / 2 ^ 42 = 0)

/-! ## Gangs (R185, R186) -/

def gangLe (a b : Nat × Nat × Nat) : Bool := if a.1 ≠ b.1 then decide (a.1 < b.1) else decide (a.2.2 ≤ b.2.2)

/-- The gang set of a group in rank order, as core, team slot and GID. A pair's cores are c and c + 1, so core order is parity
order. -/
def State.gangSet (s : State) (g : Group) : List (Nat × Nat × Nat) :=
  match s.findTeam? g.core g.slot with
  | none => []
  | some t =>
    let other := match s.partnerOf? t with
      | some x => (x.core, x.slot)
      | none => (t.core ^^^ 1, t.slot)
    sortBy gangLe ((buckleBits g.buckle).map fun x => if x.1 then (t.core, t.slot, x.2) else (other.1, other.2, x.2))

def Group.ref (g : Group) : Nat × Nat × Nat := (g.core, g.slot, g.gid)
def State.groupAt? (s : State) (r : Nat × Nat × Nat) : Option Group := s.findGroup? r.1 r.2.1 r.2.2

/-- R185: what makes a buckle value a gang fault. -/
def State.buckleBad (s : State) (v : W64) : Bool :=
  let t := s.team
  let own := lanesOf (v.setWidth 32)
  let par := lanesOf ((v >>> 32).setWidth 32)
  let n := own.length + par.length
  let p := s.partner?
  let bad := fun (x : Option Team) (gs : List Nat) =>
    decide (4 < gs.length) || decide ((uniq (gs.map (· % 4))).length < gs.length) ||
    gs.any fun g => match x with
      | none => true
      | some x => decide (x.gcnt ≤ g) || match s.findGroup? x.core x.slot g with
        | some y => y.kind != .mat
        | none => true
  decide (n < 2) || decide (6 < n) || !own.contains s.grp.gid || (!par.isEmpty && !t.body.pair) || bad (some t) own || bad p par ||
  (decide (5 ≤ n) && par.isEmpty) || (decide (n ≤ 4) && !par.isEmpty)

/-- 10 R185. -/
def execMgang (a : SReg) (s : State) : Out :=
  classOp 0x90 (.mgang a) .mat .m (fun s =>
    match s.grp.bounds (.mgang a) with
    | some t => s.takeFault 0x90 t
    | none =>
      let v := s.grp.S a.val
      if s.buckleBad v then s.takeFault 0x90 { kind := 14, cause := 0, d0 := v }
      else (s.onGrp fun g => { g with buckle := v }).finish s.grp.xm) s

def Group.gangTrap (g : Group) (cause : Nat) : Trap := { kind := 14, cause := cause, d0 := g.buckle }

/-! ## What the checks before issue share -/

/-- The first register of these ranges beyond the cap (R198). -/
def Group.rangeTrap (g : Group) (rs : List (Nat × Nat)) : Option Trap :=
  (rs.find? fun r => decide (0 < r.2) && decide (g.vcap < r.1 + r.2)).map fun r =>
    { kind := 12, cause := 0, d0 := BitVec.ofNat 64 (Nat.max r.1 g.vcap), d1 := BitVec.ofNat 32 g.vcap }

/-- The elements that lanes or rows touch, as (lane, offset): those that fail, as a trap. -/
def elemTrap (kind : Nat) (sp : Space) (bad : Nat → Bool) (es : List (Nat × Nat)) : Option Trap :=
  let fs := es.filter fun e => bad e.2
  match fs.map (·.1) with
  | [] => none
  | l :: ls =>
    let low := ls.foldl Nat.min l
    some { kind := kind, cause := Space.code sp, d1 := maskOf (l :: ls),
           d0 := BitVec.ofNat 64 (((fs.find? fun e => e.1 == low).map (·.2)).getD 0) }

/-- Alignment, then bounds, of a buffer's elements. -/
def State.elemTraps (s : State) (sp : Space) (w : Nat) (es : List (Nat × Nat)) : Option Trap :=
  match elemTrap 10 sp (fun a => a % w ≠ 0) es with
  | some t => some t
  | none => elemTrap 11 sp (fun a => decide (s.spaceSize sp < a + w)) es

/-- The same for a matrix operand: its offset and its row stride have to be aligned, whatever elements are read (R196); where every
element is aligned all the same, the detail is 0 (log entry 63). -/
def State.tileTraps (s : State) (sp : Space) (w off rs : Nat) (es : List (Nat × Nat)) : Option Trap :=
  if off % w ≠ 0 ∨ rs % w ≠ 0 then
    some ((elemTrap 10 sp (fun a => a % w ≠ 0) es).getD { kind := 10, cause := Space.code sp })
  else elemTrap 11 sp (fun a => decide (s.spaceSize sp < a + w)) es

def rangeKeys (rs : List (Nat × Nat)) : List Nat := rs.flatMap fun r => (List.range r.2).map fun i => kV (r.1 + i)

/-! ## MMA (R192, R196 to R199) -/

/-- The buffer that an A address word names (Table 10-1). -/
def aSpace (w : Nat) : Option Space :=
  match bits w 22 20 with
  | 1 => some .w
  | 2 => some .a
  | _ => none
def aOff (w : Nat) : Nat := bits w 19 0

/-- A elements of a member: row and offset; an LX2 index once for its eight weights. -/
def aElems (f : MFmt) (c : MCfg) (off : Nat) : List (Nat × Nat) :=
  let k := f.kb * c.ks
  (List.range 32).flatMap fun i =>
    if f.isLx then (List.range (k / 8)).map fun j => (i, off + i * c.rs + 2 * j)
    else (List.range k).map fun j => (i, if c.ta then off + j * c.rs + i * f.aw else off + i * c.rs + j * f.aw)

def accRange (f : MFmt) (c : VReg) (n : Nat) : Nat × Nat := (c.val, n * f.accRegs)

/-- The ranges of R198, step 5. -/
def mmaRanges (f : MFmt) (sc : Option (VReg × Fin 4)) (c bv : VReg) (m : Nat) (k : MCfg) : List (Nat × Nat) :=
  [accRange f c k.n, (bv.val, k.ks * f.nb k.n m)] ++
  match sc with
  | some (sv, _) => [(sv.val, m + if f.bScaled then ceilDiv k.n 32 else 0)]
  | none => []

/-- The checks of R198 after the encoding, in order. -/
def State.mmaTrap (s : State) (i : Instr) (f : MFmt) (sc : Option (VReg × Fin 4)) (c bv : VReg) (ds : SReg) : Option Trap :=
  let g := s.grp
  let aw := (g.S ds.val).toNat
  let cw := (g.S (ds.val + 1)).toNat
  let k := mcfg cw
  let m := (s.gangSet g).length
  match g.bounds i with
  | some t => some t
  | none =>
    if g.buckle = 0 then some (g.gangTrap 1)
    else match aSpace aw with
      | none => some (g.gangTrap 2)
      | some sp =>
        if aw / 2 ^ 23 ≠ 0 ∨ !mcfgOk f m sc.isSome cw then some (g.gangTrap 2)
        else match g.rangeTrap (mmaRanges f sc c bv m k) with
          | some t => some t
          | none => s.tileTraps sp f.aw (aOff aw) k.rs (aElems f k (aOff aw))

/-- Scoreboard keys that a member's MMA reads and writes (R201); that its flags accumulate is no dependence (03 R59). -/
def mmaUses (f : MFmt) (sc : Option (VReg × Fin 4)) (zc : Bool) (c bv : VReg) (ds : SReg) (m : Nat) (k : MCfg) :
    List Nat × List Nat :=
  let acc := rangeKeys [accRange f c k.n]
  ([kS ds.val, kS (ds.val + 1)] ++ rangeKeys ((mmaRanges f sc c bv m k).drop 1) ++ (if zc then [] else acc),
   acc)

/-- The key of the flags that it accumulates until it completes. -/
def mmaAccKeys (f : MFmt) : List Nat := if f == .i8 then [] else [kAcc]

/-- Arrivals agree (R188). -/
def Latch.agrees (a b : Latch) : Bool :=
  a.fmt == b.fmt && a.scale == b.scale && a.zc == b.zc && a.c == b.c && a.bv == b.bv && a.ds == b.ds

/-- A latched group disagrees with the arrival of the group in focus: a member of its gang set, or one that awaits it, with another
word, configuration or gang set (R188, R189). -/
def State.disagrees (s : State) (l : Latch) : Bool :=
  let mine := s.gangSet s.grp
  let cfg := s.grp.S (l.ds.val + 1)
  s.allGroups.any fun g =>
    g.live && g.susp == .latched &&
    match g.latch with
    | none => false
    | some k =>
      let its := s.gangSet g
      (mine.contains g.ref || its.contains s.grp.ref) &&
        !(k.agrees l && g.S (k.ds.val + 1) == cfg && its == mine)

/-- 10 R198, R188: the checks, the scoreboard, and the arrival at the latch. -/
def execMma (la : Fin 16) (f : MFmt) (sc : Option (VReg × Fin 4)) (zc : Bool) (c bv : VReg) (ds : SReg) (s : State) : Out :=
  let i := Instr.mma la f sc zc c bv ds
  classOp 0x91 i .mat .m (fun s =>
    match s.mmaTrap i f sc c bv ds with
    | some t => s.takeFault 0x91 t
    | none =>
      let l : Latch := { la := la.val, fmt := f, scale := sc, zc := zc, c := c, bv := bv, ds := ds }
      let u := mmaUses f sc zc c bv ds (s.gangSet s.grp).length (mcfg (s.grp.S (ds.val + 1)).toNat)
      if s.grp.pend.any (dependsOn u.1 u.2) then s.stayOn 0x91 u.1 u.2
      else if s.resizing && aSpace (s.grp.S ds.val).toNat == some .a then s
      else if s.disagrees l then s.takeFault 0x91 (s.grp.gangTrap 3)
      else s.onGrp fun g => { g with susp := .latched, latch := some l }) s

/-! ## The effect of an MMA -/

/-- A byte of a team's W- or A-buffer. -/
def Team.bufByte (t : Team) (sp : Space) (off : Nat) : Byte :=
  match sp with
  | .w => mapGet 0 t.wbuf off
  | .a => mapGet 0 t.abuf off
  | .d => mapGet 0 t.dbuf off
  | .glob => 0
  | .priv => 0
def Team.bufNat (t : Team) (sp : Space) (off n : Nat) : Nat := leNat ((List.range n).map fun i => t.bufByte sp (off + i))

/-- Byte `b` of a V register in a lane. -/
def Group.vByte (g : Group) (r l b : Nat) : Nat := (g.V r l).toNat / 2 ^ (8 * b) % 256

/-- The scale byte of block j. -/
def scaleAt (g : Group) (r l : Nat) (bsel : Fin 4) (j : Nat) : FVal := E5M3.val (g.vByte r l ((bsel.val + j) % 4))

/-- A element (i, k) of member q, scaled where scales apply (R196, R197). -/
def aElem (l : Latch) (t : Team) (g : Group) (q i k : Nat) : FVal :=
  let w := (g.S l.ds.val).toNat
  let c := mcfg (g.S (l.ds.val + 1)).toNat
  let sp := (aSpace w).getD .w
  let off := aOff w
  let x := if l.fmt.isLx then (lx2Weights (t.bufNat sp (off + i * c.rs + 2 * (k / 8)) 2)).getD (k % 8) (.nan false)
    else l.fmt.aVal (t.bufNat sp (if c.ta then off + k * c.rs + i * l.fmt.aw else off + i * c.rs + k * l.fmt.aw) l.fmt.aw)
  match l.scale with
  | some (sv, bsel) => scaledElem x (scaleAt g (sv.val + q) i bsel (k / 32))
  | none => x

/-- B element (k, c): column c lies in member c mod m (R195, R197). -/
def bElem (l : Latch) (ms : List Group) (n k c : Nat) : FVal :=
  let m := ms.length
  let g := ms.getD (c % m) {}
  let j := c / m
  let f := l.fmt
  let reg := l.bv.val + k / f.kb * f.nb n m + j / f.cpr
  let lane := j % f.cpr * f.lpc
  let at_ := k % f.kb * f.bw
  let raw := leNat ((List.range f.bw).map fun b => BitVec.ofNat 8 (g.vByte reg (lane + (at_ + b) / 4) ((at_ + b) % 4)))
  let x := f.bVal raw
  match l.scale with
  | some (sv, bsel) => if f.bScaled then scaledElem x (scaleAt g (sv.val + m + c / 32) (c % 32) bsel (k / 32)) else x
  | none => x

/-- The integer that a value of an I8 element stands for. -/
def FVal.toInt : FVal → Int
  | .fin neg m _ => if neg then -(m : Int) else m
  | _ => 0

/-- Accumulator (i, c) after the MMA (R199, 05 R110). -/
def mmaAcc (l : Latch) (as bs : List FVal) (old : Nat) : Nat × Nat :=
  let ps := as.zip bs
  match l.fmt with
  | .i8 => (wrap 32 ((if l.zc then 0 else (old : Int)) + (ps.map fun p => p.1.toInt * p.2.toInt).foldl (· + ·) 0), 0)
  | f =>
    let fmt := if f == .f64 then F64 else F32
    let c := if l.zc then FVal.fin false 0 0 else fmt.val old
    fmt.sum .rne (c.term :: ps.map fun p => prodTerm p.1 p.2)

/-- A member's results: the rows of its tile and their flags. -/
def mmaResults (l : Latch) (t : Team) (ms : List Group) (q : Nat) (g : Group) : Results :=
  let k := mcfg (g.S (l.ds.val + 1)).toNat
  let kt := l.fmt.kb * k.ks
  let wide := l.fmt == .f64
  let cols := (List.range k.n).map fun c => (List.range kt).map fun j => bElem l ms k.n j c
  let rs := allLanes.flatMap fun i =>
    let as := (List.range kt).map fun j => aElem l t g q i j
    cols.zipIdx.map fun x =>
      let r := l.c.val + x.2 * l.fmt.accRegs
      let old := if wide then (g.V64 r i).toNat else (g.V r i).toNat
      let y := mmaAcc l as x.1 old
      (vres wide r i y.1, y.2)
  { v := rs.flatMap (·.1), s := [], flags := rs.foldl (fun m r => m ||| r.2) 0 }

/-- Issue in one member: its counts, its reuse clock, its results until they are written (R199). -/
def mmaIssue (ms : List Group) (q : Nat) (g : Group) (s : State) : State :=
  match g.latch with
  | none => s
  | some l =>
    s.withFocus g.core g.slot g.gid fun s =>
      let w := (g.S l.ds.val).toNat
      let k := mcfg (g.S (l.ds.val + 1)).toNat
      let u := mmaUses l.fmt l.scale l.zc l.c l.bv l.ds ms.length k
      let es := (aElems l.fmt k (aOff w)).map (·.2)
      let s1 := (s.addL (unitCount .w l.fmt.aw es)).advanceClock
      let s2 := s1.post { Pend.new 0x91 (.mma (mmaResults l s.team ms q g)) with
        count := some .matrix, window := true, left := l.la + 1, reads := u.1, writes := u.2 ++ mmaAccKeys l.fmt, stamp := s1.stamp }
      (s2.finish s.grp.xm).onGrp fun g => { g with susp := .ready, latch := none }

/-- Members issue in one cycle, so that the reuse clocks advance in increasing quadrant number (09 R174). -/
def mmaOrder (ms : List (Group × Nat)) : List (Group × Nat) := sortBy (fun a b => decide (a.1.gid % 4 ≤ b.1.gid % 4)) ms

/-- A member's cell is being halted, which stops the gang at its slots (R191, 17 R277), or a member reads an A-buffer whose team waits at a
RESIZE (08 R160). -/
def State.gangStopped (s : State) (ms : List Group) : Bool :=
  ms.any fun m =>
    (match cellOfCore s m.core with
     | some c => c.halting
     | none => false) ||
    (match m.latch with
     | some l => aSpace (m.S l.ds.val).toNat == some .a
     | none => false) && s.allGroups.any fun g => g.live && g.core == m.core && g.slot == m.slot && g.resizing

/-- An earlier load of a latched member has not bound a byte that its A read takes (13 R229, R232). -/
def Group.aBehind (g : Group) : Bool :=
  match g.latch with
  | none => false
  | some l =>
    let w := (g.S l.ds.val).toNat
    let es := aElems l.fmt (mcfg (g.S (l.ds.val + 1)).toNat) (aOff w)
    g.pend.any fun p => es.any fun e => p.loads 0 (bufBase ((aSpace w).getD .w) + e.2) l.fmt.aw

/-- MMA_RENDEZVOUS (R188): when every member of the gang set is latched, the MMA issues in all of them. -/
def execMmaRendezvous (core slot gid : Nat) (s : State) : Out :=
  .next <| match s.findGroup? core slot gid with
    | none => s
    | some g =>
      let ms := (s.gangSet g).map s.groupAt?
      match allSome ms with
      | none => s
      | some ms =>
        if g.susp == .latched && (ms.all fun x => x.susp == .latched && !x.aBehind) && !s.gangStopped ms then
          (mmaOrder ms.zipIdx).foldl (fun t x => mmaIssue ms x.2 x.1 t) s
        else s

/-- MATRIX_COMPLETE: the accumulators and flags are written (Table 3-2). -/
def execMatrixComplete (core slot gid seq : Nat) (s : State) : Out :=
  .next <| s.withFocus core slot gid fun s =>
    match s.grp.findPend? seq with
    | none => s
    | some p =>
      match p.kind with
      | .mma res => s.onGrp fun g => (g.apply res).dropPend seq
      | _ => s

/-! ## MLDB (R202) -/

/-- Offset of element k of column c. -/
def bOff (f : MFmt) (c : MCfg) (off k col : Nat) : Nat :=
  if c.tb then off + col * c.rs + k * f.bw else off + k * c.rs + col * f.bw

/-- What register r of step s takes in a lane: the offsets of its four bytes; nothing for a lane without a column. -/
def mldbLane (f : MFmt) (c : MCfg) (off q m s r l : Nat) : List Nat :=
  let u := l / f.lpc
  let i := l % f.lpc
  let col := (r * f.cpr + u) * m + q
  if col < c.n then
    (List.range 4).map fun b =>
      let j := 4 * i + b
      bOff f c off (s * f.kb + j / f.bw) col + j % f.bw
  else []

/-- All registers and lanes, with the offsets they take. -/
def mldbParts (f : MFmt) (c : MCfg) (off q m : Nat) (bv : VReg) : List (Nat × List Nat) :=
  (List.range c.ks).flatMap fun s => (List.range (f.nb c.n m)).flatMap fun r =>
    allLanes.map fun l => (32 * (bv.val + s * f.nb c.n m + r) + l, mldbLane f c off q m s r l)

/-- The elements that each lane touches. -/
def mldbElems (f : MFmt) (c : MCfg) (off q m : Nat) : List (Nat × Nat) :=
  (List.range c.ks).flatMap fun s => (List.range (f.nb c.n m)).flatMap fun r =>
    allLanes.flatMap fun l =>
      let i := l % f.lpc
      let col := (r * f.cpr + l / f.lpc) * m + q
      if col < c.n then
        (List.range (Nat.max 1 (4 / f.bw))).map fun e => (l, bOff f c off (s * f.kb + 4 * i / f.bw + e) col)
      else []

def State.mldbTrap (s : State) (i : Instr) (f : MFmt) (sp : Space) (bv : VReg) (ds : SReg) (q : Nat) : Option Trap :=
  let g := s.grp
  let aw := (g.S ds.val).toNat
  let cw := (g.S (ds.val + 1)).toNat
  let k := mcfg cw
  let m := (s.gangSet g).length
  match g.bounds i with
  | some t => some t
  | none =>
    if g.buckle = 0 then some (g.gangTrap 1)
    else if aw / 2 ^ 20 ≠ 0 ∨ !mcfgOk f m false cw then some (g.gangTrap 2)
    else match g.rangeTrap [(bv.val, k.ks * f.nb k.n m)] with
      | some t => some t
      | none => s.tileTraps sp f.bw aw k.rs (mldbElems f k aw q m)

/-- 10 R202. -/
def execMldb (la : Fin 16) (f : MFmt) (fromA : Bool) (bv : VReg) (ds : SReg) (nud : BitVec 8) (s : State) : Out :=
  let i := Instr.mldb la f fromA bv ds nud
  let sp : Space := if fromA then .a else .w
  classOp 0x93 i .mat .m (fun s =>
    let set := s.gangSet s.grp
    let m := set.length
    let q := set.findIdx fun r => r == s.grp.ref
    let off := (s.grp.S ds.val).toNat
    let k := mcfg (s.grp.S (ds.val + 1)).toNat
    match s.mldbTrap i f sp bv ds q with
    | some t => s.takeFault 0x93 t
    | none =>
      let reads := [kS ds.val, kS (ds.val + 1)]
      let writes := rangeKeys [(bv.val, k.ks * f.nb k.n m)]
      if s.grp.pend.any (dependsOn reads writes) then s.stayOn 0x93 reads writes
      else
        let parts := (mldbParts f k off q m bv).map fun x => (x.1, x.2.map fun o => bufBase sp + o)
        let s1 := (s.addL (unitCount sp f.bw ((mldbElems f k off q m).map (·.2)))).advanceClock
        (s1.post { Pend.new 0x93 (.mldb parts) with
          count := some .loads, window := true, left := la.val + 1, reads := reads, writes := writes, stamp := s1.stamp,
          nud := nud.toNat }).finish s.grp.xm) s

/-! ## MDRAIN (R203, R204) -/

/-- The elements of the tile, lane by lane: lane, address, value; with the flags of the BF16 rounding. -/
def drainElems (g : Group) (ct : DrainCt) (c : VReg) (dst rs n : Nat) : List ((Nat × Nat × Nat) × Nat) :=
  allLanes.flatMap fun l => (List.range n).map fun j =>
    let a := (dst + l * rs + j * ct.w) % 2 ^ 64
    match ct with
    | .f64 => ((l, a, (g.V64 (c.val + 2 * j) l).toNat), 0)
    | .f32 => ((l, a, (g.V (c.val + j) l).toNat), 0)
    | .bf16 => let r := BF16.ofVal (.std .rne) (F32.val (g.V (c.val + j) l).toNat); ((l, a, r.1), r.2)

/-- S[DS+1] of MDRAIN keeps R203. -/
def drainCfgOk (ct : DrainCt) (w : Nat) : Bool :=
  decide (1 ≤ bits w 8 0) && decide (bits w 8 0 ≤ if ct == .f64 then 192 else 384) && decide (bits w 15 9 = 0) &&
  decide (w / 2 ^ 48 = 0)

def State.drainTrap (s : State) (i : Instr) (ct : DrainCt) (toD : Bool) (c : VReg) (ds : SReg) : Option Trap :=
  let g := s.grp
  let w := (g.S (ds.val + 1)).toNat
  let n := bits w 8 0
  match g.bounds i with
  | some t => some t
  | none =>
    if !drainCfgOk ct w then some (g.gangTrap 2)
    else match g.rangeTrap [(c.val, if ct == .f64 then 2 * n else n)] with
      | some t => some t
      | none =>
        let es := (drainElems g ct c (g.S ds.val).toNat (bits w 47 16) n).map fun e => (e.1.1, e.1.2.1)
        if toD then s.elemTraps .d ct.w es else elemTrap 10 .glob (fun a => a % ct.w ≠ 0) es

/-- The first element of each lane on each line. -/
def drainHeads (es : List (Nat × Nat × Nat)) : List (Nat × Nat) :=
  es.foldl (fun acc e => if acc.any (fun a => a.1 == e.1 && a.2 / 128 == e.2.1 / 128) then acc else acc ++ [(e.1, e.2.1)]) []

/-- For each lane and line its access and the cells of its elements. -/
def drainLines (w : Nat) (es : List (Nat × Nat × Nat)) (as : List LaneAcc) : List (LaneAcc × List Host.Cell) :=
  as.map fun a =>
    (a, (es.filter fun e => e.1 == a.lane && e.2.1 / 128 == a.va / 128).flatMap fun e =>
          leCells (a.key / 128 * 128 + e.2.1 % 128) w e.2.2)

/-- A drain to global memory issues: shared lines are held under DET (06 R132). -/
def drainGlobal (add : Bool) (ct : DrainCt) (sc : Scope) (nud : BitVec 8) (xs : List (LaneAcc × List Host.Cell)) (r : Nat)
    (s : State) : State :=
  let holds := fun x : LaneAcc × List Host.Cell => s.team.isShared x.1.va && !s.team.through
  let held := xs.filter holds
  let sent := xs.filter fun x => !holds x
  let dbl := ct == .f64
  let lines := uniq (held.map fun x => x.1.key / 128)
  -- an add is one invocation a line (12 R221)
  let hs := if add then (onePerLine (held.map (·.1))).map fun a =>
      (a, HeldKind.add dbl ((held.filter fun x => x.1.key / 128 == a.key / 128).flatMap (·.2)))
    else held.map fun x => (x.1, HeldKind.bytes x.2)
  let s1 := if held.isEmpty then s else s.hold 0x92 lines.length (some .matrix) none hs
  if sent.isEmpty then s1.threadDone
  else
    let s2 := if add then s1.onCore (Core.l1Drop (sent.map fun x => x.1.key / 128)) else s1
    s2.post { Pend.new 0x92 (.mdrain sc add dbl sent []) with count := some .matrix, stamp := r, nud := nud.toNat }

/-- What would stop a line form at the home, beside a poisoned line (12 R222): an error in the routine, where the home has to read it, else one in the
line. A drain that adds meets it as it issues, since its faults are precise (17 R268; log entry 68). -/
def State.formError? (dbl : Bool) (a : LaneAcc) (s : State) : Option Nat :=
  let slot := if dbl then 5 else 4
  let cached := (routineUnit a.key).any fun u => s.routines.any (Routine.is u s.dev.devid s.team.ctx slot)
  if !cached && s.routineErrors.contains (s.team.ctx, slot) then some 1
  else if s.lineErrors.contains (a.key / 128) then some 0 else none

/-- The first of the lines that an adding drain would send with an error, and its cause. -/
def State.drainError? (add dbl : Bool) (as : List LaneAcc) (s : State) : Option (LaneAcc × Nat) :=
  if add then as.findSome? fun a => if s.team.isShared a.va && !s.team.through then none else (s.formError? dbl a).map fun c => (a, c)
  else none

/-- The machine-check of such an error: a held line is poisoned (12 R222). -/
def State.drainFault (x : LaneAcc × Nat) (s : State) : State :=
  (if x.2 = 0 then s.poison (x.1.key / 128) else s).takeFault 0x92 (machineCheck x.2 x.1.key)

/-- 10 R203. All registers are read at issue (log entry 60). -/
def execMdrain (la : Fin 16) (add toD : Bool) (ct : DrainCt) (sc : Scope) (c : VReg) (ds : SReg) (nud : BitVec 8) (s : State) : Out :=
  let i := Instr.mdrain la add toD ct sc c ds nud
  classOp 0x92 i .mat .m (fun s =>
    match s.drainTrap i ct toD c ds with
    | some t => s.takeFault 0x92 t
    | none =>
      let w := (s.grp.S (ds.val + 1)).toNat
      let n := bits w 8 0
      let reads := [kS ds.val, kS (ds.val + 1)] ++ rangeKeys [(c.val, if ct == .f64 then 2 * n else n)]
      if s.grp.pend.any (dependsOn reads []) then s.stayOn 0x92 reads []
      else
        let all := drainElems s.grp ct c (s.grp.S ds.val).toNat (bits w 47 16) n
        let es := all.map (·.1)
        let flags := all.foldl (fun m e => m ||| e.2) 0
        let count := fun (sp : Space) (s : State) => (s.addL (unitCount sp ct.w (es.map fun e => e.2.1))).advanceClock
        let flag := fun (s : State) => s.onGrp fun g => { g with fpcr := g.fpcr ||| BitVec.ofNat 5 flags }
        if toD then
          let s1 := flag (count .d s)
          (s1.post { Pend.new 0x92 (.mdrain sc add (ct == .f64) [] (es.flatMap fun e => leCells e.2.1 ct.w e.2.2)) with
            count := some .matrix, writes := if add then [kAcc] else [], stamp := s1.stamp, nud := nud.toNat }).finish s.grp.xm
        else
          let ls := drainHeads es
          let xs := s.lanesX .w false ls
          let fs := pageFaults ls xs
          let as := laneAccs xs
          if !fs.isEmpty then s.park 0x92 true 0xFFFFFFFF#32 none fs
          else if let some a := s.badLane as then s.takeFault 0x92 (machineCheck 2 a.key)
          else if s.overflows (uniq ((as.filter fun a => s.team.isShared a.va).map fun a => a.key / 128)).length then s
          else if let some x := s.drainError? add (ct == .f64) as then s.drainFault x
          else
            let s1 := (flag (count .glob s)).translated true as
            let s2 := s1.onCore (Core.l1Dirty s1.team.ctx (as.map fun a => a.va / 128))
            (drainGlobal add ct sc nud (drainLines ct.w es as) s1.stamp s2).finish s.grp.xm) s

/-- Elements of cells, w bytes each: the key of the first byte, and the value. -/
def cellElems (w : Nat) (cells : List Host.Cell) : List (Nat × Nat) :=
  (List.range (cells.length / w)).map fun i =>
    let e := (cells.drop (w * i)).take w
    ((e.map (·.1)).headD 0, leNat (e.map (·.2)))

/-- Add elements to memory one after another, RNE: a line-form invocation of the standard add stitch (12 R221). -/
def addCells (dbl : Bool) (cells : List Host.Cell) (m : Memory) : Memory :=
  let w := if dbl then 8 else 4
  let f := if dbl then F64 else F32
  (cellElems w cells).foldl (fun m e => m.putWord e.1 w (f.add .rne (f.val (m.word e.1 w)) (f.val e.2)).1) m

/-- A line of a drain may be written. -/
def State.lineMay (s : State) (seq : Nat) (x : LaneAcc × List Host.Cell) : Bool :=
  !s.writeBefore seq (x.1.key / 128) && s.served x.1.key &&
  !s.grp.pend.any fun p => decide (p.seq < seq) && x.2.any fun c => p.loads x.1.lane c.1 1

/-- What an invocation in line form comes to (12 R221): the words of a drain that stand in the line are added, or what stops it is given
back. -/
def addInto (dbl : Bool) (cells : List Host.Cell) : Invoked → Option Trap × State
  | .stops t s => (some t, s)
  | .runs _ _ s => (none, { s with mem := addCells dbl cells s.mem }.unrel cells)

/-- The line is there, and its home runs slot 4 or 5 in line form (12 R214). -/
def State.addLine (dbl : Bool) (ctx va key : Nat) (cells : List Host.Cell) (s : State) : Option Trap × State :=
  addInto dbl cells (s.invokeOwn ctx (if dbl then 5 else 4) va key)

/-- A line form that has been sent runs at the home (12 R214, R219): the errors that stop one were met at the issue. A line poisoned since keeps no
new data (12 R222). -/
def State.addSent (dbl : Bool) (ctx key : Nat) (cells : List Host.Cell) (s : State) : State :=
  let slot := if dbl then 5 else 4
  let r := standardRoutine slot
  let s1 := match routineUnit key with
    | some u => s.routineUsed { unit := u, dev := s.dev.devid, ctx := ctx, slot := slot, wide := r.1, words := r.2.map encode }
    | none => s
  if s.poisoned.contains (key / 128) then s1 else { s1 with mem := addCells dbl cells s1.mem }.unrel cells

/-- The drain's words in one line are added, indivisibly, once the line is there; none where it has to come. -/
def State.drainLine (p : Pend) (dbl : Bool) (xs : List (LaneAcc × List Host.Cell)) (line : Nat) (s : State) : Option State :=
  match xs.filter fun x => x.1.key / 128 == line with
  | [] => some s
  | x :: now => (s.bring (s.teamReq p.stamp p.gcnt (some p.nud) true x.1)).map fun s1 =>
    (s1.addSent dbl s.team.ctx (line * 128) ((x :: now).flatMap fun x => x.2)).onCore (Core.l1Drop [line])

/-- The lines of a drain that are added together with one: that line alone, or all of them where one is at a peer, since a drain to an unreachable
peer has no effect (17 R268). -/
def drainDue (lines : List (LaneAcc × List Host.Cell)) (line : Nat) : List (LaneAcc × List Host.Cell) :=
  if lines.any fun x => isPeer x.1.key then lines else lines.filter fun x => x.1.key / 128 == line

/-- MDRAIN_LINE_INVOCATION (R204, 12 R221). -/
def execMdrainLineInvocation (core slot gid seq line : Nat) (s : State) : Out :=
  .next <| s.withFocus core slot gid fun s =>
    match s.grp.findPend? seq with
    | none => s
    | some p =>
      match p.kind with
      | .mdrain sc true dbl lines dc =>
        let due := drainDue lines line
        if due.isEmpty || !due.all (s.lineMay seq) then s
        else match (uniq (due.map fun x => x.1.key / 128)).foldl (fun o l => o.bind (State.drainLine p dbl due l)) (some s) with
          | none => s
          | some s1 => s1.onGrp fun g => g.updPend seq fun p =>
            { p with kind := .mdrain sc true dbl (lines.filter fun x => !due.any fun y => y.1.key / 128 == x.1.key / 128) dc }
      | _ => s

/-- The D-buffer side: the whole tile is one update. Flags of a drain that goes on for a successor were the retired group's (log
entry 51). -/
def drainToD (flags add dbl : Bool) (cells : List Host.Cell) (s : State) : State :=
  let w := if dbl then 8 else 4
  let f := if dbl then F64 else F32
  if add then
    (cellElems w cells).foldl (fun s x =>
      let r := f.add .rne (f.val (s.team.bufNat .d x.1 w)) (f.val x.2)
      let s := s.putLocals none .d 0 x.1 (leBytes w r.1)
      if flags then s.onGrp fun g => { g with fpcr := g.fpcr ||| BitVec.ofNat 5 r.2 } else s) s
  else cells.foldl (fun s x => s.putLocals none .d 0 x.1 [x.2]) s

/-- A copy of a DET team to global memory, whose shared lanes were held as the D-buffer stood at its issue, has still to read bytes that the
drain updates: it sees the tile as a whole, before the update (R204). -/
def State.copyBehind (s : State) (dcells : List Host.Cell) : Bool :=
  s.team.det && s.teamGroups.any fun g => g.pend.any fun p => match p.kind with
    | .copy true w .d _ _ _ xs => xs.any fun x => dcells.any fun c => decide (x.2 ≤ c.1) && decide (c.1 < x.2 + w)
    | _ => false

/-- MDRAIN_COMPLETE: the writes have performed and the drain leaves the matrix count. -/
def execMdrainComplete (core slot gid seq : Nat) (s : State) : Out :=
  .next <| (s.withFocus core slot gid fun s =>
    match s.grp.findPend? seq with
    | none => s
    | some p =>
      match p.kind with
      | .mdrain _ add dbl lines dc =>
        let done := fun s : State => s.onGrp fun g => g.dropPend seq
        let behind := dc.any fun x => s.grp.pend.any fun q => decide (q.seq < seq) && q.loads 0 (bufBase .d + x.1) 1
        if !dc.isEmpty then (if behind || s.copyBehind dc then s else done (drainToD (!p.carried) add dbl dc s))
        else if add then (if lines.isEmpty then done s else s)
        else if !lines.all (s.lineMay seq) then s
        else
          let cells : List Host.Cell := lines.flatMap fun x => x.2
          done (((s.requests p.stamp p.gcnt (some p.nud) true (lines.map (·.1))).writeMem cells).l1Put s.core.id none cells)
      | _ => s).reap

end Sys2Proof.Machine
end

