-- ==== Sys2Proof/Machine/Skiver.lean ====
section
/-! DEFINITION. Machine/Skiver.lean: the choice of bands (06 R124 to R130), dispatch (16 R259, R260; 06 R120, R123), commit (06 R134
to R137), the end of a launch (17 R274 to R276) and its completion signal (16 R256). -/

namespace Sys2Proof.Machine

/-! ## Scores (06 R125, R128), as exact fractions (numerator, denominator) -/

abbrev Frac := Nat × Nat

def Frac.add (a b : Frac) : Frac := (a.1 * b.2 + b.1 * a.2, a.2 * b.2)
def Frac.lt (a b : Frac) : Bool := decide (a.1 * b.2 < b.1 * a.2)

/-- R125 in eighths of wd and wl: I/p · (1 + wd·(1 - A/(p·I))) + wl·L/p. -/
def PRec.score (wd wl : Nat) (r : PRec) : Frac :=
  (8 * r.i * r.p + wd * (r.i * r.p - r.a) + wl * r.l * r.p, 8 * r.p * r.p)

/-- R128: the cycles stand for I outside d, the filled lines for L. -/
def PRec.timedScore (c wd wl : Nat) (r : PRec) : Frac :=
  (8 * c * r.p * r.i + wd * c * (r.p * r.i - r.a) + wl * r.f * r.p * r.i, 8 * r.p * r.p * r.i)

/-- The mean of the scores of the 16 highest pieces of an entry. -/
def meanScore (score : PRec → Frac) (rs : List PRec) : Frac :=
  let top := (sortBy (fun a b => decide (b.idx ≤ a.idx)) rs).take 16
  let sum := top.foldl (fun m r => Frac.add m (score r)) ((0, 1) : Frac)
  (sum.1, sum.2 * top.length)

/-! ## The choice (R126) -/

inductive Choice
  | hold
  | take (e : Nat) (tail : Bool)
  deriving DecidableEq, Repr

def Launch.area (l : Launch) (e : Nat) : Nat :=
  match l.menu[e]? with
  | some m => m.sx * m.sy
  | none => 0

/-- The first of a list with the least value. -/
def leastBy {α : Type} (lt : α → α → Bool) : List α → Option α
  | [] => none
  | a :: l => some (l.foldl (fun m b => if lt b m then b else m) a)

def Launch.entries (l : Launch) : List Nat := List.range l.menu.length

/-- The smallest-area entry. -/
def Launch.smallest (l : Launch) : Nat := (leastBy (fun a b => decide (l.area a < l.area b)) l.entries).getD 0

/-- Points in no band so far. -/
def Launch.left (l : Launch) : Nat := (l.x - l.bx) * (l.y - l.by_) + (l.z - l.slice - 1) * l.x * l.y

/-- The first piece of band n, or the next piece where that band is still to cut. -/
def Launch.firstOf (l : Launch) (n : Nat) : Nat := l.firsts.reverse.getD n l.nextIdx

/-- Every piece below an index has finished. -/
def Launch.finishedBelow (l : Launch) (n : Nat) : Bool :=
  !l.running.any (fun i => decide (i < n)) && !l.cutq.any (fun x => decide (x.idx < n))

def Launch.score (l : Launch) (r : PRec) : Frac :=
  if l.timed then r.timedScore (Config.pieceCycles l.id r.idx) l.wd l.wl else r.score l.wd l.wl

/-- The choice by measurement. -/
def Launch.measured (l : Launch) (recs : List PRec) : Nat :=
  let cand := (l.entries.filter fun e => recs.any fun r => r.entry == e).map fun e =>
    (e, meanScore l.score (recs.filter fun r => r.entry == e))
  match leastBy (fun a b => Frac.lt a.2 b.2) cand with
  | some b => b.1
  | none => l.chosen.headD 0

/-- R126 to R128 with C cores. -/
def Launch.choose (c : Nat) (l : Launch) : Choice :=
  let k := l.chosen.length
  if l.tailMode then .take l.smallest true
  else if l.tail && decide (l.left < 2 * c * l.area (l.chosen.headD 0)) then .take l.smallest true
  else match l.entries.find? fun e => !l.chosen.contains e with
    | some e => .take e false
    | none =>
      if l.timed then .take (l.measured l.recs) false
      else if l.lag ≤ k ∧ !l.finishedBelow (l.firstOf (k + 1 - l.lag)) then .hold
      else .take (l.measured (l.recs.filter fun r => decide (r.band + l.lag ≤ k))) false

/-- What the launch chooses: a recorded entry while it replays (R130), else R126. -/
def Launch.next (c : Nat) (l : Launch) : Choice :=
  match l.replay with
  | some es => .take (es.headD 0) false
  | none => l.choose c

/-- The cores of a cell, rising. -/
def CellSt.cores (c : CellSt) : List Nat :=
  c.clusters.flatMap fun k => (List.range Config.clusterSize).map fun i => Config.clusterSize * k + i

/-- All bands are cut. -/
def Launch.cutDone (l : Launch) : Bool := l.harness || decide (l.z ≤ l.slice)

/-- Cut band k with an entry. The choice of band 0 fixes C, for the cell that has the launch then (R126; log entry 65). -/
def Launch.cutWith (c e : Nat) (tail : Bool) (l : Launch) : Launch :=
  let m := l.menu.getD e { sx := 1, sy := 1, order := 0 }
  let r := cutBand l.x l.y m l.cutAt
  let k := l.chosen.length
  let ps := r.1.zipIdx.map fun t =>
    { idx := l.nextIdx + t.2, ox := t.1.1, oy := t.1.2.1, oz := l.slice, ex := t.1.2.2.1, ey := t.1.2.2.2, entry := e, order := m.order,
      band := k : Piece }
  { l with slice := r.2.z, bx := r.2.bx, by_ := r.2.by_, sc := r.2.sc, cutq := l.cutq ++ ps, chosen := e :: l.chosen,
           firsts := l.nextIdx :: l.firsts, tails := tail :: l.tails, nextIdx := l.nextIdx + ps.length, c := some c,
           tailMode := l.tailMode || tail, replay := l.replay.map (·.drop 1) }

/-- Write 16 bytes of the cut record; a write that cannot reach memory ends the recording (R129), and none where it has to wait. -/
def State.recordWrite (launch addr w0 w1 : Nat) (s : State) : Option State :=
  match s.findLaunch? launch with
  | none => some s
  | some l =>
    if l.cut ≠ 1 ∨ l.recLost then some s
    else match s.writeCtx l.ctx addr (leBytes 8 w0 ++ leBytes 8 w1) with
      | .ok _ s => some s
      | .waits => none
      | .fails => some (s.onLaunch launch fun l => { l with recLost := true })

/-- CHOOSE_BAND. -/
def execChooseBand (launch : Nat) (s : State) : Out :=
  .next <| match s.findLaunch? launch with
    | none => s
    | some l =>
      match s.findCell? l.cell with
      | none => s
      | some cell =>
        if l.cutDone || l.ends || cell.halting || s.isSaved launch then s
        else
          let c := l.c.getD cell.cores.length
          match l.next c with
          | .hold => s
          | .take e tail =>
            let l' := l.cutWith c e tail
            let s1 := s.onLaunch launch fun _ => l'
            let s2 := s1.recordWrite launch (l.cutAddr + 16 * (l.chosen.length + 1)) (e + 8 * bit tail) l.nextIdx
            (s2.bind fun s2 =>
              if l'.cutDone then
                s2.recordWrite launch l.cutAddr (1 + (l.menu.length - 1) * 2 ^ 16 + c * 2 ^ 32) l'.chosen.length
              else some s2).getD s

/-! ## The resource check (16 R259, R260) -/

/-- A block of the buddy allocator for g granules. -/
def buddy (g : Nat) : Nat := if g = 0 then 0 else (((List.range 8).map (2 ^ ·)).find? fun b => decide (g ≤ b)).getD g

/-- The lowest aligned position of a block among `cap` granules, past the blocks in use (log entry 22). -/
def freeBlock (cap g : Nat) (used : List (Nat × Nat)) : Option Nat :=
  if g = 0 then some 0
  else
    let b := buddy g
    let taken := (used.filter fun u => decide (0 < u.2)).map fun u => (u.1, buddy u.2)
    (((List.range (cap / b)).map (b * ·)).find? fun p => !taken.any fun u => overlap (p, b) u)

/-- Where a team finds room in a core. -/
structure Spot where
  slot : Nat
  w : Nat
  a : Nat
  d : Nat
  deriving DecidableEq, Repr

/-- Teams that hold their W and A blocks; a retired team holds them while work of its own is in flight (20 R320). -/
def State.holders (s : State) (c : Nat) : List Team := (s.teamsOn c).filter fun t => !t.retiring || s.teamBusy t

/-- The blocks in use for each buffer of a core. -/
def State.blocksOf (s : State) (c : Nat) (b : Buf) : List (Nat × Nat) :=
  match b with
  | .w => (s.holders c).map fun t => (t.wpos, t.wAll)
  | .a => (s.holders c).map fun t => (t.apos, t.agBase)
  | .d => (s.teamsOn c).map fun t => (t.dpos, t.dAll)

/-- Granules of a core's buffer (01 Table 1-2). -/
def bufGranules : Buf → Nat
  | .w => 64 | .a => 32 | .d => 16

/-- The registers and groups fit (R259, R262). -/
def State.groupsFit (s : State) (c : Nat) (new : List Group) : Bool :=
  let have_ := s.groupsOn c false
  let all := s.groupsOn c true
  decide (all.length + new.length ≤ Config.residentGroups) && decide (new.length ≤ 32) &&
  quads.all (fun q => decide (quadCount all q + quadCount new q ≤ 16)) &&
  quads.all (fun q => decide (vNeed have_ q + vNeed new q ≤ 32)) && decide (sNeed have_ + sNeed new ≤ 1024)

/-- EXCL: alone on its core, and beside no exclusive team. -/
def State.exclFits (s : State) (c : Nat) (excl : Bool) : Bool :=
  !((s.teamsOn c).filter fun t => !t.retiring).any fun t => excl || t.body.excl

/-- A free team slot of core c, where registers, groups and EXCL let a team for p points in. -/
def State.slotSpot? (s : State) (b : Body) (p c : Nat) : Option Nat :=
  if (s.findCore? c).isNone || !s.groupsFit c (mkGroups b p [] c 0) || !s.exclFits c b.excl then none
  else (List.range Config.teamSlots).find? fun k => !(s.teamsOn c).any fun t => t.slot == k

/-- The spot that a team for p points finds in core c. -/
def State.spot? (s : State) (b : Body) (p c : Nat) : Option Spot :=
  match s.slotSpot? b p c,
        freeBlock (bufGranules .w) b.wg (s.blocksOf c .w), freeBlock (bufGranules .a) b.ag (s.blocksOf c .a),
        freeBlock (bufGranules .d) b.dg (s.blocksOf c .d) with
  | some k, some w, some a, some d => some ⟨k, w, a, d⟩
  | _, _, _, _ => none

/-- The candidates of round robin, after the core used last. -/
def rotateAfter (last : Option Nat) (l : List Nat) : List Nat :=
  match last with
  | none => l
  | some c => l.filter (fun x => decide (c < x)) ++ l.filter (fun x => decide (x ≤ c))

/-- The teams of a dispatch: body, parameters, and their distance from the first core. -/
def Launch.dispatch (l : Launch) : List (Body × List W64 × Nat) :=
  if l.harness then l.bodies.zipIdx.map fun x => (x.1.1, x.1.2, x.2)
  else match l.bodies with
    | b :: _ => if b.1.pair then [(b.1, b.2, 0), (b.1, b.2, 1)] else [(b.1, b.2, 0)]
    | [] => []

/-- Where a piece's teams go: the first core of round robin at which all of them fit, an even one for several teams, all in one
cluster (R259, R254, 06 R123). -/
def State.places? (s : State) (cell : CellSt) (l : Launch) (x : Piece) : Option (Nat × List Spot) :=
  let ts := l.dispatch
  let ok := fun c : Nat => ts.length == 1 || (c % 2 == 0 && decide (c % Config.clusterSize + ts.length ≤ Config.clusterSize))
  if ts.isEmpty then none
  else (rotateAfter cell.lastCore cell.cores).findSome? fun c =>
    if ok c then (allSome (ts.map fun t => s.spot? t.1 x.points (c + t.2.2))).map fun ps => (c, ps) else none

/-! ## Dispatch -/

/-- Private regions have places of 8 MiB, the most that a group takes, downwards from below the stitch tables (08 R147; log entry 55). -/
def privAddr (n : Nat) : Nat := 2 ^ 39 - 2 ^ 31 - 2 ^ 23 * (n + 1)

/-- The private bases in use: of groups, and of groups in images. -/
def State.privTaken (s : State) : List Nat :=
  ((s.allGroups.filter (·.live)) ++ s.images.flatMap (·.groups)).filterMap fun g => if g.privBase = 0 then none else some g.privBase

/-- Give each group of a new team a place of its own, the first that is free. -/
def placePriv : List Nat → List Group → List Group
  | _, [] => []
  | taken, g :: gs =>
    let base := privAddr (((List.range (taken.length + 1)).find? fun n => !taken.contains (privAddr n)).getD 0)
    { g with privBase := base } :: placePriv (base :: taken) gs

/-- The private regions of new groups hold zeros: nothing that an earlier team had there can be read (15 R249; log entry 55). -/
def clearPriv (priv : Nat) (gs : List Group) (m : Memory) : Memory :=
  if priv = 0 then m else gs.foldl (fun m g => m.clearBytes g.privBase (32 * priv)) m

/-- Start a team of a launch in its spot (04 R75 to R79, 09 R175). The start of a child's team is an acquire at device scope (22
R368): no L1 line filled before serves it. Firmware places each group's lane-private region (08 R147). -/
def State.startTeam (l : Launch) (x : Piece) (b : Body) (params : List W64) (hidx c : Nat) (p : Spot) (s : State) : State :=
  let gen := match s.findCore? c with
    | some k => (mapGet 0 k.gens p.slot + 1) % 2 ^ 16
    | none => 1
  let strict := match s.findQueue? l.queue with
    | some q => q.sla
    | none => false
  let t : Team := { core := c, slot := p.slot, live := true, gen := gen, ctx := l.ctx, launch := l.id, harness := l.harness, hidx := hidx,
                    body := b, gcnt := b.gcnt x.points, agBase := b.ag, aNow := b.ag, wpos := p.w, apos := p.a, dpos := p.d,
                    seed := l.seed, det := l.det, shared := l.shared, piece := if l.harness then { x with idx := hidx } else x,
                    wAll := b.wg, dAll := b.dg, strict := strict }
  let child := l.parent.isSome
  let epoch := match s.findCore? c with
    | some k => k.epoch + 1
    | none => 0
  let s1 := s.mapCores fun k =>
    if k.id = c then { k with gens := mapSet 0 k.gens p.slot gen, epoch := if child then epoch else k.epoch } else k
  let gs := (mkGroups b x.points params c p.slot).map fun g =>
    if child then { g with know := { epoch := epoch }, fork := { epoch := epoch } } else g
  let gs := if b.priv = 0 then gs else placePriv s.privTaken gs
  let s2 := s1.mapCores fun k => if k.id = c then k.dropPriv p.slot else k
  { s2 with teams := s2.teams ++ [t], groups := s2.groups ++ gs, mem := clearPriv b.priv gs s2.mem }

/-- Ageing: min(CEIL, PRIO + steps); a mapped queue keeps the value of its mapping (16 R258). -/
def Queue.aged (q : Queue) : Nat := Nat.min q.ceil (q.prio + q.steps)
def State.mapped (s : State) (q : Nat) : Bool := s.slots.any fun x => x.queue == some q
def State.effOf (s : State) (q : Nat) : Nat :=
  match s.findQueue? q with
  | some x => if s.mapped q then x.eff else x.aged
  | none => 0

/-- The piece that a launch would dispatch now, with its places. -/
def State.ready? (s : State) (l : Launch) : Option (Piece × Nat × List Spot) :=
  match l.cutq, s.findCell? l.cell with
  | x :: _, some cell =>
    let due := match l.parent with
      | some (p, k, _) => s.pieceDone p k
      | none => true
    if l.ends || s.isSaved l.id || !due || !s.mayRun cell l.ctx then none
    else (s.places? cell l x).map fun p => (x, p)
  | _, _ => none

/-- A launch of the same cell that dispatch is offered to first can dispatch: higher effective priority, or accepted earlier (R259). -/
def State.goesFirst (s : State) (l : Launch) : Bool :=
  s.launches.any fun m => m.cell == l.cell && m.id != l.id &&
    (decide (s.effOf l.queue < s.effOf m.queue) || (s.effOf l.queue == s.effOf m.queue && decide (m.seq < l.seq))) &&
    (s.ready? m).isSome

/-- PIECE_DISPATCH. -/
def execPieceDispatch (launch : Nat) (s : State) : Out :=
  .next <| match s.findLaunch? launch with
    | none => s
    | some l =>
      match s.ready? l with
      | none => s
      | some (x, c, ps) =>
        if s.goesFirst l then s
        else
          let ts := l.dispatch
          let s1 := (ts.zip ps).foldl (fun s t => s.startTeam l x t.1.1 t.1.2.1 t.1.2.2 (c + t.1.2.2) t.2) s
          let s2 := s1.onLaunch launch fun l =>
            { l with cutq := l.cutq.drop 1
                     running := l.running ++ if l.harness then List.range ts.length else [x.idx] }
          (s2.bindCtx l.ctx).onCell l.cell fun k => { k with ctx := some l.ctx, lastCore := some (c + ts.length - 1) }

/-! ## Commit (06 R134 to R136) -/

/-- What the Skiver applies: the even core's team first (R134). -/
def commitOrder (hs : List (Nat × Nat × Held)) : List (Nat × Nat × Held) :=
  sortBy (fun a b => if a.1 % 2 ≠ b.1 % 2 then decide (a.1 % 2 < b.1 % 2) else heldBefore a.2.2 b.2.2) hs

/-- A request for a held write's line, from the die of the core that holds it (09 R177): no team's. -/
def Held.request (ctx core key : Nat) (code : Option Nat) (h : Held) : Req :=
  { key := key / 128 * 128, die := coreDie core, cp := h.cp, wc := h.wc, ctx := ctx, tag := none, r := 0, code := code, due := 0, dirty := true }

/-- The lines of cells. -/
def cellLines (cs : List Host.Cell) : List Nat := uniq (cs.map fun c => c.1 / 128)

/-- A held write faults at commit: the record names its instruction where it issued, and the launch ends (12 R222). -/
def State.commitFault (l : Launch) (idx : Nat) (h : Held) (t : Trap) (s : State) : State :=
  let r : FRec := { kind := t.kind, cause := t.cause, opc := h.opc, gid := h.gid, team := h.team, core := h.core, slot := h.slot, wr := false,
                    last := true, seq := 0, lane := t.lane, cbase := h.base, d0 := t.d0, d1 := t.d1, pidx := BitVec.ofNat 32 idx,
                    launch := l.id }
  (s.onCell l.cell fun c => c.append [r]).onLaunch l.id (Launch.setFault t.kind)

/-- What a held write does to the L1 of the core that its team was on. -/
def State.heldCore (core : Nat) (f : Core → Core) (s : State) : State := s.mapCores fun c => if c.id = core then f c else c

/-- The home has a line for the invocation of a held write; none where that has to wait. -/
def State.bringHeld (l : Launch) (core key : Nat) (h : Held) (s : State) : Option State := s.bring (h.request l.ctx core key none)

/-- A held add on one line: what stops it ends the launch. -/
def State.addHeld (l : Launch) (idx core : Nat) (h : Held) (dbl : Bool) (cs : List Host.Cell) (s : State) : Option State :=
  let line := (cs.map (·.1)).headD 0 / 128
  (s.bringHeld l core (line * 128) h).map fun s =>
    let y := (s.heldCore core (Core.l1Drop [line])).addLine dbl l.ctx 0 (line * 128) cs
    match y.1 with
    | some t => y.2.commitFault l idx h t
    | none => y.2

/-- A held stitch: what stops it ends the launch. -/
def State.stitchHeld (l : Launch) (idx : Nat) (x : Nat × Nat × Held) (slot va key : Nat) (a : List W32) (s : State) : Option State :=
  let h := x.2.2
  (s.bringHeld l x.1 key h).map fun s =>
    match (s.heldCore x.1 (Core.l1Drop [key / 128])).invokeOwn l.ctx slot va key with
    | .stops t s1 => s1.commitFault l idx h { t with lane := h.lane }
    | .runs wide code s1 =>
      let r := (startRun s1.mem x.1 x.2.1 h.gid h.seq h.lane l.ctx key wide code a).ofSlot slot
      match (r.result (decodeAll r.code)).1 with
      | some line => s1.commitLine key line
      | none => s1

/-- Apply one held write at home; a child is created apart. What meets an error ends the launch, and the rest of the piece is applied (12
R222). None where the home of a stitch has to wait for the line. -/
def State.applyHeld (l : Launch) (idx : Nat) (x : Nat × Nat × Held) (s : State) : Option State :=
  let h := x.2.2
  match h.kind with
  | .bytes cs =>
    let s0 := (cellLines cs).foldl (fun s line => s.request (h.request l.ctx x.1 (line * 128) (some 255))) s
    let s1 := (s0.writeMem cs).l1Put x.1 h.rel cs
    let s2 := { s1 with rels := writeCellRels h.rel cs s1.rels }
    match cs.find? fun c => s.bad c.1 with
    | some c => some (s2.commitFault l idx h (machineCheck 2 c.1))
    | none => some s2
  | .add dbl cs => s.addHeld l idx x.1 h dbl cs
  | .stitch slot va key a => s.stitchHeld l idx x slot va key a
  | .child _ => some s

/-- Held records of children (22 R368). -/
def Held.isChild (h : Held) : Bool := match h.kind with | .child _ => true | _ => false

/-- No stitch holds a line that the commit writes. -/
def State.commitServed (s : State) (hs : List (Nat × Nat × Held)) : Bool :=
  hs.all fun x => match x.2.2.kind with
    | .bytes cs => cs.all fun c => s.served c.1
    | .add _ cs => cs.all fun c => s.served c.1
    | .stitch _ _ key _ => s.served key
    | .child _ => true

/-- Apply held writes in commit order; none where one of them has to wait. -/
def State.applyAll (l : Launch) (idx : Nat) (hs : List (Nat × Nat × Held)) (s : State) : Option State :=
  (commitOrder hs).foldl (fun o x => o.bind fun s => s.applyHeld l idx x) (some s)

/-- Create the children of a committing piece in commit order, as far as the cell has room for them (22 R369): what is left, and the
state. No child of a launch that has ended is created any more: it would never start (17 R275). -/
def State.bear (l : Launch) (idx : Nat) : List (Nat × Nat × Held) → State → List (Nat × Nat × Held) × State
  | [], s => ([], s)
  | x :: xs, s =>
    match x.2.2.kind with
    | .child bs =>
      if l.ends then s.bear l idx xs
      else if 256 ≤ s.cellChildren l.cell then (x :: xs, s)
      else
        let i := match s.findLaunch? l.id with
          | some l => l.born
          | none => 0
        ((s.addChild idx i bs l).onLaunch l.id fun l => { l with born := l.born + 1 }).bear l idx xs
    | _ => s.bear l idx xs

/-- A cell that is being halted commits nothing, but for a launch that ends before the save (17 R277, Table 17-7). -/
def State.commitHeld (s : State) (l : Launch) : Bool :=
  !l.ends && (s.isSaved l.id || match s.findCell? l.cell with
    | some c => c.halting
    | none => true)

/-- Shared writes that a piece sent at issue after its overflow have still to perform: its commit is complete with them alone (R135). -/
def State.sending (s : State) (launch idx : Nat) : Bool :=
  s.allTeams.any fun t => t.live && t.launch == launch && t.piece.idx == idx && t.through && s.teamBusy t

/-- PIECE_COMMIT: the oldest piece that has not committed, once it has finished and what it sent at issue has performed. Its writes are applied, then
its children created; while the cell has no room for one of them the commit waits (R134, R135, R137, 22 R369). -/
def execPieceCommit (launch : Nat) (s : State) : Out :=
  .next <| match s.findLaunch? launch with
    | none => s
    | some l =>
      match l.retired.find? fun r => r.idx == l.committed with
      | none => s
      | some r =>
        let stopped := match l.faultIdx with
          | some f => decide (f ≤ r.idx)
          | none => false
        if l.running.contains r.idx || stopped || s.commitHeld l || s.sending launch r.idx || !s.commitServed r.held then s
        else match s.applyAll l r.idx r.held with
        | none => s
        | some s1 =>
          let x := s1.bear l r.idx ((commitOrder r.held).filter fun h => h.2.2.isChild)
          if x.1.isEmpty then
            (x.2.onLaunch launch fun l =>
              { l with retired := l.retired.filter fun x => x.idx != r.idx, committed := l.committed + 1, born := 0 }).reap
          else x.2.onLaunch launch fun l => { l with retired := upd (fun y => y.idx == r.idx) (fun y => { y with held := x.1 }) l.retired }

/-! ## Overflow (06 R135) -/

/-- The instruction in hand, where its word has been fetched or can be. -/
def State.inHand? (s : State) : Option Instr :=
  if s.grp.hdr.isNone then none
  else match (s.fetch s.grp.addr).1 with
    | .word w => (decode64 w.toNat).toOption
    | _ => none

def State.sharedOf (s : State) (as : List LaneAcc) : List LaneAcc := as.filter fun a => s.team.isShared a.va
def State.sharedLines (s : State) (as : List LaneAcc) : Nat := (uniq ((s.sharedOf as).map fun a => a.key / 128)).length

/-- The shared lines of an instruction that holds nothing before every lane has translated. -/
def State.allShared (s : State) (n : Need) (ls : List (Nat × Nat)) : List LaneAcc :=
  let xs := s.lanesX n false ls
  if (pageFaults ls xs).isEmpty then s.sharedOf (laneAccs xs) else []

/-- Slots of the commit area that an instruction needs as it stands at its place; none where it would take a fault first, or a LAUNCH be denied (06
R132, 22 R368). -/
def State.slotNeed (s : State) : Instr → Nat
  | .st g w .glob _ _ _ av as _ =>
    let ls := s.grp.laneAddrs .glob as av (s.lanes g)
    if (s.memTrap .glob w.bytes ls).isSome then 0 else s.sharedLines (s.peek .w ls)
  | .sst w .glob _ _ _ as _ off =>
    let ls := [(0, s.grp.scalarAddr as off.val w.bytes)]
    if (s.memTrap .glob w.bytes ls).isSome then 0 else s.sharedLines (s.peek .w ls)
  | .cpyToGlobal g _ w b _ bv gv gs _ =>
    let ls := s.grp.laneAddrs .glob gs gv (s.lanes g)
    if s.grp.roleFault .cpy .c || (s.copyTrap b w.bytes ls (s.grp.bufAddrs bv (s.lanes g))).isSome then 0 else s.sharedLines (s.allShared .w ls)
  | .mdrain la add false ct sc c ds nud =>
    if s.grp.roleFault .mat .m || (s.drainTrap (.mdrain la add false ct sc c ds nud) ct false c ds).isSome then 0
    else
      let w := (s.grp.S (ds.val + 1)).toNat
      let es := (drainElems s.grp ct c (s.grp.S ds.val).toNat (bits w 47 16) (bits w 8 0)).map (·.1)
      s.sharedLines (s.allShared .w (drainHeads es))
  | .stch g _ _ sc _ _ av as =>
    let ls := s.grp.laneAddrs .glob as av (s.lanes g)
    if (laneTrap 10 .glob (fun a => a % 4 ≠ 0) ls).isSome || !s.releaseReady sc then 0 else (s.allShared .rw ls).length
  | .launch _ a =>
    if s.team.through || (s.grp.S a.val).toNat % 64 != 0 || !s.releaseReady .device then 0 else match s.readOnce (s.grp.S a.val).toNat 8 with
    | .bytes h s1 =>
      let n := 16 * pktLen (leNat h)
      if !launchHeaderOk (leNat h) then 0
      else match s1.readOnce (s.grp.S a.val).toNat n with
        | .bytes bs _ => if ntOk bs then ceilDiv n 128 else 0
        | _ => 0
    | _ => 0
  | _ => 0

/-- The teams of the piece of the team in focus. -/
def State.pieceTeams (s : State) : List Team :=
  s.allTeams.filter fun t => t.live && t.launch == s.team.launch && t.piece.idx == s.team.piece.idx

/-- COMMIT_OVERFLOW: a group stalls for room while its piece is the oldest that has not committed. The held writes are applied; the records
of children stay until the piece commits (R137). -/
def execCommitOverflow (core slot gid : Nat) (s : State) : Out :=
  .next <| s.withFocus core slot gid fun s =>
    if !(s.grp.live && s.grp.is core slot gid && s.grp.susp == .ready) then s
    else match s.inHand?, s.findLaunch? s.team.launch with
      | some i, some l =>
        let ts := s.pieceTeams
        let held := ts.flatMap (fun t => t.held.map fun h => (t.core, t.slot, h)) ++
          (l.retired.filter fun r => r.idx == s.team.piece.idx).flatMap (·.held)
        if s.holds i || Instr.isNever i || (s.grp.bounds i).isSome || !s.overflows (s.slotNeed i) || !s.oldest || s.ending || s.commitHeld l || !s.commitServed held then s
        else
          let k := s.team.piece.idx
          let records := fun hs : List Held => (hs.filter Held.isChild).map fun h => { h with slots := 0 }
          let keep := fun r : Retired => { r with held := r.held.filter fun x => x.2.2.isChild }
          match s.applyAll l k held with
          | none => s
          | some s1 =>
            (s1.mapTeams fun t =>
              if t.live && t.launch == l.id && t.piece.idx == k then { t with held := records t.held, through := true } else t).onLaunch l.id
                fun l => { l with retired := upd (fun r => r.idx == k) keep l.retired }
      | _, _ => s

/-! ## Halting a queue (16 R250, R265) -/

/-- A queue halts, unless it has halted before. -/
def State.haltQueue (q reason : Nat) (s : State) : State :=
  match s.findQueue? q with
  | none => s
  | some x =>
    if x.halt then s
    else (s.qcbHalt x.qcb reason true).onQueue q fun x =>
      { x with halt := true, hstat := reason, pending := false, steps := 0 }

/-! ## The end of a launch (17 R274 to R276) -/

def State.launchTeams (s : State) (launch : Nat) : List Team := s.allTeams.filter fun t => t.live && t.launch == launch

/-- An instruction of the launch has issued and not finished, or its line is still to come. -/
def State.launchBusy (s : State) (launch : Nat) : Bool := (s.launchTeams launch).any fun t => s.teamBusy t || s.asksFill t

/-- Release the teams that have not retired: registers, allocations, barriers and rings, and their tags. -/
def State.dropTeams (p : Team → Bool) (s : State) : State :=
  let out := s.allTeams.filter fun t => t.live && p t
  let dead := fun c k => out.any fun t => t.is c k
  let grown := (out.filter fun t => t.aNow ≠ t.agBase).map (·.core)
  let s1 := { s with
    groups := s.groups.filter fun g => !dead g.core g.slot
    teams := s.teams.filter fun t => !(t.live && p t)
    grp := if dead s.grp.core s.grp.slot then {} else s.grp
    team := if s.team.live && p s.team then {} else s.team }
  let s2 := s1.mapCores fun c => if grown.contains c.id then c.returnWays else c
  out.foldl (fun s t => s.dropTag t.core t.slot t.gen) s2

/-- LAUNCH_END: once every issued instruction of an ending launch has completed, its teams are gone, the pieces that had not
retired without a fault before are discarded, under DET its children that have not started never start, and firmware discards its
records, in whichever ring they stand (R274 to R276). -/
def execLaunchEnd (launch : Nat) (s : State) : Out :=
  .next <| match s.findLaunch? launch with
    | none => s
    | some l =>
      if !l.ends || s.launchBusy launch then s
      else
        let keep := fun i : Nat => match l.faultIdx with
          | some f => decide (i < f)
          | none => true
        let s1 := s.dropTeams fun t => t.launch == launch && !t.retiring
        let s2 := s1.onLaunch launch fun l =>
          { l with cutq := [], running := [], halves := [], retired := l.retired.filter fun r => keep r.idx }
        { s2 with
          children := s2.children.filter fun c => !(l.det && c.parent == launch)
          cells := s2.cells.map (CellSt.consume fun r => r.launch == launch) }.reap

/-! ## Completion (16 R256) -/

/-- Nothing of the launch is left to do, to perform or to commit. -/
def State.launchDone (s : State) (l : Launch) : Bool :=
  l.cutq.isEmpty && l.running.isEmpty && l.retired.isEmpty && (s.launchTeams l.id).isEmpty && (l.cutDone || l.ends)

/-- Status, and the fault's kind (Table 16-3). -/
def Launch.result (l : Launch) : Nat :=
  match l.status, l.fault with
  | some c, _ => c
  | none, some k => 6 + 256 * k
  | none, none => if l.recLost then 7 else 0

/-- The launch is complete: STOP halts its queue where the status is not OK (16 R251). -/
def State.finishLaunch (l : Launch) (s : State) : State :=
  let s1 := { s with launches := s.launches.filter fun x => x.id != l.id }
  if l.stop && l.result ≠ 0 then s1.haltQueue l.queue 3 else s1

/-- COMPLETION_SIGNAL. Where the word cannot be written, ACCESS is the halt's reason, whatever STOP says of the status (log entry 71). -/
def execCompletionSignal (launch : Nat) (s : State) : Out :=
  .next <| match s.findLaunch? launch with
    | none => s
    | some l =>
      if !s.launchDone l || !s.qcbServed l.queue then s
      else if l.signal = 0 then s.finishLaunch l
      else match s.writeWord l.ctx l.signal 8 l.result with
        | .ok _ s1 => s1.finishLaunch l
        | .waits => s
        | .fails => (s.haltQueue l.queue 6).finishLaunch l

end Sys2Proof.Machine
end

