-- ==== Sys2Proof/Machine/Front.lean ====
section
/-! DEFINITION. Machine/Front.lean: the queue front end (16 R250 to R258, R263 to R265): packets, kicks, doorbells, mapping of queues
to slots, ageing, errors of its state, the live update of firmware, and the choice of the group that issues (16 R262). -/

namespace Sys2Proof.Machine

/-! ## Queues -/

def Queue.size (q : Queue) : Nat := 2 ^ q.log2
def Queue.offset (q : Queue) : Nat := q.rd % q.size
/-- A packet is written and not accepted. -/
def Queue.unread (q : Queue) : Bool := decide (q.rd < q.wr)
/-- WR below RD, or past the ring. A PAD that WR covered only in part has left RD above WR, and the queue empty (log entry 26). -/
def Queue.wrBad (q : Queue) : Bool :=
  decide (q.rd + q.size < q.wr) || (decide (q.wr < q.rd) && !(q.padded && decide (q.rd < q.wr + q.size)))

def State.qcbWord (s : State) (q : Queue) (off : Nat) : Nat := s.mem.word (q.qcb + off) 8

/-- The slot reads WR from the QCB; a WR out of bounds halts the queue (R250). -/
def State.rereadWr (n : Nat) (s : State) : State :=
  match s.findQueue? n with
  | none => s
  | some q =>
    let wr := s.qcbWord q 0x20
    let q' := { q with wr := wr, padded := q.padded && decide (wr < q.rd) }
    let s := s.onQueue n fun _ => q'
    if q'.wrBad then s.haltQueue n 2 else s

def State.slotOf? (s : State) (i : Nat) : Option SlotSt := s.slots.find? fun x => x.idx == i
def State.slotQueue? (s : State) (i : Nat) : Option Queue := (s.slotOf? i).bind fun x => x.queue.bind s.findQueue?

/-- A launch of the queue has not completed, or a child of it has not started; one in a saved context counts (log entry 71). -/
def State.queueBusy (s : State) (n : Nat) : Bool := (s.launches.any fun l => l.queue == n) || s.children.any fun c => c.queue == n

/-! ## Acceptance (R252) -/

/-- RD moves, here and in the QCB. -/
def State.advanceRd (n rd : Nat) (s : State) : State :=
  match s.findQueue? n with
  | none => s
  | some q => (s.qcbPut (q.qcb + 0x18) rd).onQueue n fun q => { q with rd := rd, padded := decide (q.wr < rd) }

/-- Accept the packet of a queue: IC first, then RD past the packet. -/
def State.accept (q : Queue) (h rd : Nat) (s : State) : State :=
  (if pktIc h then s.dropIcache q.cell else s).advanceRd q.num rd

/-- The checks of a header with reason FORMAT but for NT: a reserved bit, the TYPE, its LEN (R252). -/
def headerBad (h : Nat) : Bool := decide (h / 2 ^ 19 ≠ 0) || !lenOk (pktType h) (pktLen h)

/-- The checks of a header with reason STRADDLE (R252). -/
def Queue.straddles (q : Queue) (h : Nat) : Bool :=
  let n := 16 * pktLen h
  (pktType h != 7 && decide (q.size < q.offset + n)) || decide (q.size < n)

/-- A header with the word after it, which has NT, fails the checks of FORMAT (R252). -/
def ntBad (h w : Nat) : Bool := decide (w % 16 ≠ harnessNt (pktLen h))

/-- The dependence of the packet at RD was lost: it waits for nothing any more (R264). -/
def Queue.freed (q : Queue) : Bool := match q.deplost with | some x => q.rd == x.1 | none => false
/-- The packet at RD depends on what was lost. -/
def Queue.lost (q : Queue) : Bool := match q.deplost with | some x => decide (q.rd < x.2) | none => false

/-- A header that has passed its other checks: STRADDLE halts the queue. -/
def State.headDone (q : Queue) (hd : List Byte) (s : State) : Option (Queue × List Byte × State) ⊕ State :=
  if q.straddles (numAt hd 0 8) then .inr (s.haltQueue q.num 1) else .inl (some (q, hd, s))

/-- The packet at a slot's RD: its queue, the 8 bytes of its header, and the state after they were read.
None where the front end has to wait: no packet is there, WR does not cover it, the cell or the clock mode holds it, a child goes first,
or a stitch holds a line. A fault that is not resolved, or a bad header, halts the queue. The word with NT is read for a HARNESS alone, and where
it stands in the ring: a header at the ring's end straddles it whatever its NT is (log entry 72). -/
def State.headOf (slot : Nat) (s : State) : Option (Queue × List Byte × State) ⊕ State :=
  match s.slotQueue? slot with
  | none => .inl none
  | some q =>
    let held := match s.findCell? q.cell with
      | some k => k.halting
      | none => true
    if q.halt || !q.unread || held || s.dev.lockWanted.isSome || s.children.any (fun c => c.queue == q.num) || decide (q.wr < q.rd + 8) ||
       !s.served q.qcb then .inl none
    else match s.readCtx q.ctx (q.ring + q.offset) 8 with
      | .waits => .inl none
      | .fails => .inr (s.haltQueue q.num 6)
      | .ok hd s1 =>
        let h := numAt hd 0 8
        if headerBad h then .inr (s1.haltQueue q.num 2)
        else if pktType h ≠ 2 ∨ q.size < q.offset + 16 then s1.headDone q hd
        else if q.wr < q.rd + 16 then .inl none
        else match s1.readCtx q.ctx (q.ring + q.offset + 8) 8 with
          | .waits => .inl none
          | .fails => .inr (s1.haltQueue q.num 6)
          | .ok w s2 => if ntBad h (numAt w 0 8) then .inr (s2.haltQueue q.num 2) else s2.headDone q hd

/-- What a packet does once it is read: its queue, its bytes and the state after they were read; the state itself where it waits. -/
abbrev PacketBody : Type := Queue → List Byte → State → State

/-- The packet whose header was read, of the type `ty`; a packet of another type is another event's, and BAR holds it while a launch
before it has not completed. -/
def packetAt (ty : Nat) (body : PacketBody) (q : Queue) (hd : List Byte) (s1 s : State) : State :=
  let h := numAt hd 0 8
  let n := 16 * pktLen h
  if pktType h ≠ ty ∨ q.wr < q.rd + n ∨ (pktBar h ∧ !q.freed ∧ s.queueBusy q.num) then s
  else match s1.readCtx q.ctx (q.ring + q.offset) (if ty = 7 then 8 else n) with
    | .waits => s
    | .fails => s.haltQueue q.num 6
    | .ok bs s2 =>
      let s3 := body q bs s2
      if s3 = s2 then s else s3

/-- The packet at a slot's RD, but for the slot's turn. -/
def packetRun (slot ty : Nat) (body : PacketBody) (s : State) : State :=
  match s.headOf slot with
  | .inr s1 => s1
  | .inl none => s
  | .inl (some (q, hd, s1)) => packetAt ty body q hd s1 s

def word64 (bs : List Byte) (i : Nat) : Nat := numAt bs (8 * i) 8

/-! ## Launches (R253, R254) -/

/-- Hand a launch over: the cell runs its context, the launch has the next number. A lost dependence fails it (R264), unless its checks have
failed it already (06 R118; log entry 27). -/
def acceptLaunch (signalOff : Nat) (q : Queue) (bs : List Byte) (s : State) : State :=
  match s.findCell? q.cell with
  | none => s
  | some k =>
    if numAt bs signalOff 8 % 8 ≠ 0 then s.haltQueue q.num 2
    else if !s.mayRun k q.ctx then s
    else
      let id := s.nextLaunch
      let s1 := { s.accept q (numAt bs 0 8) (q.rd + bs.length) with nextLaunch := id + 1 }
      let s2 := (s1.bindCtx q.ctx).onCell q.cell fun k => { k with ctx := some q.ctx }
      match acceptRecord id q.num q.ctx q.cell none q.cutload bs s2 with
      | none => s
      | some s3 =>
        let s4 := if q.lost then s3.onLaunch id fun l => { l with status := some (l.status.getD 8) } else s3
        s4.onQueue q.num fun q => { q with cutload := if pktType (numAt bs 0 8) = 1 then none else q.cutload }

/-! ## WAIT (R255) -/

def waitHolds (cond v x : Nat) : Bool :=
  match cond with
  | 0 => v == x
  | 1 => v != x
  | 2 => decide (x ≤ v)
  | _ => decide (v < x)

/-- A WAIT at the head of a queue; `sees` says whether this event rereads a word at that key. The home compares the word as writes reach it;
the front end asks for it when it accepts the packet. -/
def waitBody (sees : Nat → Bool) (q : Queue) (bs : List Byte) (s : State) : State :=
  let addr := word64 bs 1
  if addr % 8 ≠ 0 ∨ word64 bs 3 / 4 ≠ 0 then s.haltQueue q.num 2
  else match s.reach q.ctx addr .r with
    | .waits => s
    | .fails => s.haltQueue q.num 6
    | .ok a s1 =>
      if q.freed then s1.accept q (word64 bs 0) (q.rd + bs.length)
      else if !sees a.key || !waitHolds (word64 bs 3) (s1.mem.word a.key 8) (word64 bs 2) then s
      else (s1.askHome q.ctx false [a]).accept q (word64 bs 0) (q.rd + bs.length)

/-! ## SIGNAL, CUTLOAD, STDEF, PAD (R253, R255, R252) -/

def signalBody (q : Queue) (bs : List Byte) (s : State) : State :=
  let addr := word64 bs 1
  let add := word64 bs 3 == 1
  if addr % 8 ≠ 0 ∨ word64 bs 3 / 2 ≠ 0 then s.haltQueue q.num 2
  else match s.reach q.ctx addr (if add then .rw else .w) with
    | .waits => s
    | .fails => s.haltQueue q.num 6
    | .ok a s1 =>
      let v := if add then s1.mem.word a.key 8 + word64 bs 2 else word64 bs 2
      ((s1.askHome q.ctx true [a]).writeMem (leCells a.key 8 v)).accept q (word64 bs 0) (q.rd + bs.length)

def cutloadBody (q : Queue) (bs : List Byte) (s : State) : State :=
  if word64 bs 1 % 16 ≠ 0 then s.haltQueue q.num 2
  else (s.accept q (word64 bs 0) (q.rd + bs.length)).onQueue q.num fun q => { q with cutload := some (word64 bs 1) }

/-- The image of a STDEF packet, read through the context. -/
def State.readImage (ctx addr : Nat) (s : State) : Reach (List Byte) :=
  (s.readCtx ctx addr 8).bind fun h s => s.readCtx ctx addr (imageLen (leNat h))

/-- R255 with 12 R217: SLOT is tested before anything is read. A packet whose STATUS cannot be written halts the queue as it stands, and
has installed nothing (log entry 67). -/
def stdefBody (q : Queue) (bs : List Byte) (s : State) : State :=
  let image := word64 bs 1
  let slot := word64 bs 2
  let fin := fun (code det : Nat) (s1 : State) =>
    match s1.writeWord q.ctx (word64 bs 3) 8 (code + 256 * det) with
    | .ok _ s2 => s2.accept q (word64 bs 0) (q.rd + bs.length)
    | .waits => s
    | .fails => s.haltQueue q.num 6
  if image % 8 ≠ 0 ∨ word64 bs 3 % 8 ≠ 0 then s.haltQueue q.num 2
  else if 255 < slot then fin stVERIFY 0x42 s
  else match s.readImage q.ctx image with
    | .waits => s
    | .fails => s.haltQueue q.num 6
    | .ok img s1 =>
      let r := s1.install q.ctx slot img
      fin r.1 r.2.1 r.2.2

/-- RD moves to the ring's end. -/
def padBody (q : Queue) (bs : List Byte) (s : State) : State := s.accept q (word64 bs 0) ((q.rd / q.size + 1) * q.size)

/-! ## The turn of a slot (R258) -/

/-- Slots of a cell that are served before another: higher effective priority, ties to the lower slot. -/
def State.slotsBefore (s : State) (x : SlotSt) : List SlotSt :=
  let key := fun y : SlotSt => match y.queue with
    | some q => s.effOf q
    | none => 0
  s.slots.filter fun y => y.cell == x.cell && y.queue.isSome && (decide (key x < key y) || (key x == key y && decide (y.idx < x.idx)))

/-- What the packets of each type do (16 R252). -/
def packetBody : Nat → Option PacketBody
  | 1 => some (acceptLaunch 0x50)
  | 2 => some (acceptLaunch 0x10)
  | 3 => some (waitBody fun _ => true)
  | 4 => some signalBody
  | 5 => some cutloadBody
  | 6 => some stdefBody
  | 7 => some padBody
  | _ => none

/-- The packet at a slot's RD can go on now. -/
def State.slotReady (s : State) (slot : Nat) : Bool :=
  match s.headOf slot with
  | .inr _ => true
  | .inl none => false
  | .inl (some (q, hd, s1)) =>
    match packetBody (pktType (numAt hd 0 8)) with
    | some body => decide (packetAt (pktType (numAt hd 0 8)) body q hd s1 s ≠ s)
    | none => false

/-- A slot's packet, in the slot's turn within its cell. -/
def packetStep (slot ty : Nat) (body : PacketBody) (s : State) : Out :=
  .next <| match s.slotOf? slot with
    | none => s
    | some x => if (s.slotsBefore x).any fun y => s.slotReady y.idx then s else packetRun slot ty body s

def execSpacePacket (slot : Nat) (s : State) : Out := packetStep slot 1 (acceptLaunch 0x50) s
def execHarnessPacket (slot : Nat) (s : State) : Out := packetStep slot 2 (acceptLaunch 0x10) s

def execWaitPacket (slot : Nat) (s : State) : Out := packetStep slot 3 (waitBody fun _ => true) s

/-- A write has reached the word's home: the word is in HBM. -/
def execWaitReevaluate (slot : Nat) (s : State) : Out := packetStep slot 3 (waitBody fun k => k < hostBase || peerBase ≤ k) s

/-- The timer of 5 µs: words in host memory. -/
def execWaitRereadTimer (slot : Nat) (s : State) : Out := packetStep slot 3 (waitBody fun k => hostBase ≤ k && k < peerBase) s

def execSignalPacket (slot : Nat) (s : State) : Out := packetStep slot 4 signalBody s
def execCutloadPacket (slot : Nat) (s : State) : Out := packetStep slot 5 cutloadBody s
def execStdefPacket (slot : Nat) (s : State) : Out := packetStep slot 6 stdefBody s
def execPadPacket (slot : Nat) (s : State) : Out := packetStep slot 7 padBody s

/-! ## Mapping (R257, R258) -/

/-- Firmware writes its state of a queue, zeros, to the QCB (log entry 3). -/
def Memory.clearFirmware (m : Memory) (qcb : Nat) : Memory := (List.range 27).foldl (fun m i => m.putWord (qcb + 0x28 + 8 * i) 8 0) m
def Memory.firmwareClear (m : Memory) (qcb : Nat) : Bool := (List.range 27).all fun i => m.word (qcb + 0x28 + 8 * i) 8 == 0

/-- Take a queue off its slot; with a packet unaccepted it is pending. -/
def State.unmap (n : Nat) (s : State) : State :=
  match s.findQueue? n with
  | none => s
  | some q =>
    { s with mem := s.mem.clearFirmware q.qcb
             slots := upd (fun x => x.queue == some n) (fun x => { x with queue := none }) s.slots }.onQueue n fun q =>
      { q with pending := q.unread && !q.halt, steps := 0, eff := q.prio }

/-- Put a queue onto a slot: its effective priority is held, WR is read afresh, and firmware state that someone wrote halts it. A cell that
is bound to no context is bound to the queue's (19 R289). PRIO, CEIL, PRIV and SLA stay as CREATE read them (log entry 71). -/
def State.mapTo (n slot : Nat) (s : State) : State :=
  match s.findQueue? n with
  | none => s
  | some q =>
    let sb := s.bindCtx q.ctx
    let s0 := { sb with slots := upd (fun x => x.idx == slot) (fun x => { x with queue := some n }) sb.slots }.onCell q.cell fun k =>
      { k with ctx := some (k.ctx.getD q.ctx) }
    let s1 := s0.onQueue n fun q => { q with eff := q.aged, pending := false, steps := 0 }
    if q.halt then s1 else if s.mem.firmwareClear q.qcb then s1.rereadWr n else s1.haltQueue n 2

def State.cellSlots (s : State) (cell : Nat) : List SlotSt := s.slots.filter fun x => x.cell == cell

/-- The first slot of a cell that a test picks. -/
def State.slotWhere (s : State) (cell : Nat) (p : SlotSt → Bool) : Option Nat := ((s.cellSlots cell).find? p).map (·.idx)

/-- A mapped queue that yields its slot whatever the priorities: no launch resident, and empty or halted. -/
def State.yields (s : State) (x : SlotSt) : Bool :=
  match x.queue.bind s.findQueue? with
  | some q => !s.queueBusy q.num && (q.halt || !q.unread)
  | none => false

/-- The slot of the mapped queue of lowest effective priority, ties to the higher slot. -/
def State.lowestSlot (s : State) (cell : Nat) : Option SlotSt :=
  (leastBy (fun a b : Nat × SlotSt => decide (a.1 < b.1) || (a.1 == b.1 && decide (b.2.idx < a.2.idx)))
    ((s.cellSlots cell).filterMap fun x => x.queue.map fun q => (s.effOf q, x))).map (·.2)

/-- The slot that a pending queue takes (R258). -/
def State.slotFor (s : State) (q : Queue) : Option Nat :=
  match s.slotWhere q.cell fun x => x.queue.isNone with
  | some i => some i
  | none =>
    match s.slotWhere q.cell s.yields with
    | some i => some i
    | none =>
      match s.lowestSlot q.cell with
      | some x =>
        match x.queue with
        | some v => if s.effOf v < q.aged ∧ !s.queueBusy v then some x.idx else none
        | none => none
      | none => none

/-- Another pending queue of the cell goes first. -/
def State.mapsFirst (s : State) (q : Queue) : Bool :=
  s.queues.any fun x => x.pending && x.cell == q.cell &&
    (decide (q.aged < x.aged) || (x.aged == q.aged && decide (x.num < q.num)))

/-- QUEUE_MAP: a pending queue takes a slot of its cell. -/
def execQueueMap (queue : Nat) (s : State) : Out :=
  .next <| match s.findQueue? queue with
    | none => s
    | some q =>
      if !q.pending || s.mapsFirst q || !s.served q.qcb then s
      else match s.slotFor q with
        | none => s
        | some i =>
          match (s.slotOf? i).bind (·.queue) with
          | some v => if s.qcbServed v then (s.unmap v).mapTo queue i else s
          | none => s.mapTo queue i

/-- PRIORITY_AGEING: 2^20 cycles of the front end more. -/
def execPriorityAgeing (queue : Nat) (s : State) : Out :=
  .next (s.onQueue queue fun q => if q.pending then { q with steps := q.steps + 1 } else q)

/-! ## Kicks (R257, R265) -/

/-- A kick of a mapped queue rereads WR, and a WAIT of it the word in host memory. -/
def kickQueue (n : Nat) (s : State) : State :=
  match s.findQueue? n with
  | none => s
  | some q =>
    if q.halt then s
    else if !s.served q.qcb then s.onQueue n fun q => { q with doorbell := true }
    else match s.slots.find? fun x => x.queue == some n with
      | some x =>
        match packetStep x.idx 3 (waitBody fun k => hostBase ≤ k && k < peerBase) (s.rereadWr n) with
        | .next t => t
        | _ => s.rereadWr n
      | none => s.onQueue n fun q => { q with doorbell := true }

/-- KICK: a write of BAR0 +0x200. -/
def execKick (v : W64) (s : State) : Out := .next (kickQueue (bits v.toNat 11 0) s)

/-- DOORBELL_SERVICE: firmware reads the QCB. The queue becomes pending; an empty one takes only a free slot. A queue that has been mapped
meanwhile is kicked there. -/
def execDoorbellService (queue : Nat) (s : State) : Out :=
  .next <| match s.findQueue? queue with
    | none => s
    | some q =>
      if !q.doorbell || !s.served q.qcb then s
      else
        let s1 := s.onQueue queue fun q => { q with doorbell := false }
        if q.halt then s1
        else if s.mapped queue then kickQueue queue s1
        else
          let s2 := s1.rereadWr queue
          match s2.findQueue? queue with
          | none => s2
          | some q2 =>
            if q2.halt then s2
            else if q2.unread then s2.onQueue queue fun q => { q with pending := true, steps := if q.pending then q.steps else 0 }
            else match s2.slotWhere q2.cell fun x => x.queue.isNone with
              | some i => s2.mapTo queue i
              | none => s2

/-! ## Errors and updates (R263, R264) -/

/-- Launches of a queue end with ENDED. -/
def State.endLaunches (p : Launch → Bool) (s : State) : State :=
  { s with launches := upd (fun l => p l && !l.ends) (fun l =>
      { l with status := some 9, faultIdx := some (l.faultIdx.getD (l.running.foldl Nat.min l.nextIdx)) }) s.launches }

/-- QUEUE_SRAM_ERROR. -/
def execQueueSramError (queue : Nat) (s : State) : Out :=
  .next (if !s.qcbServed queue then s else (s.haltQueue queue 4).endLaunches fun l => l.queue == queue && !s.isSaved l.id)

/-- The packet at a mapped queue's RD waits by WAIT or by BAR: a dependence counter of it is live. -/
def State.counterLive (s : State) (q : Queue) : Bool :=
  match s.slots.find? fun x => x.queue == some q.num with
  | none => false
  | some x =>
    match s.headOf x.idx with
    | .inl (some (_, hd, _)) =>
      let h := numAt hd 0 8
      decide (q.rd + 16 * pktLen h ≤ q.wr) && (pktType h == 3 || (pktBar h && s.queueBusy q.num))
    | _ => false

/-- DEPLOST: an uncorrectable error in the counter that tracks a live WAIT or BAR. The packet waits no more, and every launch that stands in
the ring from there to WR fails; so does a child that its BAR holds (log entry 27). -/
def execDeplost (queue : Nat) (s : State) : Out :=
  .next <| match s.findQueue? queue with
    | none => s
    | some q =>
      match s.children.find? fun c => c.queue == queue with
      | some c =>
        if pktBar (numAt c.bytes 0 8) && s.launches.any fun l => l.queue == queue && decide (l.id < c.id) then
          { s with children := upd (fun x => x.id == c.id) (fun x => { x with lost := true }) s.children }
        else s
      | none => if s.counterLive q then s.onQueue queue fun q => { q with deplost := some (q.rd, q.wr) } else s

/-- FIRMWARE_LIVE_UPDATE: the standby complex takes over, at the version that both speak (19 R290). -/
def execFirmwareLiveUpdate (version : Nat) (s : State) : Out :=
  .next (if version = 0 then s
    else { s with dev := { s.dev with complex := 1 - s.dev.complex, fver := Nat.min version s.dev.fverMax } })

/-! ## Issue selection (R262) -/

/-- The group may issue: it is ready, its launch goes on, and its cell is not being halted. A halt waits for a RESIZE (08 R160). -/
def State.canIssue (s : State) (g : Group) : Bool :=
  g.live && g.susp == .ready &&
  (match s.findTeam? g.core g.slot with
   | some t => !t.inL2 && match s.findLaunch? t.launch with
     | some l => !l.ends
     | none => true
   | none => false) &&
  match cellOfCore s g.core with
  | some c => !c.halting || g.resizing
  | none => true

/-- The place of a group in its quadrant's order. -/
def Group.turn (g : Group) : Nat := 1 + 32 * g.slot + g.gid

/-- The place of the group that issued last in a quadrant; 0 where none has. -/
def State.lastTurn (s : State) (core quad : Nat) : Nat :=
  match s.findCore? core with
  | some c => mapGet 0 c.lastQuad quad
  | none => 0

/-- Ready groups of a quadrant, from the one after the group that issued last. -/
def State.turns (s : State) (core quad : Nat) : List Group :=
  let last := s.lastTurn core quad
  let gs := sortBy (fun a b => decide (a.turn ≤ b.turn)) (s.allGroups.filter fun g => g.core == core && g.gid % 4 == quad && s.canIssue g)
  gs.filter (fun g => decide (last < g.turn)) ++ gs.filter fun g => decide (g.turn ≤ last)

/-- The instruction in hand would not issue now for what it waits for itself, past the checks that fault before the wait (log entry 6). -/
def State.awaits (s : State) (i : Instr) : Bool :=
  match i with
  | .ld g _ w _ sp _ _ _ av as _ =>
    let ls := s.grp.laneAddrs sp as av (s.lanes g)
    (s.memTrap sp w.bytes ls).isNone && s.loadWaits sp ls
  | .st g w sp rel sc _ av as _ =>
    let ls := s.grp.laneAddrs sp as av (s.lanes g)
    (s.memTrap sp w.bytes ls).isNone && s.storeWaits w.bytes sp rel sc ls
  | .sld _ w _ sp _ _ _ as _ off =>
    let ls := [(0, s.grp.scalarAddr as off.val w.bytes)]
    (s.memTrap sp w.bytes ls).isNone && s.loadWaits sp ls
  | .sst w sp rel sc _ as _ off =>
    let ls := [(0, s.grp.scalarAddr as off.val w.bytes)]
    (s.memTrap sp w.bytes ls).isNone && s.storeWaits w.bytes sp rel sc ls
  | .cpy g _ w b _ bv gv gs _ => s.copyAwaits false g w.bytes b bv gv gs
  | .cpyToGlobal g _ w b _ bv gv gs _ => s.copyAwaits true g w.bytes b bv gv gs
  | .stch g _ _ sc _ _ av as =>
    (laneTrap 10 .glob (fun a => a % 4 ≠ 0) (s.grp.laneAddrs .glob as av (s.lanes g))).isNone &&
      (!s.releaseReady sc || s.overflows (s.slotNeed i))
  | .mdrain _ _ toD ct _ c ds _ =>
    let n := bits (s.grp.S (ds.val + 1)).toNat 8 0
    (s.drainTrap i ct toD c ds).isNone &&
      (s.grp.pend.any (dependsOn ([kS ds.val, kS (ds.val + 1)] ++ rangeKeys [(c.val, if ct == .f64 then 2 * n else n)]) []) ||
       s.overflows (s.slotNeed i))
  | .mma _ f sc zc c bv ds =>
    let u := mmaUses f sc zc c bv ds (s.gangSet s.grp).length (mcfg (s.grp.S (ds.val + 1)).toNat)
    (s.mmaTrap i f sc c bv ds).isNone &&
      (s.grp.pend.any (dependsOn u.1 u.2) || (s.resizing && aSpace (s.grp.S ds.val).toNat == some .a))
  | .mldb _ f fromA bv ds _ =>
    let k := mcfg (s.grp.S (ds.val + 1)).toNat
    let q := (s.gangSet s.grp).findIdx fun r => r == s.grp.ref
    (s.mldbTrap i f (if fromA then .a else .w) bv ds q).isNone &&
      s.grp.pend.any (dependsOn [kS ds.val, kS (ds.val + 1)] (rangeKeys [(bv.val, k.ks * f.nb k.n (s.gangSet s.grp).length)]))
  | .fence sc ld st eng => s.fenceWaits sc ld st eng
  | .resize _ a => match s.resizeTo (s.grp.S a.val).toNat with
    | .to t => s.resizeWaits t
    | _ => false
  | .strel _ => s.run.isSome
  | .launch _ a =>
    let r := (s.grp.S a.val).toNat
    decide (r % 64 = 0) && (!s.releaseReady .device || s.rangeWait r 8 || !s.onceMay r 8 || s.overflows (s.slotNeed i))
  | .stdef _ a b =>
    let r := (s.grp.S a.val).toNat
    decide ((s.grp.S b.val).toNat ≤ 255) && decide (r % 8 = 0) && (s.rangeWait r 8 || !s.onceMay r 8)
  | .exitNext _ sl => s.lastGroup && (s.rangeWait (s.grp.S sl.val).toNat 64 || !s.onceMay (s.grp.S sl.val).toNat 64)
  | _ => false

/-- The group in focus waits at what it would issue next (03 R56): a header wait, the end of a window, a scoreboard hold, or another wait of the
instruction. One of class M or C faults outside its role before it meets a hold. -/
def State.standsStill (s : State) : Bool :=
  match s.inHand? with
  | none => s.grp.hdr.isNone && match (s.fetch s.grp.base).1 with
    | .word w => (decodeHeader w.toNat).any fun h => !s.grp.waitsMet h
    | _ => false
  | some i =>
    let outside := match Instr.engine i with
      | some (k, cls) => s.grp.roleFault k cls
      | none => false
    s.grp.windowShut i || (!outside && (s.holds i || (!Instr.isNever i && (s.grp.bounds i).isNone && s.awaits i)))

/-- The group can issue now: it is ready, and nothing holds it. -/
def State.canGo (s : State) (g : Group) : Bool := s.canIssue g && !(s.focus g.core g.slot g.gid).standsStill

/-- The group stands at a wait point or at a clause boundary (03 R56): it waits, the translation of its word or of what issued before it keeps the
instruction from the next cycle (R57), or it got there by a control transfer. A header comes after a transfer, and at a boundary. -/
def State.atWait (s : State) (g : Group) : Bool :=
  let x := s.focus g.core g.slot g.gid
  g.hdr.isNone || g.gap != .no || (x.core.cached? x.team.ctx g.addr).isNone || x.standsStill

/-- The group issued last in the quadrant. -/
def State.issuedLast (s : State) (core quad : Nat) (g : Group) : Bool :=
  g.live && g.core == core && g.gid % 4 == quad && g.turn == s.lastTurn core quad

/-- The quadrant may switch to another group: the one that issued last cannot issue, or stands at a wait point. -/
def State.maySwitch (s : State) (core quad : Nat) : Bool :=
  match s.allGroups.find? (s.issuedLast core quad) with
  | some g => !s.canIssue g || s.atWait g
  | none => true

/-- ISSUE_SELECT: at a wait point or a clause boundary the next ready group of the quadrant comes into focus: the one at the place `longest`,
where the event says that a group has been ready for more than 256 cycles, that one longest; else the next in round robin. A group that waits at its
next instruction is not ready to issue. -/
def execIssueSelect (core : Nat) (turn : Turn) (s : State) : Out :=
  .next <| if !s.maySwitch core turn.quad then s
    else
      let ts := (s.turns core turn.quad).filter s.canGo
      let pick := match ts.find? fun g => g.turn == turn.longest with
        | some g => some g
        | none => ts.head?
      match pick with
      | none => s
      | some g => s.focus g.core g.slot g.gid

end Sys2Proof.Machine
end

