-- ==== Sys2Proof/Machine/Preempt.lean ====
section
/-! DEFINITION. Machine/Preempt.lean: pre-emption of a cell: the halt, the save, the restore (17 R277 to R282), and the images that
firmware moves (17 R279). -/

namespace Sys2Proof.Machine

/-! ## Sizes of images (Table 17-4) -/

def groupSize (g : Group) : Nat := 1024 + 4096 * vBlocks g.vcap + 256 * sBlocks g.scap
def teamSize (t : Team) : Nat := 2048 + 16384 * (t.wAll + t.aNow + t.dAll)
/-- The cell header's part for a launch: the spec gives it no size (log entry 57). -/
def headerSize : Nat := 4096
def imageSize (ts : List Team) (gs : List Group) (launches : Nat) : Nat :=
  (ts.map teamSize).foldl (· + ·) 0 + (gs.map groupSize).foldl (· + ·) 0 + headerSize * launches
def Image.bytes (m : Image) : Nat := imageSize m.teams m.groups m.launches.length

/-- Bytes that a die's images take in its shadow ways, or in its overflow area. -/
def State.imageBytes (s : State) (die : Nat) (ovf : Bool) : Nat :=
  ((s.images.filter fun m => m.die == die && m.inOverflow == ovf).map Image.bytes).foldl (· + ·) 0

/-- 128 MiB a reserved way (01 R20), and the overflow area of 4 GiB (R279). -/
def State.shadowBytes (s : State) : Nat := 2 ^ 27 * s.dev.record.shw
def overflowBytes : Nat := 2 ^ 32

/-- Where a save of n bytes has room on a die: in the shadow ways, else (true) in the overflow area, else nowhere. -/
def State.roomFor (s : State) (die n : Nat) : Option Bool :=
  if s.imageBytes die false + n ≤ s.shadowBytes then some false
  else if s.imageBytes die true + n ≤ overflowBytes then some true
  else none

/-- The largest save that a cell can need: about 132 MiB for 48 cores, 2.75 MiB a core (R279). -/
def CellSt.largestSave (c : CellSt) : Nat := 11 * 2 ^ 18 * c.cores.length

/-! ## Teams of a cell -/

def CellSt.has (c : CellSt) (core : Nat) : Bool := c.clusters.contains (core / Config.clusterSize)
def CellSt.die (c : CellSt) : Nat := c.clusters.headD 0 / Config.dieClusters
def State.cellTeams (s : State) (c : CellSt) : List Team := s.allTeams.filter fun t => t.live && c.has t.core
def State.cellGroups (s : State) (c : CellSt) : List Group := s.allGroups.filter fun g => g.live && c.has g.core

/-! ## The halt (R277) -/

/-- Bytes of a cell's save. -/
def State.saveBytes (s : State) (c : CellSt) : Nat := imageSize (s.cellTeams c) (s.cellGroups c) (s.resident c.id).length

/-- The slice clock of a die stands at 2600 MHz or more while a save or a restore runs there (01 R24). -/
def State.raiseSlice (die : Nat) (s : State) : State :=
  { s with dev := { s.dev with sliceMhz := s.dev.sliceMhz.mapIdx fun i f => if i = die then Nat.max 2600 f else f } }

/-- A halt begins. -/
def State.halt (cell : Nat) (s : State) : State :=
  match s.findCell? cell with
  | none => s
  | some c => (s.raiseSlice c.die).onCell cell fun c => { c with halting := true }

/-- PREEMPTION: firmware asks for it, unless neither the shadow ways nor the overflow area of the die have room for the save (R279). -/
def execPreemption (cell : Nat) (s : State) : Out :=
  .next <| match s.findCell? cell with
    | none => s
    | some c => if (s.roomFor c.die (s.saveBytes c)).isNone then s else s.halt cell

/-- An instruction that has issued has still to make its arrival or its placement. -/
def Susp.issuing : Susp → Bool
  | .sync _ => true
  | .rput _ _ _ => true
  | _ => false

/-- HALT_REPORTED: every issued instruction of the cell has completed, a RESIZE that waits among them (08 R160), and every line that they
asked for has come. -/
def execHaltReported (cell : Nat) (s : State) : Out :=
  .next <| match s.findCell? cell with
    | none => s
    | some c =>
      let running := match s.run with
        | some r => c.has r.core
        | none => false
      if !c.halting || running || (s.cellGroups c).any (fun g => !g.pend.isEmpty || g.susp.issuing || (g.resizing && s.canIssue g)) ||
         (s.cellTeams c).any s.asksFill then s
      else s.onCell cell fun c => { c with reported := true }

/-! ## The save (R280) -/

/-- L1 lines of the context leave the cell. -/
def State.dropLines (c : CellSt) (ctx : Nat) (s : State) : State :=
  s.mapCores fun k => if c.has k.id then { k with lines := k.lines.filter fun x => x.ctx != ctx } else k

/-- CONTEXT_SAVE: once launches that end or are done have gone (Table 17-7). The image goes to the shadow ways, to the overflow area where
those have no room, and where neither has, the cell goes on unsaved (R279; log entry 57). -/
def execContextSave (cell : Nat) (s : State) : Out :=
  .next <| match s.findCell? cell with
    | none => s
    | some c =>
      let ls := s.resident cell
      if !c.reported || ls.any (fun l => l.ends || s.launchDone l) then s
      else match c.ctx with
        | none => s.onCell cell fun c => { c with halting := false, reported := false }
        | some ctx => match if ls.isEmpty then none else s.roomFor c.die (s.saveBytes c) with
        | none => s.onCell cell fun c => { c with halting := false, reported := false }
        | some ovf =>
          let m : Image := { num := s.nextImage, ctx := ctx, die := c.die, launches := ls.map (·.id), teams := s.cellTeams c,
                             groups := s.cellGroups c, inOverflow := ovf }
          let s1 := (s.dropTeams fun t => c.has t.core).dropLines c ctx
          { s1 with images := s1.images ++ [m], nextImage := s1.nextImage + 1 }.onCell cell fun c =>
            { c with ctx := none, halting := false, reported := false }

/-! ## The restore (R281) -/

/-- What the acquires of a saved team know stands at the new core as its present epoch; it has no store queued. -/
def Know.at (e : Nat) (k : Know) : Know := { k with epoch := e, upto := 0 }
def Bar.at (e : Nat) (b : Bar) : Bar := { b with cur := b.cur.at e, done := b.done.at e }
def Hand.at (e : Nat) (h : Hand) : Hand := { h with near := h.near.at e }
def Release.at (e : Nat) (r : Release) : Release := { r with hand := r.hand.at e }
def Rel.at (e : Nat) (r : Rel) : Rel := { r with what := r.what.at e }
/-- A thread whose writes are held has ended before the save: its order there is that of no instruction of the new core. -/
def Held.at (e o : Nat) (h : Held) : Held := { h with rel := h.rel.map (Release.at e), order := o }
def FenceMark.at (m : FenceMark) : FenceMark := { m with upto := 0 }

/-- A saved team at epoch e and order o of core c, slot k, generation g. -/
def Team.at (c k g e o : Nat) (p : Spot) (t : Team) : Team :=
  { t with core := c, slot := k, gen := g, wpos := p.w, apos := p.a, dpos := p.d, rels := t.rels.map (Rel.at e),
           held := t.held.map (Held.at e o), bars := t.bars.map (fun b => (b.1, b.2.at e)), poolKnow := t.poolKnow.map fun b => (b.1, b.2.at e) }

/-- A saved group there. Records that it has still to write name its new place (Table 17-7). -/
def Group.at (c k e : Nat) (g : Group) : Group :=
  { g with core := c, slot := k, know := g.know.at e, readKnow := g.readKnow.at e, fork := g.fork.at e,
           ownRels := g.ownRels.map (Rel.at e), fenceTeam := g.fenceTeam.map FenceMark.at, fenceDev := g.fenceDev.map FenceMark.at,
           recs := if g.unwritten then g.recs.map fun r => { r with core := c, team := k } else g.recs }

/-- A saved team in core c, slot k: its ways taken, unless its chain has given them back, and the slot's generation raised. It takes a place in the
core's order, which its held writes have from then on. -/
def State.placeTeam (t : Team) (gs : List Group) (c k : Nat) (p : Spot) (s : State) : State :=
  match s.findCore? c with
  | none => s
  | some x =>
    let gen := (mapGet 0 x.gens k + 1) % 2 ^ 16
    let e := x.epoch + 1
    let ways := if t.retiring then 16 else 16 - (t.aNow - t.agBase)
    let s1 := s.mapCores fun y =>
      if y.id = c then
        { y.dropPriv k with gens := mapSet 0 y.gens k gen, epoch := e, seq := y.seq + 1, l1w := Nat.min y.l1w ways,
                            lines := (y.dropPriv k).lines.filter fun z => decide (z.way < ways) }
      else y
    { s1 with teams := s1.teams ++ [t.at c k gen e x.seq p], groups := s1.groups ++ gs.map (Group.at c k e),
              rels := upd (fun r => r.what.team == t.ident) (Rel.at e) s1.rels }

/-- The groups of a saved team. -/
def Image.groupsOf (m : Image) (t : Team) : List Group := m.groups.filter fun g => g.core == t.core && g.slot == t.slot

/-- The spot of a saved team in core c, slot k. -/
def State.placeSpot (s : State) (t : Team) (gs : List Group) (c k : Nat) : Option Spot :=
  if (s.findCore? c).isNone || Config.teamSlots ≤ k || (s.teamsOn c).any (fun x => x.slot == k) then none
  else if !t.retiring && !(s.groupsFit c gs && s.exclFits c t.body.excl) then none
  else match freeBlock (bufGranules .w) (if t.retiring then 0 else t.wAll) (s.blocksOf c .w),
             freeBlock (bufGranules .a) (if t.retiring then 0 else t.agBase) (s.blocksOf c .a),
             freeBlock (bufGranules .d) t.dAll (s.blocksOf c .d) with
    | some w, some a, some d => some ⟨k, w, a, d⟩
    | _, _, _ => none

/-- Teams that stay together: the pair even to even on one core pair, a harness on consecutive cores of one cluster from an even
core. -/
def placesOk (xs : List (Team × Nat × Nat)) : Bool :=
  xs.all fun x =>
    (!x.1.body.pair || x.2.1 % 2 == x.1.core % 2) &&
    (!x.1.harness || (decide (x.1.hidx ≤ x.2.1) && (x.2.1 - x.1.hidx) % 2 == 0)) &&
    xs.all fun y =>
      (!(x.1.body.pair && y.1.launch == x.1.launch && y.1.piece.idx == x.1.piece.idx) || x.2.1 / 2 == y.2.1 / 2) &&
      (!(x.1.harness && y.1.launch == x.1.launch) ||
        (x.2.1 + y.1.hidx == y.2.1 + x.1.hidx && x.2.1 / Config.clusterSize == y.2.1 / Config.clusterSize))

/-- Place the teams one after another. -/
def State.placeAll (m : Image) : List (Team × Nat × Nat) → State → Option State
  | [], s => some s
  | x :: xs, s =>
    match s.placeSpot x.1 (m.groupsOf x.1) x.2.1 x.2.2 with
    | none => none
    | some p => State.placeAll m xs (s.placeTeam x.1 (m.groupsOf x.1) x.2.1 x.2.2 p)

/-- A slot of the cell with a higher effective priority than every queue of a saved context, and of another context, holds a packet that is
not accepted (18 R284). -/
def State.outranked (s : State) (cell : Nat) (m : Image) : Bool :=
  let mine := ((s.launches.filter fun l => m.launches.contains l.id).map fun l => s.effOf l.queue).foldl Nat.max 0
  s.slots.any fun x => x.cell == cell && match x.queue.bind s.findQueue? with
    | some q => q.ctx != m.ctx && q.unread && !q.halt && decide (mine < s.effOf q.num)
    | none => false

/-- CONTEXT_RESTORE: an image into a cell that runs no other context, at the cores and slots that firmware chooses. -/
def execContextRestore (image cell : Nat) (places : List (Nat × Nat)) (s : State) : Out :=
  .next <| match s.images.find? fun m => m.num == image, s.findCell? cell with
    | some m, some c =>
      let xs := m.teams.zip places
      if places.length ≠ m.teams.length ∨ s.mayRun c m.ctx = false ∨ placesOk xs = false ∨ xs.any (fun x => !c.has x.2.1) = true ∨
         s.outranked cell m = true then s
      else match (s.raiseSlice c.die).placeAll m xs with
        | none => s
        | some s1 =>
          let mine := fun l : Nat => m.launches.contains l
          { s1 with
            images := s1.images.filter fun x => x.num != image
            launches := upd (fun l => mine l.id) (fun l => { l with cell := cell }) s1.launches
            children := upd (fun x => mine x.parent) (fun x => { x with cell := cell }) s1.children }.onCell cell fun c =>
              { c with ctx := some m.ctx }
    | _, _ => s

/-- SHADOW_IMAGE_MOVE: to the overflow area of the die, or back into its shadow ways, where there is room. -/
def execShadowImageMove (image : Nat) (toOverflow : Bool) (s : State) : Out :=
  .next <| match s.images.find? fun m => m.num == image with
    | none => s
    | some m =>
      let cap := if toOverflow then overflowBytes else s.shadowBytes
      if m.inOverflow == toOverflow || decide (cap < s.imageBytes m.die toOverflow + m.bytes) then s
      else { s with images := upd (fun m => m.num == image) (fun m => { m with inOverflow := toOverflow }) s.images }

end Sys2Proof.Machine
end

