-- ==== Sys2Proof/Machine/Pages.lean ====
section
/-! DEFINITION. Machine/Pages.lean: what firmware does about faults (17 R270, R271), page migration (08 R158), the compactor (08 R165
to R167), parking of teams (16 R261), and errors of a core's storage (12 R222). -/

namespace Sys2Proof.Machine

/-! ## Resolving faults -/

/-- A fault record as its 32 bytes hold it, in four words (17 Table 17-2). -/
def FRec.words (r : FRec) : List Nat :=
  [r.kind + r.cause * 2 ^ 8 + r.opc * 2 ^ 16 + r.gid * 2 ^ 24 + r.team * 2 ^ 29 + r.core * 2 ^ 34 + r.slot * 2 ^ 42 + bit r.wr * 2 ^ 46 +
     bit r.last * 2 ^ 47 + r.seq * 2 ^ 48 + r.lane * 2 ^ 53,
   r.cbase / 8 * 8, r.d0.toNat, r.d1.toNat + r.pidx.toNat * 2 ^ 32]

/-- What firmware finds for a record: it is resolved, it has to wait for a migration, or it is never resolved. What was resolved before
it stays so. -/
inductive Resolved
  | done (s : State)
  | waits (s : State)
  | never (s : State)
  deriving DecidableEq, Repr

/-- R271, one record. -/
def State.resolve (ctx : Nat) (r : FRec) (s : State) : Resolved :=
  let va := r.d0.toNat
  let page := fun p : Nat => p == va / 8192
  if r.kind = 2 then
    match s.walk ctx va with
    | .leaf l => if l.mig then .waits s else .done s
    | _ => .done s
  else if r.cause ≠ 0 then .never s
  else match s.walk ctx va with
    | .notMapped =>
      match s.backPage ctx va with
      | some s1 => .done (s1.invalidate ctx page)
      | none => .never s
    | _ => .done (s.invalidate ctx page)

def State.resolveAll (ctx : Nat) : List FRec → State → Resolved
  | [], s => .done s
  | r :: rs, s =>
    match s.resolve ctx r with
    | .done s1 => State.resolveAll ctx rs s1
    | .waits s1 => .waits s1
    | .never s1 => .never s1

/-- Firmware consumes the records of the group in focus, in whichever cell's ring they were written. -/
def State.consume (s : State) : State :=
  let rs := s.grp.recs
  { s with cells := s.cells.map (CellSt.consume rs.contains) }

/-- FAULT_RESOLVE: the group is resumed once all its records are resolved; a record that never is ends the launch with kind 1. -/
def execFaultResolve (core slot gid : Nat) (s : State) : Out :=
  .next <| s.withFocus core slot gid fun s =>
    if !(s.grp.live && s.grp.is core slot gid && s.grp.susp == .parked) || s.grp.unwritten || s.ending then s
    else match s.resolveAll s.team.ctx s.grp.recs with
      | .waits s1 => s1
      | .done s1 => s1.consume.onGrp Group.unpark
      | .never s1 => (s1.consume.onLaunch s.team.launch (Launch.setFault 1)).onGrp fun g => { g with susp := .stopped }

/-- Write the records of a group again, all or none (R270). -/
def State.rewrite (cell : Nat) (g : Group) (s : State) : State :=
  match s.findCell? cell with
  | none => s
  | some c =>
    let s1 := s.onCell cell fun c => c.append g.recs
    if c.ring.length + g.recs.length ≤ ringSize then
      s1.mapGroups fun x => if x.live && x.is g.core g.slot g.gid then { x with unwritten := false } else x
    else s1

/-- FAULT_RING_OVERFLOW_CLEAR. -/
def execFaultRingOverflowClear (cell : Nat) (s : State) : Out :=
  .next <| match s.findCell? cell with
    | none => s
    | some c =>
      let gs := (s.cellGroups c).filter (·.unwritten)
      gs.foldl (fun s g => s.rewrite cell g) (s.onCell cell fun c => { c with overflow := false })

/-! ## Migration -/

/-- The page of a leaf that holds an address: its first address. -/
def Leaf.page (l : Leaf) (va : Nat) : Nat := va / l.size * l.size
/-- The pages of 8 KiB of a page. -/
def pagesOf (va size : Nat) (p : Nat) : Bool := decide (va / 8192 ≤ p) && decide (p < va / 8192 + size / 8192)

/-- The key of the first byte of a leaf's page. -/
def Leaf.start (l : Leaf) (va : Nat) : Nat := l.base - va % l.size / 8192 * 8192

def State.mig? (s : State) (ctx va : Nat) : Option Mig := s.migs.find? fun m => m.ctx == ctx && m.va == va

/-- Keys of a range, divided by 8192. -/
def framesOf (key size : Nat) (p : Nat) : Bool := decide (key / 8192 ≤ p) && decide (p < key / 8192 + size / 8192)

/-- PAGE_MIGRATION_BEGIN, step 1: W is cleared and MIG set, once every access through the old entry has performed, held writes too: no
load that is on its way brings an L1 line with the old W and D any more (08 R154). -/
def execPageMigrationBegin (ctx va : Nat) (s : State) : Out :=
  .next <| match s.walk ctx va with
    | .leaf l =>
      let base := l.page va
      let ps := pagesOf base l.size
      if l.mig || s.inFlight ctx ps || s.heldFor ctx (framesOf (l.start va) l.size) then s
      else
        let e := s.mem.word l.entry 8
        let e' := putBits (putBits e 2 1 0) 63 1 1
        let s1 := { s with mem := s.mem.putWord l.entry 8 e', migs := s.migs ++ [({ ctx := ctx, va := base, w := l.w } : Mig)] }
        s1.invalidate ctx ps
    | _ => s

/-- Copy `n` bytes from one key to another. -/
def Memory.copyBytes (m : Memory) (src dst n : Nat) : Memory :=
  let cleared := m.filter fun c => decide (c.1 < dst ∨ dst + n ≤ c.1)
  (m.filter fun c => decide (src ≤ c.1) && decide (c.1 < src + n)).foldl (fun m c => m.put (c.1 - src + dst) c.2) cleared

/-- A stitch holds a line of a range. -/
def State.heldIn (s : State) (key n : Nat) : Bool :=
  match s.run with
  | some r => decide (key ≤ r.key) && decide (r.key < key + n)
  | none => false

/-- A frame of local HBM for a page. -/
def frameOk (frame size : Nat) : Bool := decide (frame % size = 0) && decide (frame + size ≤ 2 ^ 39)

/-- PAGE_MIGRATION_COPY, step 2. -/
def execPageMigrationCopy (ctx va frame : Nat) (s : State) : Out :=
  .next <| match s.walk ctx va with
    | .leaf l =>
      let base := l.page va
      if (s.mig? ctx base).isNone || s.heldIn (l.start va) l.size || !frameOk frame l.size then s
      else { s with
        mem := s.mem.copyBytes (l.start va) frame l.size
        migs := upd (fun m => m.ctx == ctx && m.va == base) (fun m => { m with copied := some frame }) s.migs }
    | _ => s

/-- A key in the old frame names the same byte of the new one. -/
def moveKey (src dst n k : Nat) : Nat := if src ≤ k ∧ k < src + n then k - src + dst else k

def moveAcc (f : Nat → Nat) (a : LaneAcc) : LaneAcc := { a with key := f a.key }
def moveCells (f : Nat → Nat) (cs : List Host.Cell) : List Host.Cell := cs.map fun c => (f c.1, c.2)

/-- Accesses of the context that were translated through the old entry go to the new frame (step 4). -/
def PKind.move (f : Nat → Nat) : PKind → PKind
  | .load as w sx home acq dst => .load (as.map (moveAcc f)) w sx home acq dst
  | .copy d w b bar x k as => .copy d w b bar x k (as.map fun a => (moveAcc f a.1, a.2))
  | k => k

def HeldKind.move (f : Nat → Nat) : HeldKind → HeldKind
  | .bytes cs => .bytes (moveCells f cs)
  | .stitch sl va key a => .stitch sl va (f key) a
  | .add dbl cs => .add dbl (moveCells f cs)
  | .child bs => .child bs

def Held.move (f : Nat → Nat) (h : Held) : Held := { h with kind := h.kind.move f }

/-- What a release wrote in the old frame stands in the new one. -/
def Rel.move (f : Nat → Nat) (r : Rel) : Rel := { r with lo := f r.lo }

/-- Lines with errors that the copy carries along (12 R222). -/
def moveLines (f : Nat → Nat) (ls : List Nat) : List Nat := ls.map fun l => f (l * 128) / 128

/-- Everything that names a byte of the old frame. -/
def State.moveKeys (ctx : Nat) (f : Nat → Nat) (s : State) : State :=
  let mine := fun g : Group => g.live && s.groupCtx g == some ctx
  let s1 := s.mapGroups fun g => if mine g then
    { g with pend := g.pend.map (fun p => { p with kind := p.kind.move f }), ownRels := g.ownRels.map (Rel.move f) } else g
  let s2 := s1.mapTeams fun t => if t.live && t.ctx == ctx then { t with held := t.held.map (Held.move f) } else t
  { s2 with
    rels := s2.rels.map (Rel.move f)
    poisoned := moveLines f s2.poisoned
    lineErrors := moveLines f s2.lineErrors
    launches := upd (fun l => l.ctx == ctx) (fun l =>
      { l with retired := l.retired.map fun r => { r with held := r.held.map fun h => (h.1, h.2.1, h.2.2.move f) } }) s2.launches
    images := upd (fun m => m.ctx == ctx) (fun m =>
      { m with
        teams := m.teams.map fun t => { t with held := t.held.map (Held.move f) }
        groups := m.groups.map fun g => { g with ownRels := g.ownRels.map (Rel.move f) } }) s2.images }

/-- The leaf at the new frame: SYS 0, DEV the device's own, W restored, MIG cleared. -/
def movedLeaf (dev frame : Nat) (w : Bool) (e : Nat) : Nat :=
  putBits (putBits (putBits (putBits (putBits e 2 1 (bit w)) 12 1 0) 13 11 dev) 24 39 (frame / 8192)) 63 1 0

/-- Lines of neither frame of a page that moves: those of the old frame end with it, and the new frame's start invalid (09 R183). -/
def State.dropFrames (src dst n : Nat) (s : State) : State :=
  let at_ := fun (k line : Nat) => decide (k ≤ line * 128) && decide (line * 128 < k + n)
  { s with rlines := s.rlines.filter fun x => !at_ src x.line && !at_ dst x.line }

/-- A home has still to fill a line of a range. -/
def State.fillsIn (s : State) (key n : Nat) : Bool := s.fills.any fun f => decide (key ≤ f.req.key) && decide (f.req.key < key + n)

/-- PAGE_MIGRATION_END, steps 3 and 4: reads that were on their way to the old frame read the new one. -/
def execPageMigrationEnd (ctx va frame : Nat) (s : State) : Out :=
  .next <| match s.walk ctx va with
    | .leaf l =>
      let base := l.page va
      match s.mig? ctx base with
      | none => s
      | some m =>
        if m.copied ≠ some frame ∨ s.fillsIn (l.start va) l.size = true ∨ s.fillsIn frame l.size = true then s
        else
          let e := movedLeaf s.dev.devid frame m.w (s.mem.word l.entry 8)
          let s1 := { s with mem := s.mem.putWord l.entry 8 e, migs := s.migs.filter fun x => !(x.ctx == ctx && x.va == base),
                             rels := writeRels none frame l.size s.rels }
          ((s1.invalidate ctx (pagesOf base l.size)).moveKeys ctx (moveKey (l.start va) frame l.size)).dropFrames (l.start va) frame l.size
    | _ => s

/-! ## The compactor -/

/-- An access of the team to one of its buffers has issued and not completed, copies that write it apart (R166). -/
def Pend.usesBuf (b : Buf) (p : Pend) : Bool :=
  match p.kind with
  | .load as _ _ _ _ _ => as.any fun a => keySpace a.key == b.space
  | .mldb parts => parts.any fun x => x.2.any fun k => keySpace k == b.space
  | .copy toGlobal _ c _ _ _ _ => toGlobal && c == b
  | .mdrain _ _ _ _ cells => b == .d && !cells.isEmpty
  | .mma _ => b != .d
  | _ => false

def Team.bufPos (t : Team) (b : Buf) : Nat :=
  match b with
  | .w => t.wpos | .a => t.apos | .d => t.dpos
def Team.bufSize (t : Team) (b : Buf) : Nat :=
  match b with
  | .w => t.wAll | .a => t.agBase | .d => t.dAll
def Team.setPos (b : Buf) (p : Nat) (t : Team) : Team :=
  match b with
  | .w => { t with wpos := p } | .a => { t with apos := p } | .d => { t with dpos := p }

/-- The blocks of a buffer that other teams hold. -/
def State.othersBlocks (s : State) (b : Buf) : List (Nat × Nat) :=
  let ts := match b with
    | .d => s.teamsOn s.team.core
    | _ => s.holders s.team.core
  ((ts.filter fun t => t.slot != s.team.slot).map fun t => (t.bufPos b, buddy (t.bufSize b))).filter fun u => decide (0 < u.2)

/-- COMPACTOR_MOVE: one allocation to a free aligned place; never a commit area whose piece commits (R167). -/
def execCompactorMove (core slot : Nat) (buf : Buf) (pos : Nat) (s : State) : Out :=
  .next <| s.withTeam core slot fun s =>
    let t := s.team
    let n := buddy (t.bufSize buf)
    if !(t.live && t.is core slot) || t.retiring || n = 0 || decide (pos % n ≠ 0) || decide (bufGranules buf < pos + n) ||
       (s.othersBlocks buf).any (fun u => overlap (pos, n) u) || decide (16 ≤ s.core.fwd.length) ||
       s.teamGroups.any (fun g => g.pend.any (Pend.usesBuf buf)) then s
    else
      let f : Forward := { slot := slot, buf := buf, old := t.bufPos buf, new := pos, before := s.core.seq }
      (s.onTeam (Team.setPos buf pos)).onCore fun c => { c with fwd := c.fwd ++ [f] }

/-- Moves that make room in a buffer of a core for g granules where only fragmentation stands in the way (08 R165): each block to the lowest
place where it fits. -/
def State.squeeze (s : State) (c : Nat) (b : Buf) (g : Nat) : List Instr :=
  let used := s.blocksOf c b
  let taken := ((used.filter fun u => decide (0 < u.2)).map fun u => buddy u.2).foldl (· + ·) 0
  if (freeBlock (bufGranules b) g used).isSome || decide (bufGranules b < taken + buddy g) then []
  else (s.teamsOn c).filterMap fun t =>
    match freeBlock (bufGranules b) (t.bufSize b) used with
    | some p => if !t.retiring && decide (0 < t.bufSize b) && decide (p < t.bufPos b) then some (.compactorMove c t.slot b p) else none
    | none => none

/-- What the compactor does for the next piece of a launch, on the cores that have all else that it needs. -/
def State.compactions (s : State) (l : Launch) : List Instr :=
  match l.cutq, s.findCell? l.cell with
  | x :: _, some cell =>
    if l.ends || (s.places? cell l x).isSome then []
    else cell.cores.flatMap fun c => l.dispatch.flatMap fun t =>
      if (s.slotSpot? t.1 x.points c).isNone then []
      else s.squeeze c .w t.1.wg ++ s.squeeze c .a t.1.ag ++ s.squeeze c .d t.1.dg
  | _, _ => []

/-- FORWARDING_REMOVE: every copy issued before the move has completed. -/
def execForwardingRemove (core idx : Nat) (s : State) : Out :=
  .next <| match s.findCore? core with
    | none => s
    | some c =>
      match c.fwd[idx]? with
      | none => s
      | some f =>
        let live := s.allGroups.any fun g => g.live && g.core == core && g.pend.any fun p =>
          decide (p.seq < f.before) && match p.kind with | .copy _ _ _ _ _ _ _ => true | _ => false
        if live then s
        else s.mapCores fun k => if k.id = core then { k with fwd := k.fwd.eraseIdx idx } else k

/-! ## Parking (16 R261) -/

/-- Suspended in YIELD, or waiting at a barrier or a ring; an exited group is no group any more. -/
def Susp.parkable : Susp → Bool
  | .yield _ _ _ => true
  | .bar _ _ _ => true
  | .ring _ _ _ => true
  | .sync _ => true
  | .exited => true
  | _ => false

/-- TEAM_PARK: a parkable team of a privileged queue frees its register blocks; the ways of L2 that they take have to be free (09 R180).
What its groups have in flight goes on, and an arrival that it awaits unparks it first. -/
def execTeamPark (core slot : Nat) (s : State) : Out :=
  .next <| s.withTeam core slot fun s =>
    let priv := match (s.findLaunch? s.team.launch).bind fun l => s.findQueue? l.queue with
      | some q => q.priv
      | none => false
    if !(s.team.live && s.team.is core slot) || s.team.retiring || s.team.inL2 || !priv || !s.teamGroups.all (fun g => g.susp.parkable) then s
    else ((s.onTeam fun t => { t with inL2 := true }).clearWays (coreDie core)).getD s

/-- TEAM_UNPARK: its register blocks come back, where they are free. -/
def execTeamUnpark (core slot : Nat) (s : State) : Out :=
  .next <| s.withTeam core slot fun s =>
    if !(s.team.live && s.team.is core slot) || !s.team.inL2 then s else s.unparked?.getD s

/-! ## Errors of a core's storage -/

/-- The opcode of the instruction in hand, 0xFF where none is. -/
def State.opcInHand (s : State) : Nat :=
  if s.grp.hdr.isNone then 0xFF
  else match (s.fetch s.grp.addr).1 with
    | .word w => bits w.toNat 63 56
    | _ => 0xFF

/-- CORE_STORAGE_ERROR: an uncorrectable error in what a group holds ends its launch, machine-check cause 3. -/
def execCoreStorageError (core slot gid : Nat) (s : State) : Out :=
  .next <| s.withFocus core slot gid fun s =>
    if !(s.grp.live && s.grp.is core slot gid) || s.grp.susp == .exited || s.grp.susp == .stopped then s
    else s.takeFault s.opcInHand { kind := 17, cause := 3 }

end Sys2Proof.Machine
end

