-- ==== Sys2Proof/Machine/Readout.lean ====
section
/-! DEFINITION. Machine/Readout.lean: the read-out spaces of frozen storage (19 R295, Tables 19-6, 19-7), with the images of 17 Tables
17-4 to 17-6 and the line state of 09 Table 9-2. What the spec does not lay out is a free byte (log entry 16). -/

namespace Sys2Proof.Machine

/-- Byte i of a little-endian number. -/
def byteOf (x i : Nat) : Byte := BitVec.ofNat 8 (x / 2 ^ (8 * i))

/-! ## Team and group records -/

/-- Copies of the team that have yet to arrive at a barrier. -/
def State.copyPend (s : State) (t : Team) (b : Nat) : Nat :=
  ((s.allGroups.filter fun g => g.live && g.core == t.core && g.slot == t.slot).map fun g => g.pend.countP fun p => match p.kind with
    | .copy _ _ _ (some x) false _ _ => x.val == b
    | _ => false).foldl (· + ·) 0

def exkCode : Option ExitKind → Nat
  | none => 0
  | some .plain => 1
  | some (.next _) => 2

def exkNext : Option ExitKind → Nat
  | some (.next d) => d.toNat
  | _ => 0

/-- The word at an offset of the team record, a multiple of 8 (Table 17-6). -/
def State.teamWord (s : State) (t : Team) (off : Nat) : Nat :=
  let p := t.piece
  if 0x80 ≤ off ∧ off < 0x180 then
    let b := (off - 0x80) / 16
    let x := mapGet {} t.bars b
    if off % 16 = 0 then x.exp % 2 ^ 16 + x.arr % 2 ^ 16 * 2 ^ 16 + x.ph.toNat * 2 ^ 32 else s.copyPend t b % 2 ^ 16 + bit x.init * 2 ^ 16
  else if 0x180 ≤ off ∧ off < 0x200 then
    let r := mapGet {} t.rings ((off - 0x180) / 16)
    if off % 16 = 0 then r.cap % 2 ^ 16 + r.head % 2 ^ 16 * 2 ^ 16 + r.tail % 2 ^ 16 * 2 ^ 32 + r.first % 2 ^ 9 * 2 ^ 48 + bit r.init * 2 ^ 57
    else 0
  else if 0x200 ≤ off ∧ off < 0x600 then (mapGet 0 t.pool ((off - 0x200) / 8)).toNat
  else match off with
    | 0x000 => t.body.addr / 64 * 64
    | 0x008 => p.idx
    | 0x010 => t.rclk.toNat + t.gen * 2 ^ 48
    | 0x018 => t.gcnt + t.slot * 2 ^ 6 + t.core * 2 ^ 11 + exkCode t.exk * 2 ^ 19 + (t.aNow - t.agBase) * 2 ^ 21
    | 0x020 => exkNext t.exk
    | 0x028 => t.icnt
    | 0x030 => t.acnt
    | 0x038 => t.lcnt
    | 0x040 => t.slotsUsed
    | 0x048 => if t.harness then 0 else p.ox + p.oy * 2 ^ 32
    | 0x050 => if t.harness then 0 else p.oz + p.ex * 2 ^ 32 + p.ey * 2 ^ 43
    | 0x058 => if t.harness then 0 else p.entry + p.order * 2 ^ 3
    | 0x060 => if t.harness then 0 else p.band
    | _ => 0

/-- WB, WST, LAT and WPH of a suspension. -/
def Susp.words : Susp → Nat × Nat × Nat × Nat
  | .yield b ph _ => (b.val, 1, 0, ph.toNat)
  | .bar b ph _ => (b.val, 2, 0, ph.toNat)
  | .sync b => (b.val, 2, 0, 0)
  | .ring j _ _ => (j.val, 2, 0, 0)
  | .parked => (0, 3, 0, 0)
  | .latched => (0, 0, 1, 0)
  | _ => (0, 0, 0, 0)

def Susp.cont : Susp → Nat
  | .yield _ _ c => c
  | _ => 0

/-- The word at an offset of the group record (Table 17-5). -/
def Group.recordWord (g : Group) (off : Nat) : Nat :=
  let w := g.susp.words
  if 0x10 ≤ off ∧ off < 0x50 then
    let p := (off - 0x10) / 4
    (mapGet 0 g.p p).toNat + (if p + 1 < 15 then (mapGet 0 g.p (p + 1)).toNat * 2 ^ 32 else 0)
  else if 0x80 ≤ off ∧ off < 0x380 then
    match g.stack.reverse[(off - 0x80) / 24]? with
    | none => 0
    | some e =>
      match (off - 0x80) % 24 with
      | 0 => e.join / 8 * 8
      | 8 => e.base / 8 * 8 + e.slot * 2 ^ 53
      | _ => e.entry.toNat + e.pending.toNat * 2 ^ 32
  else match off with
    | 0x00 => g.base / 8 * 8 % 2 ^ 53 + g.pslot * 2 ^ 53
    | 0x08 => g.xm.toNat + g.unf.toNat * 2 ^ 32
    | 0x50 => g.lstat.toNat + g.fpcr.toNat * 2 ^ 16 + g.stack.length * 2 ^ 21 + g.dcnt.toNat * 2 ^ 32
    | 0x58 => g.slim.toNat + w.1 * 2 ^ 18 + w.2.1 * 2 ^ 22 + w.2.2.1 * 2 ^ 24 + w.2.2.2 * 2 ^ 32
    | 0x60 => g.susp.cont / 8 * 8
    | 0x68 => g.buckle.toNat
    | _ => 0

/-! ## Images (Table 17-4) -/

/-- An S register by its place in its group's blocks: S1022 and S1023 follow those below the cap (log entry 16). -/
def Group.savedS (g : Group) (i : Nat) : W64 := if i < g.scap then g.S i else g.S (1022 + (i - g.scap))

/-- The parts of a team's image, each with its size and its bytes. Register bytes past the cap are not laid out. -/
def State.imageParts (s : State) (unk : Nat → Byte) (t : Team) : List (Nat × (Nat → Byte)) :=
  let gs := sortBy (fun a b => decide (a.gid ≤ b.gid)) (s.allGroups.filter fun g => g.live && g.core == t.core && g.slot == t.slot)
  let buf := fun (m : Map Byte) (n : Nat) => (16384 * n, fun o => mapGet (0 : Byte) m o)
  [(2048, fun o => byteOf (s.teamWord t (o / 8 * 8)) (o % 8))] ++
  gs.map (fun g => (1024, fun o => byteOf (g.recordWord (o / 8 * 8)) (o % 8))) ++
  gs.map (fun g => (4096 * vBlocks g.vcap, fun o =>
    if o / 128 < g.vcap then byteOf (g.V (o / 128) (o % 128 / 4)).toNat (o % 4) else unk o)) ++
  gs.map (fun g => (256 * sBlocks g.scap, fun o => if o / 8 < g.scap + 2 then byteOf (g.savedS (o / 8)).toNat (o % 8) else unk o)) ++
  [buf t.wbuf t.wAll, buf t.abuf t.aNow, buf t.dbuf t.dAll]

/-- The byte at an offset of parts laid one after another; zero past them. -/
def partByte : List (Nat × (Nat → Byte)) → Nat → Byte
  | [], _ => 0
  | p :: ps, o => if o < p.1 then p.2 o else partByte ps (o - p.1)

/-- Unit 0. -/
def State.coreByte (s : State) (c : Core) (unk : Nat → Byte) (off : Nat) : Byte :=
  if off < 2 ^ 22 then
    if off < 8 then byteOf (Config.cycCount c.id c.issued).toNat off
    else if off < 16 then byteOf c.l1w (off - 8)
    else if off < 24 then byteOf c.viol.toNat (off - 16)
    else unk off
  else match (s.teamsOn c.id).find? fun t => t.slot + 1 == off / 2 ^ 22 with
    | some t => partByte (s.imageParts unk t) (off % 2 ^ 22)
    | none => 0

/-! ## Caches of a core -/

/-- The byte at an offset of L1's data arrays, in set and way order; a way without a line has what was there before (log entry 16). -/
def Core.l1Byte (c : Core) (unk : Nat → Byte) (off : Nat) : Byte :=
  match c.lines.find? fun x => (x.vline % 128) * 16 + x.way == off / 128 with
  | some x => x.data.getD (off % 128) 0
  | none => unk off

/-! ## Lines (Table 9-2) -/

def RLine.word (x : RLine) : Nat :=
  let t := x.tag.getD ⟨0, 0, 0⟩
  x.due % 2 ^ 48 + t.core * 2 ^ 48 + t.slot * 2 ^ 56 + t.gen * 2 ^ 61 + x.kind * 2 ^ 77 + bit x.h * 2 ^ 79 + x.ctx * 2 ^ 80 + x.cp * 2 ^ 96

/-- The line that stands at an index of set and way order. -/
def State.lineAt (s : State) (unit i : Nat) : Option RLine := s.rlines.find? fun x => x.unit == unit && x.set * 16 + x.way == i

/-- A byte of a line's data where it stands: of an MSC, what it stored last. -/
def State.storedByte (s : State) (x : RLine) (o : Nat) : Byte := (x.old.getD s.mem).byte (x.line * 128 + o)

/-- Units 2 and 3: data, then line state. -/
def State.lineByte (s : State) (unit data : Nat) (unk : Nat → Byte) (off : Nat) : Byte :=
  if off < data then
    match s.lineAt unit (off / 128) with
    | some x => s.storedByte x (off % 128)
    | none => unk off
  else if off < data + data / 8 then
    match s.lineAt unit ((off - data) / 16) with
    | some x => byteOf x.word ((off - data) % 16)
    | none => unk off
  else unk off

/-! ## The front end -/

/-- A word of a mapped queue's QCB as its slot holds it (16 Table 16-1); firmware's own words are zeros (log entry 3). -/
def Queue.word (ver : Nat) (q : Queue) (i : Nat) : Nat :=
  match i with
  | 0 => ver + q.prio * 2 ^ 8 + q.ceil * 2 ^ 12 + bit q.priv * 2 ^ 16 + bit q.sla * 2 ^ 17 + bit q.halt * 2 ^ 18 + q.hstat * 2 ^ 24 +
      q.ctx * 2 ^ 32 + q.cell * 2 ^ 48
  | 1 => q.ring
  | 2 => q.log2
  | 3 => q.rd
  | 4 => q.wr
  | _ => 0

/-- Unit 4: the slots' QCB images, then the doorbell bitmap. -/
def State.frontByte (s : State) (unk : Nat → Byte) (off : Nat) : Byte :=
  if off < 64 * 256 then
    match s.slotQueue? (off / 256) with
    | some q => byteOf (q.word s.dev.qver (off % 256 / 8)) (off % 8)
    | none => unk off
  else if off < 64 * 256 + 512 then
    (List.range 8).foldl (fun b j =>
      if s.queues.any fun q => q.num == (off - 64 * 256) * 8 + j && q.doorbell then b ||| (1#8 <<< j) else b) 0
  else unk off

/-! ## Locators (Table 19-6) -/

def unitCountOf : Nat → Nat
  | 0 => 192 | 1 => 192 | 2 => 64 | 3 => 8 | 4 => 1 | 5 => 24 | 6 => 2 | _ => 0

/-- Bytes of a unit's space: those that the spec gives, and past them what it does not size. -/
def unitSpace (u : Nat) : Nat :=
  match u with
  | 0 => 2 ^ 22 * 33
  | 1 => 2 ^ 18 + 2048 * 16 + 2 ^ 17 + Config.readoutMore 1
  | 2 => 2 ^ 22 + 2 ^ 19 + 128 * 16 + Config.readoutMore 2
  | 3 => 2 ^ 30 + 2 ^ 27 + Config.readoutMore 3
  | 4 => 64 * 256 + 512 + Config.readoutMore 4
  | 5 => Config.readoutMore 5
  | 6 => 2 ^ 24
  | _ => 0

/-- A byte of a unit's space. -/
def State.unitByte (s : State) (u i off : Nat) : Byte :=
  let unk := fun o => Config.readoutByte u i o
  match u with
  | 0 => match s.findCore? i with
    | some c => s.coreByte c unk off
    | none => unk off
  | 1 => match s.findCore? i with
    | some c => if off < 2 ^ 18 then c.l1Byte unk off else unk off
    | none => unk off
  | 2 => s.lineByte i (2 ^ 22) unk off
  | 3 => s.lineByte (Config.l2Slices + i) (2 ^ 30) unk off
  | 4 => s.frontByte unk off
  | _ => unk off

/-- A line holds a word of a routine in a stitch table with an uncorrectable error (12 R216, R222). -/
def State.routineBad (s : State) (line : Nat) : Bool :=
  s.routineErrors.any fun e => match s.findCtx? e.1 with
    | some c => c.slotAt e.2 / 128 == line
    | none => false

/-- A word that is poisoned, or has an uncorrectable error that no access has met yet, stands among the 256 bytes. -/
def State.unitPoisoned (s : State) (u i off : Nat) : Bool :=
  let unit := if u = 3 then Config.l2Slices + i else i
  let data := if u = 3 then 2 ^ 30 else 2 ^ 22
  (u == 2 || u == 3) && [0, 1].any fun k => decide (off + 128 * k < data) && match s.lineAt unit (off / 128 + k) with
    | some x => s.poisoned.contains x.line || s.lineErrors.contains x.line || s.routineBad x.line
    | none => false

/-- READOUT of a locator: the result code, RDATA and VAL. -/
def State.readOut (s : State) (loc : Nat) : Nat × Nat × Nat :=
  let u := bits loc 3 0
  let i := bits loc 15 4
  let off := 256 * bits loc 47 16
  if unitCountOf u ≤ i ∨ unitSpace u < off + 256 then (1, s.dev.rdata, 0)
  else (0, leNat ((List.range 256).map fun k => s.unitByte u i (off + k)), bit (s.unitPoisoned u i off))

end Sys2Proof.Machine
end

