-- ==== Sys2Proof/Machine/HostCmd.lean ====
section
/-! DEFINITION. Machine/HostCmd.lean: the host's commands (19 R288 to R290, Table 19-2; 16 R250, R265, R266; 01 R25; 08 R154), writes of
BAR0 registers (Table 19-1) and accesses through BAR2 (19 R287). -/

namespace Sys2Proof.Machine

def State.onDev (f : Dev → Dev) (s : State) : State := { s with dev := f s.dev }

/-! ## The frame of a command (R288, R294) -/

/-- BUSY falls, and MSI-X vector 0 goes out. -/
def cmdDone (res val : Nat) (s : State) : State :=
  s.onDev fun d => { d with busy := false, res := res, val := val % 2 ^ 48, msix := 0 :: d.msix }

/-- A command starts with the argument that CMDARG has then. -/
def Dev.start (code : Nat) (d : Dev) : Dev :=
  if d.busy then d else { d with busy := true, cmd := code, runArg := d.cmdarg }

/-- Commands by which firmware reads or writes memory: they wait while a stitch holds a line (12 R214). -/
def touchesMemory (code : Nat) : Bool := [1, 2, 6, 7, 9, 10].contains code

/-- A command starts, or goes on where it is the one that runs; a second one is lost. Only a running device takes commands, and a frozen
one READOUT alone (log entry 28). `fields` are CMDARG's bits that the command has. -/
def commandStep (code fields : Nat) (run : State → State) (s : State) : Out :=
  .next <|
    if s.dev.busy && s.dev.cmd != code then s.onDev fun d => { d with lost := true }
    else
      let s1 := s.onDev (Dev.start code)
      if (s.dev.state = 3 ∧ code ≠ 11) ∨ (s.dev.state ≠ 3 ∧ code = 11) ∨ (s.dev.state ≠ 2 ∧ s.dev.state ≠ 3) then cmdDone 3 0 s1
      else if s1.dev.runArg.toNat &&& fields ≠ s1.dev.runArg.toNat then cmdDone 1 0 s1
      else if touchesMemory code && s.run.isSome then s1
      else run s1

/-- The argument of the command that runs. -/
def State.arg (s : State) : Nat := s.dev.runArg.toNat

/-! ## CREATE (16 R250, R265) -/

/-- The QCB at an address, where it satisfies Table 16-1 and CREATE's own conditions; bits that the table does not show have to be zero (log
entry 69). -/
def State.parseQcb (s : State) (num pa : Nat) : Option Queue :=
  let w := fun i => s.mem.word (pa + 8 * i) 8
  let h := w 0
  let q : Queue := { num := num, qcb := pa, prio := bits h 10 8, ceil := bits h 14 12, priv := bitAt h 16, sla := bitAt h 17,
                     ctx := bits h 47 32, cell := bits h 52 48, ring := w 1, log2 := w 2, rd := w 3, wr := w 4, eff := bits h 10 8 }
  if bits h 7 0 ≠ s.dev.qver ∨ bitAt h 11 ∨ bitAt h 15 ∨ bits h 23 19 ≠ 0 ∨ bits h 31 28 ≠ 0 ∨ h / 2 ^ 53 ≠ 0 ∨ q.ceil < q.prio ∨
     q.ring % 4096 ≠ 0 ∨ 2 ^ 53 ≤ q.ring ∨ q.log2 < 12 ∨ 24 < q.log2 ∨ bitAt h 18 ∨ bits h 27 24 ≠ 0 ∨ q.wr < q.rd ∨
     q.rd + q.size < q.wr ∨ (s.findCtx? q.ctx).isNone ∨ (s.findCell? q.cell).isNone then none
  else some q

/-- The lowest free number below a bound. -/
def lowestFree (used : List Nat) (bound : Nat) : Option Nat :=
  ((List.range (used.length + 1)).find? fun n => !used.contains n).bind fun n => if n < bound then some n else none

/-- A local physical address with room for n bytes. -/
def localOk (pa align n : Nat) : Bool := decide (pa % align = 0) && decide (pa + n ≤ 2 ^ 39)

def createRun (s : State) : State :=
  if !localOk s.arg 256 256 then cmdDone 1 0 s
  else match lowestFree (s.queues.map (·.num)) Config.maxQueues with
    | none => if (s.parseQcb 0 s.arg).isNone then cmdDone 1 0 s else cmdDone 2 0 s
    | some n =>
      match s.parseQcb n s.arg with
      | none => cmdDone 1 0 s
      | some q => cmdDone 0 n { s with mem := s.mem.clearFirmware s.arg, queues := s.queues ++ [q] }

def execCreate (s : State) : Out := commandStep 1 (2 ^ 64 - 1) createRun s

/-! ## END (16 R266) -/

/-- Children of a queue that have not started become launches that have ended. -/
def State.endChildren (p : Child → Bool) (s : State) : State :=
  let dead := (s.children.filter p).map fun c =>
    let l := spaceLaunch c.id c.queue c.ctx c.cell c.bytes
    let l := if pktType (numAt c.bytes 0 8) = 1 then l
      else { id := c.id, queue := c.queue, ctx := c.ctx, cell := c.cell, harness := true, signal := numAt c.bytes 0x10 8, stop := l.stop }
    { l with parent := some (c.parent, c.k, c.i), status := some 9 }
  { s with launches := s.launches ++ dead, children := s.children.filter fun c => !p c }

/-- Saved launches leave their images, with their teams. -/
def State.dropSaved (p : Launch → Bool) (s : State) : State :=
  let ids := (s.launches.filter p).map (·.id)
  let ims := s.images.map fun m =>
    { m with launches := m.launches.filter fun l => !ids.contains l
             teams := m.teams.filter fun t => !ids.contains t.launch
             groups := m.groups.filter fun g => !m.teams.any fun t => ids.contains t.launch && t.core == g.core && t.slot == g.slot }
  { s with images := ims.filter fun m => !m.launches.isEmpty }

/-- The queue halts with ENDED, whatever it was halted with before. -/
def State.endHalt (n : Nat) (s : State) : State :=
  match s.findQueue? n with
  | none => s
  | some q =>
    if q.halt ∧ q.hstat = 5 then s
    else (s.qcbHalt q.qcb 5 true).onQueue n fun q =>
      { q with halt := true, hstat := 5, pending := false, steps := 0 }

/-- End queues: they halt, their launches end, children included, and the cells that run them are halted and saved. -/
def State.endQueues (p : Nat → Bool) (s : State) : State :=
  let cells := uniq ((s.launches.filter fun l => p l.queue && !s.isSaved l.id).map (·.cell))
  let s1 := ((s.queues.filter fun q => p q.num).map (·.num)).foldl (fun s n => s.endHalt n) s
  let s2 := (s1.endChildren fun c => p c.queue).endLaunches fun l => p l.queue
  let s3 := s2.dropSaved fun l => p l.queue
  cells.foldl (fun s c => s.halt c) s3

def endRun (s : State) : State :=
  if (s.findQueue? s.arg).isNone then cmdDone 1 0 s
  else
    let s1 := s.endQueues fun n => n == s.arg
    if s1.queueBusy s.arg then s1 else cmdDone 0 0 s1

def execEnd (s : State) : Out := commandStep 2 0xFFF endRun s

/-! ## CLOCK (01 R25), FREEZE (R294), NEGOTIATE (R290) -/

/-- Clock frequencies in MHz, one a die (01 Table 1-4; the slice clock of normal mode: log entry 58). -/
def dies : List Nat := List.range 4
def setLocked (b : Bool) (d : Dev) : Dev :=
  { d with locked := b, lockWanted := none, arithMhz := dies.map fun _ => if b then 2600 else 3300,
           sliceMhz := dies.map fun _ => if b then 2600 else 3000, frontMhz := 2600 }

def State.anyResident (s : State) : Bool := s.launches.any fun l => !s.isSaved l.id

/-- CLOCK waits for a moment with no resident launch; until then the queues hold their packets. -/
def clockRun (s : State) : State :=
  if s.anyResident then s.onDev fun d => { d with lockWanted := some (bitAt s.arg 0) }
  else cmdDone 0 0 (s.onDev (setLocked (bitAt s.arg 0)))

def execClock (s : State) : Out := commandStep 3 1 clockRun s

/-- CLOCK_MODE_CHANGE: the mode changes, and the command completes. -/
def execClockModeChange (s : State) : Out :=
  .next <| match s.dev.lockWanted with
    | none => s
    | some b =>
      if s.anyResident then s
      else
        let s1 := s.onDev (setLocked b)
        if s.dev.busy && s.dev.cmd == 3 then cmdDone 0 0 s1 else s1

/-- Every clock but the island's stops (R294): STATE, FRZC, and MSI-X vector 1. -/
def State.freeze (why : Nat) (s : State) : State :=
  s.onDev fun d => { d with state := 3, frzc := why, msix := 1 :: d.msix }

def execFreeze (s : State) : Out := commandStep 4 0 (fun s => (cmdDone 0 0 s).freeze 1) s

/-- R290: the lower of the two highest versions; version 1 is the lowest of every interface. -/
def negotiateRun (s : State) : State :=
  let v := bits s.arg 15 0
  let use_ := fun (n : Nat) (f : Nat → Dev → Dev) => cmdDone 0 (Nat.min v n) (s.onDev (f (Nat.min v n)))
  if v = 0 then cmdDone 1 0 s
  else match bits s.arg 19 16 with
    | 0 => use_ s.dev.mapver fun v d => { d with mapver := v }
    | 1 => use_ s.dev.qver fun v d => { d with qver := v }
    | 2 => use_ s.dev.lverMax fun v d => { d with lver := v }
    | 3 => use_ s.dev.fverMax fun v d => { d with fverMax := v }
    | _ => cmdDone 1 0 s

def execNegotiate (s : State) : Out := commandStep 5 0xFFFFF negotiateRun s

/-! ## Contexts (R289) -/

/-- The context that a descriptor describes (Table 19-5). -/
def State.parseCtx (s : State) (num pa : Nat) : Option Ctx :=
  let w := fun i => s.mem.word (pa + 8 * i) 8
  let c : Ctx := { num := num, root := w 1, unkd := w 2, dzBase := w 3, dzPages := w 4, pool := w 5, poolN := w 6 }
  if w 0 ≠ 1 ∨ w 1 % 2 ^ 13 ≠ 0 ∨ 2 ^ 39 ≤ w 1 ∨ 983024 < w 2 ∨ w 3 % 2 ^ 13 ≠ 0 ∨ 2 ^ 53 ≤ w 3 ∨ 2 ^ 40 ≤ w 4 ∨ w 5 % 2 ^ 13 ≠ 0 ∨
     2 ^ 39 ≤ w 5 ∨ 2 ^ 32 ≤ w 6 ∨ w 7 ≠ 0 ∨ 2 ^ 53 < w 3 + 8192 * w 4 ∨ 2 ^ 39 < w 5 + 8192 * w 6 then none
  else some c

/-- Where firmware builds the stitch table of a context: downwards from the top of device memory (log entry 54). -/
def tableAddr (n : Nat) : Nat := 2 ^ 39 - 2 ^ 15 * (n + 1)

def ctxnewRun (s : State) : State :=
  if !localOk s.arg 64 64 then cmdDone 1 0 s
  else match lowestFree (s.ctxs.map (·.num)) 0xFFFF with
    | none => if (s.parseCtx 0 s.arg).isNone then cmdDone 1 0 s else cmdDone 2 0 s
    | some n =>
      match s.parseCtx n s.arg with
      | none => cmdDone 1 0 s
      | some c =>
        if s.dev.tableRoom ≤ s.ctxs.length then cmdDone 2 0 s
        else cmdDone 0 n ({ s with ctxs := s.ctxs ++ [{ c with table := tableAddr n }] }.newTable (tableAddr n))

def execCtxnew (s : State) : Out := commandStep 6 (2 ^ 64 - 1) ctxnewRun s

/-- Everything that a context number stands for goes: table, images, cinch entries, its teams' tags, routines, translations, cached lines
(log entry 29). -/
def State.dropCtx (n : Nat) (s : State) : State :=
  let s1 := s.invalidate n fun _ => true
  let s2 := s1.mapCores fun c => { c with icache := c.icache.filter fun e => e.1.1 != n }
  let gone := ((s2.allTeams ++ s2.images.flatMap (·.teams)).filter fun t => t.live && t.ctx == n).map fun t => (⟨t.core, t.slot, t.gen⟩ : Tag)
  { s2 with
    ctxs := s2.ctxs.filter fun c => c.num != n
    images := s2.images.filter fun m => m.ctx != n
    cinch := s2.cinch.filter fun c => c.ctx != n
    teamNow := s2.teamNow.filter fun e => !(gone.contains e.tag)
    routines := s2.routines.filter fun r => !(r.dev == s2.dev.devid && r.ctx == n)
    migs := s2.migs.filter fun m => m.ctx != n
    cells := upd (fun c => c.ctx == some n) (fun c => { c with ctx := none }) s2.cells }

/-- The queues of a context, those destroyed since whose launches still run included. -/
def State.queuesOf (s : State) (n : Nat) : List Nat :=
  (s.queues.filter fun q => q.ctx == n).map (·.num) ++ (s.launches.filter fun l => l.ctx == n).map (·.queue) ++
  (s.children.filter fun c => c.ctx == n).map (·.queue)

def ctxendRun (s : State) : State :=
  let n := s.arg
  if (s.findCtx? n).isNone then cmdDone 1 0 s
  else
    let qs := s.queuesOf n
    let s1 := s.endQueues fun q => qs.contains q
    if s1.launches.any (fun l => l.ctx == n) || s1.children.any (fun c => c.ctx == n) then s1 else cmdDone 0 0 (s1.dropCtx n)

def execCtxend (s : State) : Out := commandStep 7 0xFFFF ctxendRun s

/-- 08 R154: translations, L1 lines and instruction-cache lines of the context go; done when no old entry is in use. -/
def ctxinvRun (s : State) : State :=
  let n := s.arg
  if (s.findCtx? n).isNone then cmdDone 1 0 s
  else
    let s1 := (s.invalidate n fun _ => true).mapCores fun c => { c with icache := c.icache.filter fun e => e.1.1 != n }
    if (s1.inFlight n fun _ => true) || s1.heldFor n fun _ => true then s1 else cmdDone 0 0 s1

def execCtxinv (s : State) : Out := commandStep 8 0xFFFF ctxinvRun s

/-! ## RESUME and DESTROY (16 R265) -/

/-- A queue halted with SRAM has its front-end state rebuilt from the QCB. -/
def State.rebuilt (s : State) (q : Queue) : Queue :=
  match (s.qcbHalt q.qcb 0 false).parseQcb q.num q.qcb with
  | some x => { x with eff := q.eff, doorbell := q.doorbell }
  | none => q

def resumeRun (s : State) : State :=
  let n := bits s.arg 11 0
  match s.findQueue? n with
  | none => cmdDone 1 0 s
  | some q =>
    if !q.halt ∨ q.hstat = 5 then cmdDone 3 0 s
    else
      let q' := { if q.hstat = 4 then s.rebuilt q else q with halt := false, hstat := 0 }
      let s1 := (s.qcbHalt q.qcb 0 false).onQueue n fun _ => q'
      let wr := s.qcbWord q 0x20
      let s2 := if bitAt s.arg 16 then (s1.advanceRd n (if q.padded then Nat.max q.rd wr else wr)).onQueue n fun q => { q with wr := wr, padded := decide (wr < q.rd) }
        else s1
      cmdDone 0 0 (kickQueue n s2)

def execResume (s : State) : Out := commandStep 9 0x10FFF resumeRun s

/-- Launches of a destroyed queue run on, with no queue: they go by a number that no queue has (log entry 56). -/
def State.orphan (n : Nat) (s : State) : State :=
  let m := Config.maxQueues + s.orphans
  { s with
    launches := upd (fun l => l.queue == n) (fun l => { l with queue := m }) s.launches
    children := upd (fun c => c.queue == n) (fun c => { c with queue := m }) s.children
    orphans := s.orphans + 1 }

def destroyRun (s : State) : State :=
  match s.findQueue? s.arg with
  | none => cmdDone 1 0 s
  | some q =>
    if q.halt || (decide (s.qcbWord q 0x20 ≤ q.rd) && !q.unread && !s.queueBusy q.num) then
      let s1 := if s.mapped q.num then s.unmap q.num else s
      cmdDone 0 0 ({ s1 with queues := s1.queues.filter fun x => x.num != q.num }.orphan q.num)
    else cmdDone 3 0 s

def execDestroy (s : State) : Out := commandStep 10 0xFFF destroyRun s

/-! ## READOUT (R295) -/

def readoutRun (s : State) : State :=
  let r := s.readOut s.arg
  cmdDone r.1 r.2.2 (s.onDev fun d => { d with rdata := r.2.1 })

def execReadout (s : State) : Out := commandStep 11 (2 ^ 48 - 1) readoutRun s

/-! ## BAR0 writes (Table 19-1) -/

/-- A write of CMD: dropped while BUSY is 1; a command that the table does not have returns RES 1. -/
def writeCmd (code : Nat) (s : State) : Out :=
  if s.dev.busy then .next (s.onDev fun d => { d with lost := true })
  else match code with
    | 1 => execCreate s
    | 2 => execEnd s
    | 3 => execClock s
    | 4 => execFreeze s
    | 5 => execNegotiate s
    | 6 => execCtxnew s
    | 7 => execCtxend s
    | 8 => execCtxinv s
    | 9 => execResume s
    | 10 => execDestroy s
    | 11 => execReadout s
    | _ => commandStep code 0 (cmdDone 1 0) s

/-- REGISTER_WRITE: the registers that can be written; every other write has no effect. -/
def execRegisterWrite (off : Nat) (v : W64) (s : State) : Out :=
  let x := v.toNat
  match off with
  | 0x100 => writeCmd (bits x 7 0) s
  | 0x108 => .next (s.onDev fun d => { d with cmdarg := v })
  | 0x110 => .next (s.onDev fun d => { d with lost := d.lost && !bitAt x 1 })
  | 0x200 => if s.dev.state = 2 then execKick v s else .next s
  | 0x208 => .next (s.onDev fun d => { d with winctx := bits x 15 0 })
  | 0x210 => .next (s.onDev fun d => { d with winstk := bits x 2 0, winerr := d.winerr && !bitAt x 3 })
  | _ => .next s

/-- What a read of BAR0 returns, eight bytes at an aligned offset: reserved fields and fields that are only written read as zero (00 R6,
R7). A read changes nothing. -/
def Dev.registerRead (d : Dev) (off : Nat) : W64 :=
  BitVec.ofNat 64 <|
    if 0x400 ≤ off ∧ off < 0x500 then d.rdata / 2 ^ (8 * (off - 0x400)) % 2 ^ 64
    else match off with
    | 0x000 => d.mapver % 2 ^ 16 + d.qver % 2 ^ 16 * 2 ^ 16 + d.lverMax % 2 ^ 16 * 2 ^ 32 + d.fver % 2 ^ 16 * 2 ^ 48
    | 0x008 => d.devid % 2 ^ 11 + d.state % 2 ^ 3 * 2 ^ 11 + d.frzc % 2 ^ 4 * 2 ^ 14
    | 0x108 => d.cmdarg.toNat
    | 0x110 => bit d.busy + bit d.lost * 2 + d.res % 2 ^ 8 * 2 ^ 8 + d.val % 2 ^ 48 * 2 ^ 16
    | 0x208 => d.winctx % 2 ^ 16
    | 0x210 => d.winstk % 2 ^ 3 + bit d.winerr * 2 ^ 3
    | _ => 0

/-! ## BAR2 (R287) -/

/-- One address through the window's context; no fault is resolved for it. -/
def State.windowAcc (ctx va : Nat) (n : Need) (s : State) : Option (LaneAcc × State) :=
  if nonCanonical va then none
  else match s.walk ctx va with
    | .leaf l => if l.grants n then some ({ lane := 0, va := va, key := l.base + va % 8192, leaf := l }, s.setAD ctx va l n.writes) else none
    | _ => none

/-- The bytes of an access, one by one. -/
def State.windowAccs (ctx : Nat) (n : Need) : List Nat → State → Option (List LaneAcc × State)
  | [], s => some ([], s)
  | va :: vas, s =>
    match s.windowAcc ctx va n with
    | none => none
    | some (a, s) => (State.windowAccs ctx n vas s).map fun r => (a :: r.1, r.2)

/-- Perform the access to bytes of memory: its requests reach the lines' homes (08 R155; log entry 64), and it reads or writes there. -/
def barDo (write : Bool) (v : W64) (ctx : Nat) (as : List LaneAcc) (s : State) : State :=
  let s1 := s.askHome ctx write as
  let keys := as.map (·.key)
  if !keys.all s.served then s
  else if write then s1.writeMem (keys.zip (leBytes keys.length v.toNat))
  else s1.onDev fun d => { d with barRead := BitVec.ofNat 64 (leNat (keys.map s1.mem.byte)), barAbort := false }

/-- An access that performs nothing: a read carries Completer Abort. -/
def barAborts (write err : Bool) (s : State) : State :=
  s.onDev fun d => { d with barAbort := if write then d.barAbort else true, winerr := d.winerr || err }

/-- BAR2_ACCESS: physical within stack WINSTK, or through the tables of WINCTX. -/
def execBar2Access (write : Bool) (off bytes : Nat) (v : W64) (s : State) : Out :=
  let offs := (List.range bytes).map (off + ·)
  .next <|
    if s.dev.state ≠ 2 ∨ 2 ^ 36 < off + bytes ∨ 8 < bytes then barAborts write false s
    else if s.dev.winctx = 0xFFFF then barDo write v 0 (offs.map fun o => physAcc (2 ^ 36 * s.dev.winstk + o)) s
    else match State.windowAccs s.dev.winctx (if write then .w else .r) offs s with
      | none => barAborts write true s
      | some (as, s1) => if as.all fun a => s.served a.key then barDo write v s.dev.winctx as s1 else s

end Sys2Proof.Machine
end

