-- ==== Sys2Proof/Machine/Manage.lean ====
section
/-! DEFINITION. Machine/Manage.lean: boot (19 R292, Table 19-3), links and peers (19 R290, R291; 13 Table 13-2; 12 R214), heartbeats,
resets and freezes (19 R293, R294), clocks and power (01 R24, R25; 19 R296). -/

namespace Sys2Proof.Machine

/-! ## Boot (R292) -/

/-- Bytes before the signature, and the whole record (Table 19-3). -/
def signedBytes : Nat := 0x3E8
def recordBytes : Nat := 0x448

/-- A key field: the 97 bytes of the point, then 7 zero bytes. -/
def keyAt (bs : List Byte) (off : Nat) : Nat := numAt bs off 104
def keyOk (k : Nat) : Bool := decide (k < 2 ^ (8 * 97))

def watchAt (bs : List Byte) (i : Nat) : Nat := numAt bs (0x10 + 2 * i) 2
/-- The cell of a cluster. -/
def cellByte (bs : List Byte) (k : Nat) : Nat := numAt bs (0x20 + k) 1
def clusters : List Nat := List.range 24
/-- The clusters of a cell, rising. -/
def cellClusters (bs : List Byte) (n : Nat) : List Nat := clusters.filter fun k => cellByte bs k == n

/-- The fields of a record satisfy Table 19-3, and its cells 01 R15. Of what the table does not show, bits [15:11] of a WATCHi have to be zero, and
the halfword at +0x1E is not tested (log entry 69). -/
def recordOk (bs : List Byte) : Bool :=
  let a := numAt bs 0 8
  let b := numAt bs 8 8
  let nw := bits b 23 20
  let nfk := bits b 29 28
  decide (bs.length = recordBytes) && bits a 15 0 == 1 && decide (bits a 26 16 < 1536) && decide (a / 2 ^ 28 = 0) &&
  decide (1 ≤ bits b 19 0) && decide (bits b 19 0 ≤ 983024) && decide (3 ≤ nw) && decide (nw ≤ 7) && decide (2 ≤ bits b 27 24) &&
  decide (bits b 27 24 ≤ 8) && decide (nfk ≤ 2) && decide (b / 2 ^ 30 = 0) &&
  (List.range 7).all (fun i => decide (watchAt bs i < 2048) && (decide (i < nw) || keyAt bs (0x40 + 104 * i) == 0) &&
    keyOk (keyAt bs (0x40 + 104 * i))) &&
  (List.range 2).all (fun j => (decide (j < nfk) || keyAt bs (0x318 + 104 * j) == 0) && keyOk (keyAt bs (0x318 + 104 * j))) &&
  numAt bs 0x38 8 == 0 && clusters.all (fun k => decide (cellByte bs k < 24)) &&
  clusters.all fun j => clusters.all fun k => cellByte bs j != cellByte bs k || j / Config.dieClusters == k / Config.dieClusters

/-- What the device keeps of a record. -/
def parseRecord (bs : List Byte) : Record :=
  let b := numAt bs 8 8
  let nw := bits b 23 20
  let nfk := bits b 29 28
  { unkd := bits b 19 0, nw := nw, shw := bits b 27 24, nfk := nfk, watch := (List.range nw).map (watchAt bs),
    wkeys := (List.range nw).map fun i => keyAt bs (0x40 + 104 * i), fkeys := (List.range nfk).map fun j => keyAt bs (0x318 + 104 * j),
    lock := bitAt (numAt bs 0 8) 27 }

/-- The cells that a record builds. -/
def buildCells (bs : List Byte) : List CellSt :=
  (List.range 24).filterMap fun n =>
    match cellClusters bs n with
    | [] => none
    | ks => some { id := n, clusters := ks }

/-- Firmware deals the queue slots to the cells in rising order, each a run of neighbours (log entry 3). -/
def buildSlots (cs : List CellSt) : List SlotSt :=
  (List.range Config.queueSlots).map fun i => { idx := i, cell := ((cs[i * cs.length / Config.queueSlots]?).map (·.id)).getD 0 }

/-- BOOT: from STATE 0, by the signed record; a failed check sets STATE to 4. -/
def execBoot (rec_ : List Byte) (s : State) : Out :=
  .next <|
    if s.dev.state ≠ 0 then s
    else if !(recordOk rec_ && Config.verifies Config.islandKey (rec_.take signedBytes) (rec_.drop signedBytes)) then
      s.onDev fun d => { d with state := 4 }
    else
      let r := parseRecord rec_
      let cs := buildCells rec_
      let d := setLocked r.lock { s.dev with state := 2, devid := bits (numAt rec_ 0 8) 26 16, record := r, fver := Config.firmwareVersion }
      { s with core := { id := 0 }, cores := (List.range 191).map (fun i => { id := i + 1 }), cells := cs, slots := buildSlots cs, dev := d }

/-! ## Links (R290, R291) -/

/-- A request of a peer at the home slice: its NUD, cache policy and way class apply here, and it carries its team's tag and r, unless it
commits a held write (08 R156, 09 R175). The line takes the peer's context number (log entry 18). -/
def peerReq (ctx key : Nat) (write stitch : Bool) (a : PeerReq) : Req :=
  { key := key / 128 * 128, die := ioDie, cp := a.cp, wc := a.wc, ctx := ctx, tag := if a.tagged then some ⟨a.core, a.slot, a.gen⟩ else none,
    r := a.r, code := if stitch then none else some a.nud, due := a.due, dirty := write || stitch }

/-- A whole invocation at its home, which no lane of this device waits for: the line that it commits is written. -/
def State.invokeWhole (slot key : Nat) (ops : List W32) (x : Invoked) : State :=
  match x with
  | .stops _ s => s
  | .runs wide code s =>
    let r := (startRun s.mem 0 0 0 0 0 0 key wide code ops).ofSlot slot
    match r.all (decodeAll r.code) with
    | some line => s.commitLine key line
    | none => s

/-- The routine that a device's table gives a home that has not got it: a standard one, this device's, or what the peer's request names. -/
def State.routineFor (s : State) (ctx slot : Nat) (req : PeerReq) : Option (Bool × List Nat) :=
  if slot < 32 ∨ req.dev = s.dev.devid then s.tableRoutine? ctx slot else req.routine

/-- The cells that a line form adds to: the words of M0. -/
def lineFormCells (key : Nat) (m : W32) (ops : List W32) : List Host.Cell :=
  (List.range 32).flatMap fun i => if m.getLsbD i then leCells (key / 128 * 128 + 4 * i) 4 (ops.getD i 0).toNat else []

/-- LINK_REQUEST: a peer's read, write or stitch reaches its home here; `ctxSlot` is context × 256 + slot. A stitch runs once the line is
there, and one that meets a free slot or an error performs nothing (log entry 18). A peer's STREL makes every home here drop its copy (12 R218). -/
def execLinkRequest (write stitch : Bool) (ctxSlot pa bytes : Nat) (req : PeerReq) (s : State) : Out :=
  .next <|
    let ctx := ctxSlot / 256
    let slot := ctxSlot % 256
    if s.dev.state ≠ 2 then s
    else if req.frees then s.dropRoutine req.dev ctx slot
    else if !isLocal pa || !s.served pa then s
    else
      let q := peerReq ctx pa write stitch req
      if stitch then
        match s.bring q with
        | none => s
        | some s1 =>
          let x := s1.invoke req.dev ctx slot 0 pa (s1.routineFor ctx slot req)
          match req.m0 with
          | some m => (addInto (slot == 5) (lineFormCells pa m req.ops) x).2
          | none => State.invokeWhole slot pa req.ops x
      else if write then
        (s.request q).writeMem ((req.ops.flatMap fun w => leBytes 4 w.toNat).take bytes |>.mapIdx fun i b => (pa + i, b))
      else s.request q

/-- The lines of a device. -/
def atPeer (dev key : Nat) : Bool := decide (peerBase ≤ key) && (key - peerBase) / peerSize == dev

/-- An access of a pending operation at a peer, if it has one: its key. -/
def PKind.peerKey (dev : Nat) : PKind → Option Nat
  | .load as _ _ _ _ _ => (as.find? fun a => atPeer dev a.key).map (·.key)
  | .store _ ls => (ls.find? fun a => atPeer dev a.1.key).map (·.1.key)
  | .copy _ _ _ _ _ _ as => (as.find? fun a => atPeer dev a.1.key).map (·.1.key)
  | .stch _ _ _ _ ls => (ls.find? fun a => atPeer dev a.1.key).map (·.1.key)
  | .mdrain _ _ _ ls _ => (ls.find? fun a => atPeer dev a.1.key).map (·.1.key)
  | _ => none

/-- The lines that a store has written in its core's L1. -/
def PKind.storeLines : PKind → List Nat
  | .store _ ls => ls.map fun x => x.1.key / 128
  | _ => []

/-- An access to a peer ends its launch with a machine-check, cause 2 (R291). Of a STCH the lanes on lines of that peer stop, and the others go on
(12 R222); another access has no effect (17 R268). -/
def State.peerFails (dev : Nat) (p : Pend) (s : State) : State :=
  match p.kind with
  | .stch _ _ _ _ lanes =>
    (lanes.filter fun x => atPeer dev x.1.key).foldl (fun s x => s.laneStops p x.1.lane (machineCheck 2 x.1.key)) s
  | k =>
    (((s.onCore (Core.l1Drop k.storeLines)).faultAt p (machineCheck 2 ((k.peerKey dev).getD 0))).onGrp fun g => g.dropPend p.seq).reap

/-- PEER_TIMEOUT: the peer counts as unreachable, and the group's access to it fails. -/
def execPeerTimeout (dev core slot gid : Nat) (s : State) : Out :=
  .next <|
    let s1 := s.onDev fun d => { d with unreachable := if d.unreachable.contains dev then d.unreachable else d.unreachable ++ [dev] }
    s1.withFocus core slot gid fun s =>
      if !(s.grp.live && s.grp.is core slot gid) then s
      else match s.grp.pend.find? fun p => (p.kind.peerKey dev).isSome with
        | none => s
        | some p => s.peerFails dev p

/-- LINK_PORT_TRAINING: the port comes up at the lower of the two highest versions, or stays down. -/
def execLinkPortTraining (port version lowest : Nat) (s : State) : Out :=
  .next <|
    let v := Nat.min version s.dev.lver
    if 18 ≤ port then s
    else s.onDev fun d =>
      { d with ports := d.ports.filter (fun p => p.num != port) ++ [{ num := port, up := decide (1 ≤ v) && decide (lowest ≤ v), version := v }] }

/-- LINK_LEVEL_RETRY: a flit that failed its CRC goes again; nothing else changes. -/
def execLinkLevelRetry (port : Nat) (s : State) : Out :=
  .next (s.onDev fun d => { d with ports := upd (fun p => p.num == port && p.up) (fun p => { p with retries := p.retries + 1 }) d.ports })

/-! ## Liveness, resets and freezes (R293, R294) -/

/-- HEARTBEAT: one beat to each of the NW watchers; a frozen device sends none. -/
def execHeartbeat (s : State) : Out :=
  .next (if s.dev.state = 2 then s.onDev fun d => { d with beatsSent := d.beatsSent + d.record.nw } else s)

/-- HEARTBEAT_SILENCE: three periods in a row without a beat of a device that this one watches. It counts as silent, and this watcher's
reset request goes out (log entry 30). -/
def execHeartbeatSilence (dev : Nat) (s : State) : Out :=
  .next (if s.dev.state = 2 then s.onDev fun d => { d with resetSent := dev :: d.resetSent } else s)

/-- The request of a watcher verifies against its own key; `what` tells resets and freezes apart. -/
def Record.verified (r : Record) (what from_ : Nat) (sig : List Byte) : Bool :=
  (r.watch.zip r.wkeys).any fun w => w.1 == from_ && Config.verifies w.2 (leBytes 1 what ++ leBytes 2 from_) sig

def majority (n nw : Nat) : Bool := decide (nw < 2 * n)

def addNew (x : Nat) (l : List Nat) : List Nat := if l.contains x then l else l ++ [x]

/-- Everything but the island is reset (R293); memory keeps its bytes, and the island its record (log entry 3). What comes from outside
comes all the same. -/
def State.resetParts (s : State) : State :=
  { State.reset with
    mem := s.mem, dev := { ({} : Dev) with record := s.dev.record, devid := s.dev.devid }, agenda := s.agenda, free := s.free }

/-- RESET_REQUEST. -/
def execResetRequest (from_ : Nat) (sig : List Byte) (s : State) : Out :=
  .next <|
    if s.dev.state = 0 || !s.dev.record.verified 0 from_ sig then s
    else
      let rs := addNew from_ s.dev.resetReqs
      if majority rs.length s.dev.record.nw then s.resetParts else s.onDev fun d => { d with resetReqs := rs }

/-- FREEZE_REQUEST: by a freeze key, numbered from 0, or from a watcher where `key` is not below NFK. -/
def execFreezeRequest (key : Nat) (from_ : Nat) (sig : List Byte) (s : State) : Out :=
  .next <|
    if s.dev.state ≠ 2 then s
    else match s.dev.record.fkeys[key]? with
      | some k => if Config.verifies k (leBytes 1 1) sig then s.freeze 3 else s
      | none =>
        if !s.dev.record.verified 1 from_ sig then s
        else
          let fs := addNew from_ s.dev.freezeReqs
          let s1 := s.onDev fun d => { d with freezeReqs := fs }
          if majority fs.length s.dev.record.nw then s1.freeze 3 else s1

/-! ## Clocks and power (01 R24, R25) -/

/-- The slice clock of a die on which a cell is being saved stays at 2600 MHz or more (R24). -/
def State.sliceFloor (s : State) (die mhz : Nat) : Nat :=
  if s.cells.any fun c => c.die == die && c.halting then Nat.max 2600 mhz else mhz

/-- Lower the clocks, each to at most a bound; the front end's clock stays (01 R24, Table 1-4; log entry 58). -/
def State.lowerClocks (arith slice : Nat) (s : State) : State :=
  s.onDev fun d =>
    { d with arithMhz := d.arithMhz.map (Nat.min arith)
             sliceMhz := d.sliceMhz.zipIdx.map fun x => Nat.max (Nat.min slice x.1) (Nat.min x.1 (s.sliceFloor x.2 0)) }

/-- A limit is reached: under locked clocks the device freezes, otherwise the power manager lowers the adjustable clocks. -/
def State.limit (arith slice : Nat) (s : State) : State :=
  if s.dev.state ≠ 2 then s else if s.dev.locked then s.freeze 2 else s.lowerClocks arith slice

/-- THERMAL_TRIP; how far the clocks go down is not stated. -/
def execThermalTrip (s : State) : Out := .next ((s.limit (Config.tripMhz s.free) (Config.tripMhz (s.free + 1))).bump.bump)

/-- POWER_LIMIT. -/
def execPowerLimit (arith slice : Nat) (s : State) : Out := .next (s.limit arith slice)

/-- CLOCK_CHANGE: a frequency change of the power manager (R24); none in locked-clock mode (R25), none of the front end, none above Table
1-4. -/
def execClockChange (dom : ClkDom) (die mhz : Nat) (s : State) : Out :=
  .next <|
    if s.dev.state ≠ 2 || s.dev.locked then s
    else match dom with
      | .arith => if mhz ≤ 3300 then s.onDev fun d => { d with arithMhz := d.arithMhz.set die mhz } else s
      | .slice => if mhz ≤ 3000 ∧ s.sliceFloor die mhz = mhz then s.onDev fun d => { d with sliceMhz := d.sliceMhz.set die mhz } else s
      | .front => s

end Sys2Proof.Machine
end

