-- ==== Sys2Proof/Machine/Move.lean ====
section
/-! DEFINITION. Machine/Move.lean: moves, lane exchange, reductions and predicates, opcodes 0x60 to 0x69 (23 R401, R408,
R409, R426 to R429; 22 R379 to R384, R388; 05 R110 to R112). -/

namespace Sys2Proof.Machine

/-- 23 R427. -/
def execVmov (g : Guard) (dbl : Bool) (d : VReg) (a : VSrc) (s : State) : Out :=
  vec1 0x60 (.vmov g dbl d a) g dbl d a (fun x => x) s

/-- 23 R428. -/
def execVmovi (g : Guard) (k : MoviKind) (d : VReg) (imm : BitVec 24) (s : State) : Out :=
  let (dbl, x) := match k with
    | .i32 => (false, (imm.signExtend 32).toNat)
    | .n32 => (false, imm.toNat)
    | .i64 => (true, (imm.signExtend 64).toNat)
    | .n64 => (true, imm.toNat)
    | .f32 => (false, imm.toNat * 2 ^ 8)
  perLane 0x61 (.vmovi g k d imm) g (mapLanes dbl d fun _ _ => x) s

/-- 23 R401. -/
def execS2v (g : Guard) (m : S2VMode) (d : VReg) (a : SLow) (s : State) : Out :=
  perLane 0x62 (.s2v g m d a) g (mapLanes (m == .d) d fun p _ =>
    match m with
    | .lo => (p.S a.val).toNat % 2 ^ 32
    | .hi => (p.S a.val).toNat / 2 ^ 32
    | .d => (p.S a.val).toNat) s

/-- 23 R426: the lowest-numbered active lane; with none, S[D] is unchanged. -/
def execV2s (g : Guard) (m : V2SMode) (d : SLow) (a : VReg) (s : State) : Out :=
  perLane 0x63 (.v2s g m d a) g (fun act s =>
    match lanesOf act with
    | [] => s
    | l :: _ => s.onGrp fun p => p.setS d.val (match m with
      | .zx => (p.V a.val l).setWidth 64
      | .sx => (p.V a.val l).signExtend 64
      | .d => p.V64 a.val l)) s

/-- The source lane of SHFL (23 R409); none where it lies outside 0 to 31. -/
def shflLane (m : ShflMode) (l k : Nat) : Option Nat :=
  match m with
  | .idx => some k
  | .up => if k ≤ l then some (l - k) else none
  | .down => if l + k ≤ 31 then some (l + k) else none
  | .xor => some (l ^^^ k)

/-- 23 R408, R409: V[A] is read in all 32 lanes, active or not. -/
def execShfl (g : Guard) (m : ShflMode) (d a : VReg) (b : VSrc) (s : State) : Out :=
  perLane 0x64 (.shfl g m d a b) g (mapLanes false d fun p l =>
    (p.V a.val ((shflLane m l ((p.src32 l b).toNat % 32)).getD l)).toNat) s

/-- 23 R429. -/
def execVote (g : Guard) (dst : VoteDst) (inv : Bool) (p : PReg) (s : State) : Out :=
  perLane 0x65 (.vote g dst inv p) g (fun act s =>
    let m := act &&& (if inv then ~~~(s.grp.P p.val) else s.grp.P p.val)
    match dst with
    | .ballot d => mapLanes false d (fun _ _ => m.toNat) act s
    | .any d => mapPred d (fun _ _ => m != 0) act s
    | .all d => mapPred d (fun _ _ => m == act) act s
    | .eq d => mapPred d (fun _ _ => m == 0 || m == act) act s) s

/-! ## The tree of 05 R111 -/

def RType.w : RType → Nat
  | .f64 => 64 | .i64 => 64 | .n64 => 64 | .f32 => 32 | .i32 => 32 | .n32 => 32
def RType.isFloat : RType → Bool
  | .f64 => true | .f32 => true | .i32 => false | .n32 => false | .i64 => false | .n64 => false
def RType.signed : RType → Bool
  | .i32 => true | .i64 => true | .n32 => false | .n64 => false | .f64 => true | .f32 => true
def RType.fmt (t : RType) : Fmt := if t == .f64 then F64 else F32

/-- One node with two present children (22 R384). -/
def combine (t : RType) (rm : Rnd) (op : ROp) (x y : Nat) : Nat × Nat :=
  if RType.isFloat t then
    let f := RType.fmt t
    match op with
    | .add => f.sum rm [(f.val x).term, (f.val y).term]
    | .min => f.minmax false x y
    | .max => f.minmax true x y
  else
    let w := RType.w t
    let a := readInt (RType.signed t) w x
    let b := readInt (RType.signed t) w y
    match op with
    | .add => (wrap w (a + b), 0)
    | .min => (if a ≤ b then x else y, 0)
    | .max => (if a ≤ b then y else x, 0)

/-- A node from its children: absent children drop out. -/
def node (t : RType) (rm : Rnd) (op : ROp) (x y : Option Nat) : Option Nat × Nat :=
  match x, y with
  | some a, some b => let r := combine t rm op a b; (some r.1, r.2)
  | some a, none => (some a, 0)
  | none, some b => (some b, 0)
  | none, none => (none, 0)

/-- One level up. -/
def levelUp (t : RType) (rm : Rnd) (op : ROp) : List (Option Nat) → List (Option Nat × Nat)
  | x :: y :: rest => node t rm op x y :: levelUp t rm op rest
  | _ => []

/-- Levels 0 to n above, each a list of nodes, with the flags of every node. -/
def treeLevels (t : RType) (rm : Rnd) (op : ROp) : Nat → List (Option Nat) → List (List (Option Nat)) × Nat
  | 0, xs => ([xs], 0)
  | n + 1, xs =>
    let up := levelUp t rm op xs
    let r := treeLevels t rm op n (up.map (·.1))
    (xs :: r.1, up.foldl (fun m u => m ||| u.2) r.2)

/-- The lanes of V[A] as leaves: an inactive lane is absent. -/
def leaves (t : RType) (a : VReg) (act : W32) (g : Group) : List (Option Nat) :=
  allLanes.map fun l => if act.getLsbD l then some (g.srcNat t.dbl l (.v a)) else none

/-- What an absent root gives (22 R388). -/
def identity (t : RType) (op : ROp) : Nat :=
  let w := RType.w t
  if RType.isFloat t then match op with
    | .add => 0
    | .min => (RType.fmt t).infinity false
    | .max => (RType.fmt t).infinity true
  else match op with
    | .add => 0
    | .min => wrap w (intMax (RType.signed t) w)
    | .max => wrap w (intMin (RType.signed t) w)

/-- 22 R388: the result is written once for the group when REDUX completes. -/
def execRedux (g : Guard) (la : Fin 16) (ty : RType) (rm : Rnd) (op : ROp) (d : SLow) (a : VReg) (s : State) : Out :=
  perLane 0x66 (.redux g la ty rm op d a) g (fun act s =>
    let r := treeLevels ty rm op 5 (leaves ty a act s.grp)
    let root := ((r.1.getD 5 []).getD 0 none).getD (identity ty op)
    let x : W64 := if ty == .i32 then BitVec.ofInt 64 (sext 32 root) else BitVec.ofNat 64 root
    longResult 0x66 la (.redux g la ty rm op d a) { v := [], s := [(d.val, x)], flags := r.2 } s) s

/-- The prefix over lanes 0 to l from nodes of the tree (05 R112): blocks of n = l + 1 from its highest bit down. -/
def prefixFrom (t : RType) (rm : Rnd) (op : ROp) (levels : List (List (Option Nat))) (n : Nat) :
    Nat → Nat → Option Nat → Nat → Option Nat × Nat
  | 0, _, acc, fl => (acc, fl)
  | k + 1, start, acc, fl =>
    if bitAt n k then
      let r := node t rm op acc ((levels.getD k []).getD (start / 2 ^ k) none)
      prefixFrom t rm op levels n k (start + 2 ^ k) r.1 (fl ||| r.2)
    else prefixFrom t rm op levels n k start acc fl

/-- 22 R383, R384. -/
def execPfx (g : Guard) (la : Fin 16) (ty : RType) (rm : Rnd) (op : ROp) (d a : VReg) (s : State) : Out :=
  perLane 0x67 (.pfx g la ty rm op d a) g (fun act s =>
    if act = 0 then s else
    let tr := treeLevels ty rm op 5 (leaves ty a act s.grp)
    let res := laneResults ty.dbl d (fun _ l =>
      let r := prefixFrom ty rm op tr.1 (l + 1) 6 0 none 0
      (r.1.getD 0, r.2)) act s
    longResult 0x67 la (.pfx g la ty rm op d a) { res with flags := res.flags ||| tr.2 } s) s

/-! ## Predicates -/

/-- 22 R381. -/
def pred2 (i : Instr) (g : Guard) (na nb : Bool) (d a b : PReg) (f : Bool → Bool → Bool) (s : State) : Out :=
  perLane 0x68 i g (mapPred d fun p l => f ((p.P a.val).getLsbD l != na) ((p.P b.val).getLsbD l != nb)) s
def execPand (g : Guard) (na nb : Bool) (d a b : PReg) (s : State) : Out :=
  pred2 (.pand g na nb d a b) g na nb d a b (fun x y => x && y) s
def execPor (g : Guard) (na nb : Bool) (d a b : PReg) (s : State) : Out :=
  pred2 (.por g na nb d a b) g na nb d a b (fun x y => x || y) s
def execPxor (g : Guard) (na nb : Bool) (d a b : PReg) (s : State) : Out :=
  pred2 (.pxor g na nb d a b) g na nb d a b (fun x y => x != y) s

/-- 22 R380. -/
def execPackp (g : Guard) (hi : Bool) (d : VReg) (s : State) : Out :=
  perLane 0x69 (.packp g hi d) g (mapLanes false d fun p l =>
    (List.range 8).foldl (fun x j => x + (if (p.P (j + if hi then 8 else 0)).getLsbD l then 2 ^ j else 0)) 0) s

/-- 22 R380: the guard is read before any predicate is written. -/
def execUnpackp (g : Guard) (hi : Bool) (a : VReg) (s : State) : Out :=
  perLane 0x69 (.unpackp g hi a) g (fun act s =>
    { s with grp := (lanesOf act).foldl (fun q l =>
        (List.range 8).foldl (fun q j => q.setPbit (j + if hi then 8 else 0) l ((s.grp.V a.val l).getLsbD j)) q) s.grp }) s

end Sys2Proof.Machine
end

