-- ==== Sys2Proof/Machine/Special.lean ====
section
/-! DEFINITION. Machine/Special.lean: special registers (04 R89, R90; 22 R387; 23 R430), geometry (06 R121, R122; 20 R317; 22 R385)
and random numbers (05 R114, R115; 22 R386), opcodes 0xA0 to 0xA4. -/

namespace Sys2Proof.Machine

def RoleKind.code : RoleKind → Nat
  | .vec => 0 | .mat => 1 | .cpy => 2

/-- ROLE (Table 4-2). -/
def Group.roleWord (g : Group) : Nat := g.role + RoleKind.code g.kind * 2 ^ 2 + g.roleFirst * 2 ^ 4 + g.roleCount * 2 ^ 9

/-- Table 4-2: none for a number that is not assigned. -/
def State.readSpecial (s : State) (n : Nat) : Option W64 :=
  let nat := fun x : Nat => some (BitVec.ofNat 64 x)
  match n with
  | 0x00 => some (s.grp.xm.setWidth 64)
  | 0x01 => nat s.grp.gid
  | 0x02 => nat s.team.gcnt
  | 0x03 => nat s.grp.roleWord
  | 0x04 => nat s.grp.slot
  | 0x05 => nat s.core.id
  | 0x06 => nat s.cellId
  | 0x07 => nat s.team.ctx
  | 0x08 => some (s.team.rclk.setWidth 64)
  | 0x09 => some (Config.cycCount s.core.id s.core.issued)
  | 0x0A => some (s.grp.slim.setWidth 64)
  | 0x0B => some (s.grp.dcnt.setWidth 64)
  | 0x0C => some (s.grp.fpcr.setWidth 64)
  | 0x0D => nat s.grp.stack.length
  | 0x0E => some (s.grp.lstat.setWidth 64)
  | 0x0F => nat s.core.l1w
  | 0x10 => nat s.team.piece.idx
  | _ => none

/-- 22 R387. -/
def execRdsr (n : Fin 256) (d : SReg) (s : State) : Out :=
  onceTry 0xA0 (.rdsr n d) (fun s =>
    match s.readSpecial n.val with
    | none => .error { kind := 13, cause := 0, d0 := BitVec.ofNat 64 n.val }
    | some x => .ok (s.onGrp fun g => g.setS d.val x)) s

/-- 23 R430: XM, DCNT and FPCR can be written. -/
def execWrsr (n : Fin 256) (a : SReg) (s : State) : Out :=
  onceTry 0xA1 (.wrsr n a) (fun s =>
    let x := s.grp.S a.val
    match n.val with
    | 0x00 => .ok (s.onGrp fun g => { g with xm := x.setWidth 32 })
    | 0x0B => .ok (s.onGrp fun g => { g with dcnt := x.setWidth 32 })
    | 0x0C => .ok (s.onGrp fun g => { g with fpcr := x.setWidth 5 })
    | _ => .error { kind := 13, cause := 1, d0 := BitVec.ofNat 64 n.val }) s

/-- The point of a lane, if it carries one (R121). -/
def State.point? (s : State) (l : Nat) : Option (Nat × Nat × Nat) :=
  match s.grp.pointGroup with
  | none => none
  | some q =>
    let p := s.team.piece
    let j := 32 * q + l
    if j < p.ex * p.ey then some (p.ox + j % p.ex, p.oy + j / p.ex, p.oz) else none

/-- A coordinate: of the lane's point, or of the piece origin. -/
def State.coordOf (s : State) (ax : Axis) (l : Nat) : Nat :=
  let c := (s.point? l).getD (s.team.piece.ox, s.team.piece.oy, s.team.piece.oz)
  match ax with | .x => c.1 | .y => c.2.1 | .z => c.2.2

/-- 20 R317. -/
def execCoord (g : Guard) (ax : Axis) (d : VReg) (s : State) : Out :=
  perLane 0xA2 (.coord g ax d) g (mapLanes false d fun _ l => s.coordOf ax l) s

/-- Table 6-3. -/
def State.pieceField (s : State) (f : PField) : Nat :=
  let p := s.team.piece
  match f with
  | .ox => p.ox | .oy => p.oy | .oz => p.oz | .ex => p.ex | .ey => p.ey | .entry => p.entry | .order => p.order
  | .idx => p.idx | .gcnt => ceilDiv (p.ex * p.ey) 32 | .pcnt => p.ex * p.ey | .band => p.band

/-- 22 R385. -/
def execPiece (f : PField) (d : SReg) (s : State) : Out :=
  onceOp 0xA3 (.piece f d) (fun s => s.onGrp fun g => g.setS d.val (BitVec.ofNat 64 (s.pieceField f))) s

/-- R114. -/
def mix (v : W64) : W64 :=
  let v := v ^^^ (v >>> 31)
  let v := v * 0xA3B195E54C6F2D8B#64
  let v := v ^^^ (v >>> 29)
  let v := v * 0x5D2FE1C739B84A67#64
  v ^^^ (v >>> 32)

def State.draw (s : State) (l : Nat) : W32 :=
  let dc := s.grp.dcnt.toNat * 2 ^ 32
  let p := s.team.piece
  let w := match s.point? l with
    | some (x, y, z) => (x + y * 2 ^ 32, z + dc, 0)
    | none => (p.ox + p.oy * 2 ^ 32, p.oz + dc, 2 ^ 63 + s.grp.role * 2 ^ 10 + s.grp.gid * 2 ^ 5 + l)
  let h := mix (s.team.seed ^^^ BitVec.ofNat 64 w.1)
  let h := mix (h ^^^ BitVec.ofNat 64 w.2.1)
  let h := mix (h ^^^ BitVec.ofNat 64 w.2.2)
  (h >>> 32).setWidth 32 ^^^ h.setWidth 32

/-- 22 R386, 05 R115: DCNT counts even with no active lane. -/
def execRand (g : Guard) (d : VReg) (s : State) : Out :=
  perLane 0xA4 (.rand g d) g (fun act s =>
    (mapLanes false d (fun _ l => (s.draw l).toNat) act s).onGrp fun g => { g with dcnt := g.dcnt + 1 }) s

end Sys2Proof.Machine
end

