-- ==== Sys2Proof/Machine/Dispatch.lean ====
section
/-! DEFINITION. Machine/Dispatch.lean: one arm per constructor of Instr, each a direct call of its meaning. -/

namespace Sys2Proof.Machine

def exec (i : Instr) (s : State) : Host.Outcome State Fault Refusal :=
  match i with
  | .nop g => Sys2Proof.Machine.execNop g s
  | .bra g off => Sys2Proof.Machine.execBra g off s
  | .brd g toff joff => Sys2Proof.Machine.execBrd g toff joff s
  | .join g => Sys2Proof.Machine.execJoin g s
  | .call g off => Sys2Proof.Machine.execCall g off s
  | .callReg g sl => Sys2Proof.Machine.execCallReg g sl s
  | .ret g sl => Sys2Proof.Machine.execRet g sl s
  | .exit g => Sys2Proof.Machine.execExit g s
  | .exitNext g sl => Sys2Proof.Machine.execExitNext g sl s
  | .yield g b off => Sys2Proof.Machine.execYield g b off s
  | .trap code => Sys2Proof.Machine.execTrap code s
  | .bkpt g => Sys2Proof.Machine.execBkpt g s
  | .stka n => Sys2Proof.Machine.execStka n s
  | .launch d a => Sys2Proof.Machine.execLaunch d a s
  | .smov d a => Sys2Proof.Machine.execSmov d a s
  | .smovi d imm => Sys2Proof.Machine.execSmovi d imm s
  | .smoviU d imm => Sys2Proof.Machine.execSmoviU d imm s
  | .smoviHi d imm => Sys2Proof.Machine.execSmoviHi d imm s
  | .sadd ty sat d a b => Sys2Proof.Machine.execSadd ty sat d a b s
  | .ssub ty sat d a b => Sys2Proof.Machine.execSsub ty sat d a b s
  | .saddi d imm => Sys2Proof.Machine.execSaddi d imm s
  | .saddiHi d imm => Sys2Proof.Machine.execSaddiHi d imm s
  | .saddiReg d a imm => Sys2Proof.Machine.execSaddiReg d a imm s
  | .smul ty sat d a b => Sys2Proof.Machine.execSmul ty sat d a b s
  | .smulh ty d a b => Sys2Proof.Machine.execSmulh ty d a b s
  | .sdiv la ty sat d a b => Sys2Proof.Machine.execSdiv la ty sat d a b s
  | .srem la ty d a b => Sys2Proof.Machine.execSrem la ty d a b s
  | .sand ty d a b => Sys2Proof.Machine.execSand ty d a b s
  | .sor ty d a b => Sys2Proof.Machine.execSor ty d a b s
  | .sxor ty d a b => Sys2Proof.Machine.execSxor ty d a b s
  | .sshl ty sat d a b => Sys2Proof.Machine.execSshl ty sat d a b s
  | .sshr ty d a b => Sys2Proof.Machine.execSshr ty d a b s
  | .ssar ty d a b => Sys2Proof.Machine.execSsar ty d a b s
  | .smin ty d a b => Sys2Proof.Machine.execSmin ty d a b s
  | .smax ty d a b => Sys2Proof.Machine.execSmax ty d a b s
  | .scmp ty c d a b => Sys2Proof.Machine.execScmp ty c d a b s
  | .ssel p d a b => Sys2Proof.Machine.execSsel p d a b s
  | .spopc ty d a => Sys2Proof.Machine.execSpopc ty d a s
  | .sclz ty d a => Sys2Proof.Machine.execSclz ty d a s
  | .iadd g ty sat d a b => Sys2Proof.Machine.execIadd g ty sat d a b s
  | .isub g ty sat d a b => Sys2Proof.Machine.execIsub g ty sat d a b s
  | .iaddi g ty sat d a imm => Sys2Proof.Machine.execIaddi g ty sat d a imm s
  | .imul g ty sat d a b => Sys2Proof.Machine.execImul g ty sat d a b s
  | .imulh g ty d a b => Sys2Proof.Machine.execImulh g ty d a b s
  | .imad g ty sat d a b c => Sys2Proof.Machine.execImad g ty sat d a b c s
  | .imin g ty d a b => Sys2Proof.Machine.execImin g ty d a b s
  | .imax g ty d a b => Sys2Proof.Machine.execImax g ty d a b s
  | .iclamp g ty d a b c => Sys2Proof.Machine.execIclamp g ty d a b c s
  | .iabs g ty sat d a => Sys2Proof.Machine.execIabs g ty sat d a s
  | .ineg g ty sat d a => Sys2Proof.Machine.execIneg g ty sat d a s
  | .iand g ty d a b => Sys2Proof.Machine.execIand g ty d a b s
  | .ior g ty d a b => Sys2Proof.Machine.execIor g ty d a b s
  | .ixor g ty d a b => Sys2Proof.Machine.execIxor g ty d a b s
  | .iandn g ty d a b => Sys2Proof.Machine.execIandn g ty d a b s
  | .ishl g ty sat d a b => Sys2Proof.Machine.execIshl g ty sat d a b s
  | .ishr g ty d a b => Sys2Proof.Machine.execIshr g ty d a b s
  | .isar g ty d a b => Sys2Proof.Machine.execIsar g ty d a b s
  | .icmp g ty c d a b => Sys2Proof.Machine.execIcmp g ty c d a b s
  | .isel g ty p d a b => Sys2Proof.Machine.execIsel g ty p d a b s
  | .ipopc g ty d a => Sys2Proof.Machine.execIpopc g ty d a s
  | .iclz g ty d a => Sys2Proof.Machine.execIclz g ty d a s
  | .ibfx g ty d a c => Sys2Proof.Machine.execIbfx g ty d a c s
  | .ibfi g ty d a b c => Sys2Proof.Machine.execIbfi g ty d a b c s
  | .idiv g la ty sat d a b => Sys2Proof.Machine.execIdiv g la ty sat d a b s
  | .irem g la ty d a b => Sys2Proof.Machine.execIrem g la ty d a b s
  | .fadd g ty rm d a b => Sys2Proof.Machine.execFadd g ty rm d a b s
  | .fsub g ty rm d a b => Sys2Proof.Machine.execFsub g ty rm d a b s
  | .fmul g ty rm d a b => Sys2Proof.Machine.execFmul g ty rm d a b s
  | .ffma g ty rm np d a b c => Sys2Proof.Machine.execFfma g ty rm np d a b c s
  | .fmin g ty d a b => Sys2Proof.Machine.execFmin g ty d a b s
  | .fmax g ty d a b => Sys2Proof.Machine.execFmax g ty d a b s
  | .fcmp g ty c d a b => Sys2Proof.Machine.execFcmp g ty c d a b s
  | .fabs g ty d a => Sys2Proof.Machine.execFabs g ty d a s
  | .fneg g ty d a => Sys2Proof.Machine.execFneg g ty d a s
  | .frcp g la ty rm d a => Sys2Proof.Machine.execFrcp g la ty rm d a s
  | .frsq g la ty rm d a => Sys2Proof.Machine.execFrsq g la ty rm d a s
  | .fsqrt g la ty rm d a => Sys2Proof.Machine.execFsqrt g la ty rm d a s
  | .fdiv g la ty rm d a b => Sys2Proof.Machine.execFdiv g la ty rm d a b s
  | .fex2 g la ty rm d a => Sys2Proof.Machine.execFex2 g la ty rm d a s
  | .flg2 g la ty rm d a => Sys2Proof.Machine.execFlg2 g la ty rm d a s
  | .fsin g la ty rm d a => Sys2Proof.Machine.execFsin g la ty rm d a s
  | .fcos g la ty rm d a => Sys2Proof.Machine.execFcos g la ty rm d a s
  | .fclass g ty d a => Sys2Proof.Machine.execFclass g ty d a s
  | .fldex g ty rm d a b => Sys2Proof.Machine.execFldex g ty rm d a b s
  | .cvt g dst src rm d a => Sys2Proof.Machine.execCvt g dst src rm d a s
  | .cvti g ty tof d a n => Sys2Proof.Machine.execCvti g ty tof d a n s
  | .bscal g dbl rm inv n d a b => Sys2Proof.Machine.execBscal g dbl rm inv n d a b s
  | .pack g d a b c => Sys2Proof.Machine.execPack g d a b c s
  | .unpack g byte sx e d a => Sys2Proof.Machine.execUnpack g byte sx e d a s
  | .lxdec g sc bf d a => Sys2Proof.Machine.execLxdec g sc bf d a s
  | .vmov g dbl d a => Sys2Proof.Machine.execVmov g dbl d a s
  | .vmovi g k d imm => Sys2Proof.Machine.execVmovi g k d imm s
  | .s2v g m d a => Sys2Proof.Machine.execS2v g m d a s
  | .v2s g m d a => Sys2Proof.Machine.execV2s g m d a s
  | .shfl g m d a b => Sys2Proof.Machine.execShfl g m d a b s
  | .vote g dst inv p => Sys2Proof.Machine.execVote g dst inv p s
  | .redux g la ty rm op d a => Sys2Proof.Machine.execRedux g la ty rm op d a s
  | .pfx g la ty rm op d a => Sys2Proof.Machine.execPfx g la ty rm op d a s
  | .pand g na nb d a b => Sys2Proof.Machine.execPand g na nb d a b s
  | .por g na nb d a b => Sys2Proof.Machine.execPor g na nb d a b s
  | .pxor g na nb d a b => Sys2Proof.Machine.execPxor g na nb d a b s
  | .packp g hi d => Sys2Proof.Machine.execPackp g hi d s
  | .unpackp g hi a => Sys2Proof.Machine.execUnpackp g hi a s
  | .ld g la w sx sp acq sc d av as nud => Sys2Proof.Machine.execLd g la w sx sp acq sc d av as nud s
  | .st g w sp rel sc d av as nud => Sys2Proof.Machine.execSt g w sp rel sc d av as nud s
  | .sld la w sx sp acq sc d as nud off => Sys2Proof.Machine.execSld la w sx sp acq sc d as nud off s
  | .sst w sp rel sc d as nud off => Sys2Proof.Machine.execSst w sp rel sc d as nud off s
  | .cpy g la w bsp bar bv gv gs nud => Sys2Proof.Machine.execCpy g la w bsp bar bv gv gs nud s
  | .cpyToGlobal g la w bsp bar bv gv gs nud => Sys2Proof.Machine.execCpyToGlobal g la w bsp bar bv gv gs nud s
  | .pfch g la w sc av as nud => Sys2Proof.Machine.execPfch g la w sc av as nud s
  | .fence sc ld st eng => Sys2Proof.Machine.execFence sc ld st eng s
  | .resize d a => Sys2Proof.Machine.execResize d a s
  | .stch g la slot sc rv ov av as => Sys2Proof.Machine.execStch g la slot sc rv ov av as s
  | .stdef d a b => Sys2Proof.Machine.execStdef d a b s
  | .strel a => Sys2Proof.Machine.execStrel a s
  | .barinit b a => Sys2Proof.Machine.execBarinit b a s
  | .bararr b => Sys2Proof.Machine.execBararr b s
  | .bararrToken b d => Sys2Proof.Machine.execBararrToken b d s
  | .barwait b => Sys2Proof.Machine.execBarwait b s
  | .barwaitPhase b a => Sys2Proof.Machine.execBarwaitPhase b a s
  | .barsync b => Sys2Proof.Machine.execBarsync b s
  | .barkill b => Sys2Proof.Machine.execBarkill b s
  | .barq b d => Sys2Proof.Machine.execBarq b d s
  | .barqCnt b d => Sys2Proof.Machine.execBarqCnt b d s
  | .rnga j a => Sys2Proof.Machine.execRnga j a s
  | .rput j a => Sys2Proof.Machine.execRput j a s
  | .rputW j a => Sys2Proof.Machine.execRputW j a s
  | .rget j d => Sys2Proof.Machine.execRget j d s
  | .rgetW j d => Sys2Proof.Machine.execRgetW j d s
  | .rfree j => Sys2Proof.Machine.execRfree j s
  | .mgang a => Sys2Proof.Machine.execMgang a s
  | .mma la f sc zc c bv ds => Sys2Proof.Machine.execMma la f sc zc c bv ds s
  | .mdrain la add toD ct sc c ds nud => Sys2Proof.Machine.execMdrain la add toD ct sc c ds nud s
  | .mldb la f fromA bv ds nud => Sys2Proof.Machine.execMldb la f fromA bv ds nud s
  | .rdsr sreg d => Sys2Proof.Machine.execRdsr sreg d s
  | .wrsr sreg a => Sys2Proof.Machine.execWrsr sreg a s
  | .coord g ax d => Sys2Proof.Machine.execCoord g ax d s
  | .piece f d => Sys2Proof.Machine.execPiece f d s
  | .rand g d => Sys2Proof.Machine.execRand g d s
  | .wmov m d a imm => Sys2Proof.Machine.execWmov m d a imm s
  | .wadd m d a b imm => Sys2Proof.Machine.execWadd m d a b imm s
  | .wsub m d a b imm => Sys2Proof.Machine.execWsub m d a b imm s
  | .wmin m d a b imm => Sys2Proof.Machine.execWmin m d a b imm s
  | .wminU m d a b imm => Sys2Proof.Machine.execWminU m d a b imm s
  | .wmax m d a b imm => Sys2Proof.Machine.execWmax m d a b imm s
  | .wmaxU m d a b imm => Sys2Proof.Machine.execWmaxU m d a b imm s
  | .wand m d a b imm => Sys2Proof.Machine.execWand m d a b imm s
  | .wor m d a b imm => Sys2Proof.Machine.execWor m d a b imm s
  | .wxor m d a b imm => Sys2Proof.Machine.execWxor m d a b imm s
  | .wshl m d a b imm => Sys2Proof.Machine.execWshl m d a b imm s
  | .wshr m d a b imm => Sys2Proof.Machine.execWshr m d a b imm s
  | .fwadd m d a b imm => Sys2Proof.Machine.execFwadd m d a b imm s
  | .fwmin m d a b imm => Sys2Proof.Machine.execFwmin m d a b imm s
  | .fwmax m d a b imm => Sys2Proof.Machine.execFwmax m d a b imm s
  | .wcmpEq m d a b imm => Sys2Proof.Machine.execWcmpEq m d a b imm s
  | .wcmpNe m d a b imm => Sys2Proof.Machine.execWcmpNe m d a b imm s
  | .wcmpLt m d a b imm => Sys2Proof.Machine.execWcmpLt m d a b imm s
  | .wcmpLtu m d a b imm => Sys2Proof.Machine.execWcmpLtu m d a b imm s
  | .wcmpLe m d a b imm => Sys2Proof.Machine.execWcmpLe m d a b imm s
  | .wcmpLeu m d a b imm => Sys2Proof.Machine.execWcmpLeu m d a b imm s
  | .wsel k d a b imm => Sys2Proof.Machine.execWsel k d a b imm s
  | .wset d a b imm => Sys2Proof.Machine.execWset d a b imm s
  | .commit n a imm => Sys2Proof.Machine.execCommit n a imm s
  | .abort n a imm => Sys2Proof.Machine.execAbort n a imm s
  | .clauseHeaderIssue => Sys2Proof.Machine.execClauseHeaderIssue s
  | .issueSelect core turn => Sys2Proof.Machine.execIssueSelect core turn s
  | .loadComplete core slot gid seq lanes => Sys2Proof.Machine.execLoadComplete core slot gid seq lanes s
  | .storePerformed core slot gid seq lanes => Sys2Proof.Machine.execStorePerformed core slot gid seq lanes s
  | .arithComplete core slot gid seq => Sys2Proof.Machine.execArithComplete core slot gid seq s
  | .copyComplete core slot gid seq => Sys2Proof.Machine.execCopyComplete core slot gid seq s
  | .bararrArrival core slot gid seq => Sys2Proof.Machine.execBararrArrival core slot gid seq s
  | .barsyncArrival core slot gid => Sys2Proof.Machine.execBarsyncArrival core slot gid s
  | .ringReevaluate core slot gid => Sys2Proof.Machine.execRingReevaluate core slot gid s
  | .rputPlacement core slot gid => Sys2Proof.Machine.execRputPlacement core slot gid s
  | .mmaRendezvous core slot gid => Sys2Proof.Machine.execMmaRendezvous core slot gid s
  | .matrixComplete core slot gid seq => Sys2Proof.Machine.execMatrixComplete core slot gid seq s
  | .mdrainComplete core slot gid seq => Sys2Proof.Machine.execMdrainComplete core slot gid seq s
  | .mdrainLineInvocation core slot gid seq line => Sys2Proof.Machine.execMdrainLineInvocation core slot gid seq line s
  | .stitchInvocation core slot gid seq lane => Sys2Proof.Machine.execStitchInvocation core slot gid seq lane s
  | .stchComplete core slot gid seq => Sys2Proof.Machine.execStchComplete core slot gid seq s
  | .lineFill => Sys2Proof.Machine.execLineFill s
  | .cinchUpdate unit ctx => Sys2Proof.Machine.execCinchUpdate unit ctx s
  | .faultResolve core slot gid => Sys2Proof.Machine.execFaultResolve core slot gid s
  | .faultRingOverflowClear cell => Sys2Proof.Machine.execFaultRingOverflowClear cell s
  | .launchEnd launch => Sys2Proof.Machine.execLaunchEnd launch s
  | .pageMigrationBegin ctx va => Sys2Proof.Machine.execPageMigrationBegin ctx va s
  | .pageMigrationCopy ctx va frame => Sys2Proof.Machine.execPageMigrationCopy ctx va frame s
  | .pageMigrationEnd ctx va frame => Sys2Proof.Machine.execPageMigrationEnd ctx va frame s
  | .compactorMove core slot buf pos => Sys2Proof.Machine.execCompactorMove core slot buf pos s
  | .forwardingRemove core idx => Sys2Proof.Machine.execForwardingRemove core idx s
  | .teamPark core slot => Sys2Proof.Machine.execTeamPark core slot s
  | .teamUnpark core slot => Sys2Proof.Machine.execTeamUnpark core slot s
  | .chooseBand launch => Sys2Proof.Machine.execChooseBand launch s
  | .pieceDispatch launch => Sys2Proof.Machine.execPieceDispatch launch s
  | .pieceCommit launch => Sys2Proof.Machine.execPieceCommit launch s
  | .commitOverflow core slot gid => Sys2Proof.Machine.execCommitOverflow core slot gid s
  | .childLaunchStart launch => Sys2Proof.Machine.execChildLaunchStart launch s
  | .completionSignal launch => Sys2Proof.Machine.execCompletionSignal launch s
  | .spacePacket slot => Sys2Proof.Machine.execSpacePacket slot s
  | .harnessPacket slot => Sys2Proof.Machine.execHarnessPacket slot s
  | .waitPacket slot => Sys2Proof.Machine.execWaitPacket slot s
  | .waitReevaluate slot => Sys2Proof.Machine.execWaitReevaluate slot s
  | .waitRereadTimer slot => Sys2Proof.Machine.execWaitRereadTimer slot s
  | .signalPacket slot => Sys2Proof.Machine.execSignalPacket slot s
  | .cutloadPacket slot => Sys2Proof.Machine.execCutloadPacket slot s
  | .stdefPacket slot => Sys2Proof.Machine.execStdefPacket slot s
  | .padPacket slot => Sys2Proof.Machine.execPadPacket slot s
  | .kick v => Sys2Proof.Machine.execKick v s
  | .doorbellService queue => Sys2Proof.Machine.execDoorbellService queue s
  | .queueMap queue => Sys2Proof.Machine.execQueueMap queue s
  | .priorityAgeing queue => Sys2Proof.Machine.execPriorityAgeing queue s
  | .queueSramError queue => Sys2Proof.Machine.execQueueSramError queue s
  | .deplost queue => Sys2Proof.Machine.execDeplost queue s
  | .firmwareLiveUpdate version => Sys2Proof.Machine.execFirmwareLiveUpdate version s
  | .preemption cell => Sys2Proof.Machine.execPreemption cell s
  | .haltReported cell => Sys2Proof.Machine.execHaltReported cell s
  | .contextSave cell => Sys2Proof.Machine.execContextSave cell s
  | .contextRestore image cell places => Sys2Proof.Machine.execContextRestore image cell places s
  | .shadowImageMove image toOverflow => Sys2Proof.Machine.execShadowImageMove image toOverflow s
  | .create => Sys2Proof.Machine.execCreate s
  | .end_ => Sys2Proof.Machine.execEnd s
  | .clock => Sys2Proof.Machine.execClock s
  | .clockModeChange => Sys2Proof.Machine.execClockModeChange s
  | .freeze => Sys2Proof.Machine.execFreeze s
  | .negotiate => Sys2Proof.Machine.execNegotiate s
  | .ctxnew => Sys2Proof.Machine.execCtxnew s
  | .ctxend => Sys2Proof.Machine.execCtxend s
  | .ctxinv => Sys2Proof.Machine.execCtxinv s
  | .resume => Sys2Proof.Machine.execResume s
  | .destroy => Sys2Proof.Machine.execDestroy s
  | .readout => Sys2Proof.Machine.execReadout s
  | .registerWrite off v => Sys2Proof.Machine.execRegisterWrite off v s
  | .bar2Access write off bytes v => Sys2Proof.Machine.execBar2Access write off bytes v s
  | .linkRequest write stitch ctxSlot pa bytes req => Sys2Proof.Machine.execLinkRequest write stitch ctxSlot pa bytes req s
  | .peerTimeout dev core slot gid => Sys2Proof.Machine.execPeerTimeout dev core slot gid s
  | .heartbeat => Sys2Proof.Machine.execHeartbeat s
  | .heartbeatSilence dev => Sys2Proof.Machine.execHeartbeatSilence dev s
  | .resetRequest from_ sig => Sys2Proof.Machine.execResetRequest from_ sig s
  | .freezeRequest key from_ sig => Sys2Proof.Machine.execFreezeRequest key from_ sig s
  | .thermalTrip => Sys2Proof.Machine.execThermalTrip s
  | .powerLimit arith slice => Sys2Proof.Machine.execPowerLimit arith slice s
  | .clockChange dom die mhz => Sys2Proof.Machine.execClockChange dom die mhz s
  | .boot rec_ => Sys2Proof.Machine.execBoot rec_ s
  | .nonInstructionWord w => Sys2Proof.Machine.execNonInstructionWord w s
  | .coreStorageError core slot gid => Sys2Proof.Machine.execCoreStorageError core slot gid s
  | .linkPortTraining port version lowest => Sys2Proof.Machine.execLinkPortTraining port version lowest s
  | .linkLevelRetry port => Sys2Proof.Machine.execLinkLevelRetry port s

end Sys2Proof.Machine
end

