-- ==== Sys2Proof/Machine/Sched.lean ====
section
/-! DEFINITION. Machine/Sched.lean: which instruction or event a step runs (log entries 5 and 6): the head of the agenda; else the next
operation of a routine that holds a line; else the next word of the group in focus; and, where that word has to wait, an event that is
due. Fetching a word for a step, and placing one where a step fetches. -/

namespace Sys2Proof.Machine

/-- Events that the island and the host port serve while the other clocks stand (19 R287, R292 to R295). -/
def ofIsland : Instr → Bool
  | .boot _ => true
  | .resetRequest _ _ => true
  | .freezeRequest _ _ _ => true
  | .registerWrite _ _ => true
  | .bar2Access _ _ _ _ => true
  | .create => true
  | .end_ => true
  | .clock => true
  | .freeze => true
  | .negotiate => true
  | .ctxnew => true
  | .ctxend => true
  | .ctxinv => true
  | .resume => true
  | .destroy => true
  | .readout => true
  | _ => false

/-- What a step does: an event of the agenda; an instruction, after which an event is served where it had to wait; a next state
without an instruction (a fault on the fetch of a word); an event for want of a group that can issue; or nothing, with the clocks
stopped. -/
inductive Pick
  | event (i : Instr) (s : State)
  | instr (i : Instr) (s : State)
  | became (s : State)
  | serve
  | stop (f : Fault)
  deriving DecidableEq, Repr

/-- The instruction of the group in focus: its clause header, or the word at its position. -/
def State.pickWord (s : State) : Pick :=
  if s.grp.hdr.isNone then .instr .clauseHeaderIssue s
  else match s.fetch s.grp.addr with
    | (.word w, s1) =>
      match decode64 w.toNat with
      | .ok i => .instr i s1
      | .error _ => .instr (.nonInstructionWord w) s1
    | (.page k c, _) => .became (s.parkFetch 0xFF k c s.grp.addr)
    | (.machineCheck key, _) => .became (s.takeFault 0xFF (machineCheck 2 key))

/-- The operation of the routine that holds a line. -/
def pickStitch (r : StitchRun) (s : State) : Pick :=
  match (r.code[r.pc]?).bind decode32 with
  | some i => .instr i s
  | none => .stop .stitchWordInvalid

/-- The head of the agenda, where its clocks run. -/
def State.pickIsland (s : State) : Pick :=
  match s.agenda with
  | i :: rest => if s.dev.state = 2 ∨ ofIsland i = true then .event i { s with agenda := rest } else .stop .clocksStopped
  | [] => .stop .clocksStopped

/-- A routine that holds a line ends first: nothing comes to a held line (12 R214), and a hold is short. -/
def State.pick (s : State) : Pick :=
  match s.run, s.agenda with
  | some r, _ => if s.dev.state = 2 then pickStitch r s else s.pickIsland
  | none, _ :: _ => s.pickIsland
  | none, [] => if s.dev.state ≠ 2 then .stop .clocksStopped else if s.canIssue s.grp then s.pickWord else .serve

/-- The instruction did something that program order shows: it issued, it suspended its group, it left the group, or it took a header. -/
def State.moved (s t : State) : Bool :=
  s.core.issued != t.core.issued || s.core.id != t.core.id || s.grp.susp != t.grp.susp || s.grp.live != t.grp.live ||
  s.grp.hdr.isSome != t.grp.hdr.isSome || s.run != t.run

/-- The group issues, takes its header or takes a fault, if it comes into focus now: it is ready, and nothing holds it (03 R56, 16 R262). -/
def State.issues (s : State) (g : Group) : Bool :=
  s.canIssue g && match (s.focus g.core g.slot g.gid).pickWord with
    | .instr i x => (match exec i x with
      | .next t => x.moved t
      | _ => true)
    | _ => true

/-- The group that a quadrant issues from next: within a clause the one that issued last there, unless it waits (03 R56), else the next ready one in
round robin after it (16 R262). The group in focus waits or stands at a clause boundary. -/
def State.nextOf (s : State) (core quad : Nat) : Option Group :=
  if s.issuedLast core quad s.grp || s.maySwitch core quad then (s.turns core quad).find? s.issues
  else s.allGroups.find? (s.issuedLast core quad)

/-- Another group comes into focus, in the quadrant of the group that can issue and has been out of focus longest. -/
def State.rotate (s : State) : State :=
  match s.groups.find? s.issues with
  | none => s
  | some g =>
    match s.nextOf g.core (g.gid % 4) with
    | some x => s.focus x.core x.slot x.gid
    | none => s

/-- At a clause boundary another group has its turn (16 R262). -/
def State.handOver (s : State) : State := if s.grp.hdr.isNone && s.run.isNone then s.rotate else s

/-! ## Events that may be due -/

/-- What completes an issued instruction. -/
def Pend.events (g : Group) (p : Pend) : List Instr :=
  match p.kind with
  | .load _ _ _ _ _ _ => [.loadComplete g.core g.slot g.gid p.seq 0xFFFFFFFF#32]
  | .mldb _ => [.loadComplete g.core g.slot g.gid p.seq 0xFFFFFFFF#32]
  | .store _ _ => [.storePerformed g.core g.slot g.gid p.seq 0xFFFFFFFF#32]
  | .arith _ => [.arithComplete g.core g.slot g.gid p.seq]
  | .copy _ _ _ _ _ _ _ => [.copyComplete g.core g.slot g.gid p.seq]
  | .stch _ _ _ _ [] => [.stchComplete g.core g.slot g.gid p.seq]
  | .stch _ _ _ _ (x :: _) => [.stitchInvocation g.core g.slot g.gid p.seq x.1.lane]
  | .mma _ => [.matrixComplete g.core g.slot g.gid p.seq]
  | .mdrain _ true _ (x :: _) _ => [.mdrainLineInvocation g.core g.slot g.gid p.seq (x.1.key / 128)]
  | .mdrain _ _ _ _ _ => [.mdrainComplete g.core g.slot g.gid p.seq]
  | .arrive _ _ _ => [.bararrArrival g.core g.slot g.gid p.seq]

/-- What may end a suspension. -/
def Group.suspEvents (g : Group) : List Instr :=
  match g.susp with
  | .sync _ => [.barsyncArrival g.core g.slot g.gid]
  | .ring _ _ _ => [.ringReevaluate g.core g.slot g.gid]
  | .rput _ _ _ => [.rputPlacement g.core g.slot g.gid]
  | .latched => [.mmaRendezvous g.core g.slot g.gid]
  | .parked => [.faultResolve g.core g.slot g.gid]
  | .ready => [.commitOverflow g.core g.slot g.gid]
  | _ => []

def Group.events (g : Group) : List Instr := if g.live then g.pend.flatMap (Pend.events g) ++ g.suspEvents else []

def Launch.events (l : Launch) : List Instr :=
  [.launchEnd l.id, .completionSignal l.id, .pieceCommit l.id, .pieceDispatch l.id] ++ if l.cutq.isEmpty then [.chooseBand l.id] else []

/-- The packet of any type that may stand at a queue's RD. -/
def State.slotEvents (s : State) (x : SlotSt) : List Instr :=
  if (s.slotQueue? x.idx).any fun q => q.unread && !q.halt then
    [.spacePacket x.idx, .harnessPacket x.idx, .waitPacket x.idx, .signalPacket x.idx, .cutloadPacket x.idx, .stdefPacket x.idx,
      .padPacket x.idx]
  else []

/-- Slots in decreasing effective priority, ties to the lower slot (16 R258). -/
def State.slotOrder (s : State) : List SlotSt :=
  let key := fun x : SlotSt => match x.queue with
    | some q => s.effOf q
    | none => 0
  sortBy (fun a b => decide (key b < key a) || (key a == key b && decide (a.idx ≤ b.idx))) s.slots

/-- A slot of another context with a higher effective priority wants the cell (16 R258). -/
def State.wanted (s : State) (c : CellSt) : Bool :=
  s.slots.any fun x => match x.queue.bind s.findQueue? with
    | some q => q.cell == c.id && c.ctx.isSome && c.ctx != some q.ctx && q.unread && !q.halt &&
        !(s.resident c.id).isEmpty && (s.resident c.id).all fun l => decide (s.effOf l.queue < s.effOf q.num)
    | none => false

def State.cellEvents (s : State) (c : CellSt) : List Instr :=
  (if c.overflow then [Instr.faultRingOverflowClear c.id] else []) ++
  (if c.halting then [Instr.haltReported c.id, Instr.contextSave c.id] else []) ++
  (if !c.halting && s.wanted c then [Instr.preemption c.id] else [])

/-- A saved context tries the cores and slots that it left; before it firmware brings the image back into the shadow ways, where that
leaves room for the largest save of the die (17 R279). -/
def State.imageEvents (s : State) (m : Image) : List Instr :=
  let largest := ((s.cells.filter fun c => c.die == m.die).map CellSt.largestSave).foldl Nat.max 0
  (if m.inOverflow && decide (s.imageBytes m.die false + m.bytes + largest ≤ s.shadowBytes) then [Instr.shadowImageMove m.num false] else []) ++
  (s.cells.filter fun c => m.teams.all fun t => c.has t.core).map fun c =>
    .contextRestore m.num c.id (m.teams.map fun t => (t.core, t.slot))

/-- Where the shadow ways of a cell's die have less room than its largest save, the oldest image there moves to the overflow area (17
R279). -/
def State.shadowEvents (s : State) (c : CellSt) : List Instr :=
  if s.shadowBytes < s.imageBytes c.die false + c.largestSave then
    match s.images.find? fun m => m.die == c.die && !m.inOverflow with
    | some m => [.shadowImageMove m.num true]
    | none => []
  else []

/-- The command that runs goes on. -/
def Dev.events (d : Dev) : List Instr :=
  if d.lockWanted.isSome then [.clockModeChange]
  else if !d.busy then []
  else match d.cmd with
    | 1 => [.create]
    | 2 => [.end_]
    | 6 => [.ctxnew]
    | 7 => [.ctxend]
    | 8 => [.ctxinv]
    | 9 => [.resume]
    | 10 => [.destroy]
    | _ => []

/-- Every event that may be due, in the order in which a step tries them. -/
def State.dueList (s : State) : List Instr :=
  s.allGroups.flatMap Group.events ++ [.lineFill] ++ s.launches.flatMap Launch.events ++
  s.children.map (fun c => Instr.childLaunchStart c.id) ++ s.slotOrder.flatMap s.slotEvents ++
  (s.queues.filter (·.doorbell)).map (fun q => Instr.doorbellService q.num) ++
  (s.queues.filter (·.pending)).map (fun q => Instr.queueMap q.num) ++
  (s.allTeams.filter (·.inL2)).map (fun t => Instr.teamUnpark t.core t.slot) ++
  s.allCores.flatMap (fun c => (List.range c.fwd.length).map fun i => Instr.forwardingRemove c.id i) ++
  s.launches.flatMap s.compactions ++ s.cells.flatMap s.cellEvents ++ s.cells.flatMap s.shadowEvents ++ s.images.flatMap s.imageEvents ++
  s.dev.events

/-! ## A word where the next step fetches it -/

/-- The routine state in which a stitch word runs. -/
def bareRun (w : Nat) : StitchRun :=
  { core := 0, slot := 0, gid := 0, seq := 0, lane := 0, ctx := 0, key := 0, wide := false, code := [w], pc := 0,
    l := List.replicate 32 0, old := List.replicate 32 0, t := List.replicate 4 (List.replicate 32 0), m := [0, 0, 0, 0], a := [], off := 0 }

/-- A stitch word becomes the next operation of the routine that holds a line. -/
def State.placeStitch (s : State) (w : Nat) : State :=
  let r := match s.run with
    | some r => { r with code := [w], pc := 0 }
    | none => bareRun w
  { s with run := some r, agenda := [], dev := { s.dev with state := 2 } }

/-- An Adlor word stands in the instruction cache at the position of the group in focus, which is ready, with a header in hand. -/
def State.placeWord (s : State) (w : Nat) : State :=
  let key := (s.team.ctx, s.grp.addr)
  let hdr : Header := { count := s.grp.pslot + 1, cls := .g, ldw := 15, stw := 15, mxw := 15, cpw := 15 }
  { s with
    grp := { s.grp with core := s.core.id, slot := s.team.slot, live := true, susp := .ready, hdr := some (s.grp.hdr.getD hdr) }
    team := { s.team with core := s.core.id, live := true, inL2 := false }
    core := { s.core with icache := (key, BitVec.ofNat 64 w) :: s.core.icache.filter fun e => e.1 != key }
    run := none, agenda := [], dev := { s.dev with state := 2 } }

end Sys2Proof.Machine
end

