-- ==== Sys2Proof/Machine/Step.lean ====
section
/-! DEFINITION. Machine/Step.lean: one step, and the placing of a word for it. -/

namespace Sys2Proof.Machine

/-- The first event of a list that changes the state; `k` is its place, after which the next step looks. -/
def serve (s : State) (k : Nat) : List Instr → Host.Outcome State Fault Refusal
  | [] => .next s
  | i :: is =>
    match exec i s with
    | .next t => if t = s then serve s (k + 1) is else .next { t with nextDue := k + 1 }
    | o => o

/-- Serve an event that is due: each has its turn. -/
def serveDue (s : State) : Host.Outcome State Fault Refusal :=
  let k := s.nextDue % s.dueList.length
  serve s k (s.dueList.rotateLeft k)

/-- After an event another group may have its turn. -/
def serveRotate (s : State) : Host.Outcome State Fault Refusal :=
  match serveDue s with
  | .next t => .next t.rotate
  | o => o

/-- An event of the agenda runs alone. An instruction that has to wait (04 R60, 16 R262) leaves its step to an event; a clause header
shares its step with one, so that no group that runs on keeps the others' events from their turn. -/
def step (s : State) : Host.Outcome State Fault Refusal :=
  match s.pick with
  | .event i s1 => exec i s1
  | .instr i s1 =>
    match exec i s1 with
    | .next t => if !s1.moved t then serveRotate t else if i = .clauseHeaderIssue then serveDue t else .next t.handOver
    | o => o
  | .became t => .next t
  | .serve => serveRotate s
  | .stop f => .fault f

/-- An instruction of `nbits` bits where the next step fetches it (log entry 4). -/
def State.withFetchWord (s : State) (nbits w : Nat) : State :=
  if nbits ≤ 32 then s.placeStitch (w % 2 ^ 32) else s.placeWord (w % 2 ^ 64)

end Sys2Proof.Machine
end

