-- ==== Sys2Proof/Safety.lean ====
section
/-! DEFINITION. Safety.lean: what a state of the machine always satisfies, and what a safe run is. -/

namespace Sys2Proof.Machine

/-- Memory stands in its canonical form, in which equal memories are equal lists. -/
def State.MemOk (s : State) : Prop := s.mem.wf = true

/-- STATE and FRZC hold values of 19 Table 19-1: the device is frozen exactly where FRZC gives a reason. -/
def State.DevOk (s : State) : Prop := s.dev.state ≤ 4 ∧ s.dev.frzc ≤ 3 ∧ (s.dev.state = 3 ↔ s.dev.frzc ≠ 0)

/-- A safe run of n steps: none of them stops the machine. Faults of programs are taken, and stop nothing. -/
def Safe (n : Nat) (s : State) : Prop :=
  match Host.Core.run Sys2Proof.core n s with
  | .next _ => True
  | _ => False

end Sys2Proof.Machine
end

