-- ==== Sys2Proof/Certificates/Slice0/Obligations.lean ====
section
/-! DEFINITION. Certificates/Slice0/Obligations.lean: the statements for the provers, each `def Obligations.<Name> : Prop`, and the
words in which they are said. The values that instructions write are written out here from the spec's rules, apart from the meanings. -/

namespace Sys2Proof.Slice0

open Machine

/-! ## What the statements share -/

/-- Nothing holds the instruction (03 R57 to R60; 13 R229, R234), and every register that it names lies below its cap (04 R77). -/
def Clear (i : Instr) (s : State) : Prop := s.holds i = false ∧ s.grp.bounds i = none

/-- What issue leaves of a state s that an instruction's own effect has made: the core's count and the group that issued last (16 R262);
one more issue and the active lanes with points for the piece, unless the instruction replays (06 R124, 17 R271); the next position,
whose header comes first where the clause has ended (03 R52, R72); one place less in every open window (03 R57); and the wait point after
a translation, which the instruction in hand now leaves behind (03 R56). Nothing else. -/
def issued (act : W32) (s : State) : State :=
  { s with
    core := { s.core with issued := s.core.issued + 1,
                          lastQuad := mapSet 0 s.core.lastQuad (s.grp.gid % 4) (1 + 32 * s.grp.slot + s.grp.gid) },
    team := if s.grp.replay.isNone then
        { s.team with icnt := s.team.icnt + 1, acnt := s.team.acnt + popcount 32 (act &&& s.pointLanes).toNat } else s.team,
    grp := { s.grp with pend := s.grp.pend.map fun p => { p with left := p.left - 1 },
                        held := false, replay := none, enter := false, gap := if s.grp.gap = .inHand then .before else .no,
                        base := s.grp.nextPos.1, pslot := s.grp.nextPos.2,
                        hdr := if s.grp.nextPos.1 = s.grp.base then s.grp.hdr else none } }

/-- The same where control goes to the clause at an address: its header comes first, in its slot 0 (03 R71, R72). -/
def transferred (act : W32) (addr : Nat) (s : State) : State :=
  let t := issued act s
  { t with grp := { t.grp with base := addr, pslot := 0, hdr := none, enter := true } }

/-! ## Groups of a team that starts (04 R75, R77 to R79) -/

/-- The groups of a role for a piece of p points. -/
def roleSize (p : Nat) (r : Role) : Nat := if r.count = 0 then (p + 31) / 32 else r.count

/-- The groups of the roles before number i; with i beyond the last role, all groups. -/
def groupsUpTo (b : Body) (p i : Nat) : Nat := ((b.roles.take i).map (roleSize p)).foldl (· + ·) 0

/-- A group at the start of a team for p points, in the state of Table 4-1: of role i, whose groups have the GIDs that follow those of the
roles before it; in the first `pts` role the j-th has points 32 j to 32 j + 31 of the piece, and only lanes with a point are active. -/
def Fresh (b : Body) (p : Nat) (params : List W64) (core slot : Nat) (dcnt : W32) (n : Group) : Prop :=
  ∃ i r, b.roles[i]? = some r ∧ n.core = core ∧ n.slot = slot ∧ n.live = true ∧ n.role = i ∧ n.kind = r.kind ∧ n.vcap = r.vcap ∧
    n.scap = r.scap ∧ n.roleFirst = groupsUpTo b p i ∧ n.roleCount = roleSize p r ∧
    groupsUpTo b p i ≤ n.gid ∧ n.gid < groupsUpTo b p i + roleSize p r ∧
    n.base = b.entry ∧ n.pslot = 0 ∧ n.hdr = none ∧ n.susp = .ready ∧ n.stack = [] ∧ n.fpcr = 0 ∧ n.lstat = 0 ∧ n.slim = 0 ∧
    n.buckle = 0 ∧ n.latch = none ∧ n.dcnt = dcnt ∧
    (if r.count = 0 ∧ ∀ k < i, ∀ r', b.roles[k]? = some r' → r'.count ≠ 0 then
       n.pointGroup = some (n.gid - groupsUpTo b p i) ∧
         ∀ l < 32, n.xm.getLsbD l = decide (32 * (n.gid - groupsUpTo b p i) + l < p)
     else n.pointGroup = none ∧ n.xm = 0xFFFFFFFF#32) ∧
    (∀ q l, n.V q l = 0) ∧ (∀ q, q < 15 → n.P q = 0) ∧
    ∀ q, n.S q = if q = 1023 then BitVec.ofNat 64 b.priv else if q < 16 ∧ q < r.scap then params.getD q 0 else 0

/-- The groups of a team that starts: GIDs 0 to GCNT - 1, each as at the start. -/
def FreshTeam (b : Body) (p : Nat) (params : List W64) (core slot : Nat) (dcnt : W32) (gs : List Group) : Prop :=
  gs.map (·.gid) = List.range (groupsUpTo b p b.roles.length) ∧ ∀ n ∈ gs, Fresh b p params core slot dcnt n

/-- What a release of the group in focus at a place in its core's order hands on within its team (13 R230, R231): what happens before it, its own
stores that have still to reach their homes included. -/
def handing (seq : Nat) (s : State) : Know :=
  if s.grp.pend.any fun p => p.isStore && decide (p.seq < seq) then s.grp.know.join { upto := seq } else s.grp.know

/-- Every byte of memory reads as before. -/
def SameMemory (s t : State) : Prop := ∀ a, t.mem.byte a = s.mem.byte a

end Sys2Proof.Slice0

open Sys2Proof Sys2Proof.Machine Sys2Proof.Slice0

/-! ## Scalar instructions (23 R398 to R417), PIECE, BARQ -/

namespace Sys2Proof.Slice0

/-- An S register as a number of the type (23 R399). -/
def sval (t : SType) (r : SReg) (s : State) : Int := SType.read t (s.grp.S r.val)

/-- The low w bits of an S register. -/
def sbits (t : SType) (r : SReg) (s : State) : Nat := (s.grp.S r.val).toNat % 2 ^ SType.w t

/-- The new S[D] of the scalar instructions that write it at issue, of PIECE and of BARQ: D and its value. -/
def scalarValue : Instr → Option (SReg × (State → W64))
  | .smov d a => some (d, fun s => s.grp.S a.val)
  | .smovi d imm => some (d, fun _ => imm.signExtend 64)
  | .smoviU d imm => some (d, fun _ => imm.setWidth 64)
  | .smoviHi d imm => some (d, fun s => (imm ++ (s.grp.S d.val).setWidth 32 : W64))
  | .sadd t sat d a b => some (d, fun s => SType.result t sat (sval t a s + sval t b s))
  | .ssub t sat d a b => some (d, fun s => SType.result t sat (sval t a s - sval t b s))
  | .saddi d imm => some (d, fun s => s.grp.S d.val + imm.signExtend 64)
  | .saddiHi d imm => some (d, fun s => s.grp.S d.val + (imm.signExtend 64 <<< 32))
  | .saddiReg d a imm => some (d, fun s => s.grp.S a.val + imm.signExtend 64)
  | .smul t sat d a b => some (d, fun s => SType.result t sat (sval t a s * sval t b s))
  | .smulh t d a b => some (d, fun s => SType.result t false (sval t a s * sval t b s / (2 : Int) ^ SType.w t))
  | .sand t d a b => some (d, fun s => SType.extend t (sbits t a s &&& sbits t b s))
  | .sor t d a b => some (d, fun s => SType.extend t (sbits t a s ||| sbits t b s))
  | .sxor t d a b => some (d, fun s => SType.extend t (sbits t a s ^^^ sbits t b s))
  | .sshl t sat d a b => some (d, fun s => SType.result t sat (sval t a s * (2 : Int) ^ sbits t b s))
  | .sshr t d a b => some (d, fun s => SType.extend t (sbits t a s / 2 ^ sbits t b s))
  | .ssar t d a b => some (d, fun s => SType.result t false (sext (SType.w t) (sbits t a s) / (2 : Int) ^ sbits t b s))
  | .smin t d a b => some (d, fun s => SType.result t false (if sval t a s ≤ sval t b s then sval t a s else sval t b s))
  | .smax t d a b => some (d, fun s => SType.result t false (if sval t a s ≤ sval t b s then sval t b s else sval t a s))
  | .ssel p d a b => some (d, fun s => if (s.grp.P p.val).getLsbD 0 then s.grp.S a.val else s.grp.S b.val)
  | .spopc t d a => some (d, fun s => SType.extend t ((List.range (SType.w t)).countP fun i => (sbits t a s).testBit i))
  | .sclz t d a => some (d, fun s =>
      SType.extend t (if sbits t a s = 0 then SType.w t else SType.w t - 1 - (sbits t a s).log2))
  | .piece f d => some (d, fun s =>
      let p := s.team.piece
      BitVec.ofNat 64 (match f with
        | .ox => p.ox | .oy => p.oy | .oz => p.oz | .ex => p.ex | .ey => p.ey | .entry => p.entry | .order => p.order
        | .idx => p.idx | .gcnt => (p.ex * p.ey + 31) / 32 | .pcnt => p.ex * p.ey | .band => p.band))
  | .barq b d => some (d, fun s => ((s.team.bar b).ph.setWidth 64))
  | .barqCnt b d => some (d, fun s =>
      let x := s.team.bar b
      BitVec.ofNat 64 ((if x.init then x.exp else 0) + x.arr * 2 ^ 16 + s.copiesDue b * 2 ^ 32 + s.waiters b * 2 ^ 40 +
        (if x.init then 2 ^ 48 else 0)))
  | _ => none

end Sys2Proof.Slice0

/-- 23 R402 to R417, 22 R385, 20 R306: a scalar instruction, PIECE and BARQ write S[D] with their value and nothing else; they issue. -/
def Sys2Proof.Slice0.ScalarResults : Prop :=
  ∀ (i : Instr) (d : SReg) (f : State → W64), scalarValue i = some (d, f) → ∀ s : State, Clear i s →
    ∃ t m, exec i s = .next t ∧ t = issued s.grp.xm { s with grp := { s.grp with s := m } } ∧
      (∀ q, t.grp.S q = if q = d.val then f s else s.grp.S q) ∧ SameMemory s t

/-- 23 R406: SCMP writes the outcome to all 32 lanes of P[D], active or not; P15 ignores it. -/
def Sys2Proof.Slice0.ScalarCompare : Prop :=
  ∀ (t : SType) (c : ICond) (d : PReg) (a b : SReg) (s : State), Clear (.scmp t c d a b) s →
    ∃ u m, exec (.scmp t c d a b) s = .next u ∧ u = issued s.grp.xm { s with grp := { s.grp with p := m } } ∧
      (∀ q, u.grp.P q = if q = d.val ∧ q ≠ 15 then
          (if (match c with
            | .eq => decide (sval t a s = sval t b s) | .ne => decide (sval t a s ≠ sval t b s)
            | .lt => decide (sval t a s < sval t b s) | .le => decide (sval t a s ≤ sval t b s)
            | .gt => decide (sval t a s > sval t b s) | .ge => decide (sval t a s ≥ sval t b s)) then 0xFFFFFFFF#32 else 0#32)
        else s.grp.P q) ∧ SameMemory s u

namespace Sys2Proof.Slice0

/-- The special registers that RDSR reads (04 Table 4-2); CYC, number 9, is a free value (log entry 2) and stands apart. -/
def specials : List (Nat × (State → W64)) :=
  [(0x00, fun s => s.grp.xm.setWidth 64), (0x01, fun s => BitVec.ofNat 64 s.grp.gid), (0x02, fun s => BitVec.ofNat 64 s.team.gcnt),
   (0x03, fun s => BitVec.ofNat 64 (s.grp.role + (match s.grp.kind with | .vec => 0 | .mat => 1 | .cpy => 2) * 2 ^ 2 +
     s.grp.roleFirst * 2 ^ 4 + s.grp.roleCount * 2 ^ 9)),
   (0x04, fun s => BitVec.ofNat 64 s.grp.slot), (0x05, fun s => BitVec.ofNat 64 s.core.id),
   (0x06, fun s => BitVec.ofNat 64 s.cellId), (0x07, fun s => BitVec.ofNat 64 s.team.ctx),
   (0x08, fun s => s.team.rclk.setWidth 64), (0x0A, fun s => s.grp.slim.setWidth 64), (0x0B, fun s => s.grp.dcnt.setWidth 64),
   (0x0C, fun s => s.grp.fpcr.setWidth 64), (0x0D, fun s => BitVec.ofNat 64 s.grp.stack.length),
   (0x0E, fun s => s.grp.lstat.setWidth 64), (0x0F, fun s => BitVec.ofNat 64 s.core.l1w),
   (0x10, fun s => BitVec.ofNat 64 s.team.piece.idx)]

end Sys2Proof.Slice0

/-- 22 R387, 04 Table 4-2: RDSR writes S[D] with the register, and a number that is not assigned takes a special-register fault, cause 0.
CYC is a free value of log entry 2: some value is written. -/
def Sys2Proof.Slice0.SpecialRead : Prop :=
  ∀ (n : Fin 256) (d : SReg) (s : State), Clear (.rdsr n d) s →
    (∀ f, (n.val, f) ∈ specials → ∃ t m, exec (.rdsr n d) s = .next t ∧ t = issued s.grp.xm { s with grp := { s.grp with s := m } } ∧
      (∀ q, t.grp.S q = if q = d.val then f s else s.grp.S q) ∧ SameMemory s t) ∧
    (n.val = 9 → ∃ t m, exec (.rdsr n d) s = .next t ∧ t = issued s.grp.xm { s with grp := { s.grp with s := m } } ∧
      (∀ q, q ≠ d.val → t.grp.S q = s.grp.S q) ∧ SameMemory s t) ∧
    (0x10 < n.val → exec (.rdsr n d) s = .next (s.takeFault 0xA0 { kind := 13, cause := 0, d0 := BitVec.ofNat 64 n.val }))

/-- 23 R430: WRSR writes XM, DCNT or FPCR with the low bits of S[A]; any other number takes a special-register fault, cause 1. -/
def Sys2Proof.Slice0.SpecialWrite : Prop :=
  ∀ (n : Fin 256) (a : SReg) (s : State), Clear (.wrsr n a) s →
    (n.val = 0x00 → exec (.wrsr n a) s = .next (issued s.grp.xm
      { s with grp := { s.grp with xm := (s.grp.S a.val).setWidth 32 } })) ∧
    (n.val = 0x0B → exec (.wrsr n a) s = .next (issued s.grp.xm { s with grp := { s.grp with dcnt := (s.grp.S a.val).setWidth 32 } })) ∧
    (n.val = 0x0C → exec (.wrsr n a) s = .next (issued s.grp.xm { s with grp := { s.grp with fpcr := (s.grp.S a.val).setWidth 5 } })) ∧
    (n.val ≠ 0x00 → n.val ≠ 0x0B → n.val ≠ 0x0C →
      exec (.wrsr n a) s = .next (s.takeFault 0xA1 { kind := 13, cause := 1, d0 := BitVec.ofNat 64 n.val }))

/-! ## Instructions that write V registers lane by lane at issue (03 R62; 05 R97 to R100) -/

namespace Sys2Proof.Slice0

/-- What an instruction writes in an active lane: the guard, whether D is a pair, the width and the number of its elements, D, and the
element's value and flags by lane and element, from the state before. -/
structure LaneRow where
  g : Guard
  dbl : Bool
  w : Nat
  n : Nat
  d : VReg
  val : State → Nat → Nat → Nat
  flags : State → Nat → Nat → Nat := fun _ _ _ => 0

/-- A source of a type in a lane, as a number: a register, a pair, or the S register of all lanes. -/
def src (dbl : Bool) (a : VSrc) (s : State) (l : Nat) : Nat := s.grp.srcNat dbl l a

/-- Element e of a source, as a pattern and as a number of the type (21 R349). -/
def pat (t : IType) (a : VSrc) (s : State) (l e : Nat) : Nat := src t.dbl a s l / 2 ^ (IType.w t * e) % 2 ^ IType.w t
def num (t : IType) (a : VSrc) (s : State) (l e : Nat) : Int := readInt (IType.signed t) (IType.w t) (pat t a s l e)

/-- An integer instruction whose exact value is v (21 R350). -/
def intRow (g : Guard) (t : IType) (sat : Bool) (d : VReg) (v : State → Nat → Nat → Int) : LaneRow :=
  { g := g, dbl := t.dbl, w := IType.w t, n := IType.n t, d := d,
    val := fun s l e => reduce (IType.signed t) sat (IType.w t) (v s l e) }

/-- One on patterns. -/
def patRow (g : Guard) (t : IType) (d : VReg) (v : State → Nat → Nat → Nat) : LaneRow :=
  { g := g, dbl := t.dbl, w := IType.w t, n := IType.n t, d := d, val := v }

/-- One value a lane, of 32 or 64 bits. -/
def wordRow (g : Guard) (dbl : Bool) (d : VReg) (v : State → Nat → Nat) : LaneRow :=
  { g := g, dbl := dbl, w := if dbl then 64 else 32, n := 1, d := d, val := fun s l _ => v s l }

/-- The place and the width of a bit field of a w-bit value (21 R356). -/
def field (w c : Nat) : Nat × Nat := (c % 256, if w ≤ c % 256 then 0 else Nat.min (c / 256 % 256) (w - c % 256))

/-- The lane that SHFL reads for lane l with k (23 R409). -/
def shflFrom (m : ShflMode) (l k : Nat) : Nat :=
  match m with
  | .idx => k
  | .up => if k ≤ l then l - k else l
  | .down => if l + k ≤ 31 then l + k else l
  | .xor => l ^^^ k

/-- The coordinate of a lane (06 R121, R122): of its point, or of the piece's origin where it carries none. -/
def coordinate (ax : Axis) (s : State) (l : Nat) : Nat :=
  let p := s.team.piece
  match s.grp.pointGroup with
  | some q =>
    if 32 * q + l < p.ex * p.ey then
      match ax with
      | .x => p.ox + (32 * q + l) % p.ex | .y => p.oy + (32 * q + l) / p.ex | .z => p.oz
    else match ax with | .x => p.ox | .y => p.oy | .z => p.oz
  | none => match ax with | .x => p.ox | .y => p.oy | .z => p.oz

/-- Integer instructions, moves and lane exchange: those that write V registers at issue and no flag. -/
def vectorRow : Instr → Option LaneRow
  | .iadd g t sat d a b => some (intRow g t sat d fun s l e => num t a s l e + num t b s l e)
  | .isub g t sat d a b => some (intRow g t sat d fun s l e => num t a s l e - num t b s l e)
  | .iaddi g t sat d a imm => some (intRow g (SType.vec t) sat d fun s l e => num (SType.vec t) (.v a) s l e + imm.toInt)
  | .imul g t sat d a b => some (intRow g t sat d fun s l e => num t a s l e * num t b s l e)
  | .imulh g t d a b => some (intRow g t false d fun s l e => num t a s l e * num t b s l e / (2 : Int) ^ IType.w t)
  | .imad g t sat d a b c => some (intRow g t sat d fun s l e => num t a s l e * num t b s l e + num t c s l e)
  | .imin g t d a b => some (intRow g t false d fun s l e => min (num t a s l e) (num t b s l e))
  | .imax g t d a b => some (intRow g t false d fun s l e => max (num t a s l e) (num t b s l e))
  | .iclamp g t d a b c => some (intRow g t false d fun s l e => min (max (num t a s l e) (num t b s l e)) (num t c s l e))
  | .iabs g t sat d a => some (intRow g t sat d fun s l e => if num t a s l e < 0 then -num t a s l e else num t a s l e)
  | .ineg g t sat d a => some (intRow g t sat d fun s l e => -num t a s l e)
  | .iand g t d a b => some (patRow g t d fun s l e => pat t a s l e &&& pat t b s l e)
  | .ior g t d a b => some (patRow g t d fun s l e => pat t a s l e ||| pat t b s l e)
  | .ixor g t d a b => some (patRow g t d fun s l e => pat t a s l e ^^^ pat t b s l e)
  | .iandn g t d a b => some (patRow g t d fun s l e =>
      (BitVec.ofNat (IType.w t) (pat t a s l e) &&& ~~~BitVec.ofNat (IType.w t) (pat t b s l e)).toNat)
  | .ishl g t sat d a b => some (intRow g t sat d fun s l e => num t a s l e * (2 : Int) ^ pat t b s l e)
  | .ishr g t d a b => some (patRow g t d fun s l e => pat t a s l e / 2 ^ pat t b s l e)
  | .isar g t d a b => some (intRow g t false d fun s l e => sext (IType.w t) (pat t a s l e) / (2 : Int) ^ pat t b s l e)
  | .isel g t p d a b => some (wordRow g t.dbl d fun s l => if (s.grp.P p.val).getLsbD l then src t.dbl a s l else src t.dbl b s l)
  | .ipopc g t d a => some (patRow g t d fun s l e => (List.range (IType.w t)).countP fun i => (pat t a s l e).testBit i)
  | .iclz g t d a => some (patRow g t d fun s l e =>
      if pat t a s l e = 0 then IType.w t else IType.w t - 1 - (pat t a s l e).log2)
  | .ibfx g t d a c => some (wordRow g t.dbl d fun s l =>
      let f := field (SType.w t) (src false c s l)
      if f.2 = 0 then 0 else wrap (SType.w t) (readInt (SType.signed t) f.2 (src t.dbl a s l / 2 ^ f.1)))
  | .ibfi g t d a b c => some (wordRow g t.dbl d fun s l =>
      let f := field (SType.w t) (src false c s l)
      src t.dbl a s l - src t.dbl a s l / 2 ^ f.1 % 2 ^ f.2 * 2 ^ f.1 + src t.dbl b s l % 2 ^ f.2 * 2 ^ f.1)
  | .fabs g t d a => some { g := g, dbl := t.dbl, w := FType.w t, n := FType.n t, d := d, val := fun s l e =>
      let x := src t.dbl a s l / 2 ^ (FType.w t * e) % 2 ^ FType.w t
      if ((FType.fmt t).val x).isNan then (FType.fmt t).nanBits else x % (FType.fmt t).signBit }
  | .fneg g t d a => some { g := g, dbl := t.dbl, w := FType.w t, n := FType.n t, d := d, val := fun s l e =>
      let x := src t.dbl a s l / 2 ^ (FType.w t * e) % 2 ^ FType.w t
      if ((FType.fmt t).val x).isNan then (FType.fmt t).nanBits else x ^^^ (FType.fmt t).signBit }
  | .fclass g t d a => some (wordRow g false d fun s l => (FType.fmt t).classify (src t.dbl a s l % 2 ^ FType.w t))
  | .pack g d a b none => some (wordRow g false d fun s l => src false a s l % 2 ^ 16 + src false b s l % 2 ^ 16 * 2 ^ 16)
  | .pack g d a b (some c) => some (wordRow g false d fun s l =>
      src false a s l % 2 ^ 8 + src false b s l % 2 ^ 8 * 2 ^ 8 + src false c s l % 2 ^ 16 * 2 ^ 16)
  | .unpack g byte sx e d a => some (wordRow g false d fun s l =>
      let w := if byte then 8 else 16
      let f := src false a s l / 2 ^ (w * e.val) % 2 ^ w
      if sx then wrap 32 (sext w f) else f)
  | .vmov g dbl d a => some (wordRow g dbl d (src dbl a))
  | .vmovi g k d imm => some (wordRow g (k == .i64 || k == .n64) d fun _ _ =>
      match k with
      | .i32 => (imm.signExtend 32).toNat
      | .n32 => imm.toNat
      | .i64 => (imm.signExtend 64).toNat
      | .n64 => imm.toNat
      | .f32 => imm.toNat * 2 ^ 8)
  | .s2v g m d a => some (wordRow g (m == .d) d fun s _ =>
      match m with
      | .lo => (s.grp.S a.val).toNat % 2 ^ 32 | .hi => (s.grp.S a.val).toNat / 2 ^ 32 | .d => (s.grp.S a.val).toNat)
  | .shfl g m d a b => some (wordRow g false d fun s l => (s.grp.V a.val (shflFrom m l (src false b s l % 32))).toNat)
  | .vote g (.ballot d) inv p => some (wordRow g false d fun s _ =>
      (s.lanes g &&& (if inv then ~~~(s.grp.P p.val) else s.grp.P p.val)).toNat)
  | .packp g hi d => some (wordRow g false d fun s l =>
      (List.range 8).foldl (fun x j => x + (if (s.grp.P (j + if hi then 8 else 0)).getLsbD l then 2 ^ j else 0)) 0)
  | .coord g ax d => some (wordRow g false d (coordinate ax))
  | _ => none

/-- What one float operation on elements gives: value and flags (21 R331, R332). -/
def fltRow (g : Guard) (t : FType) (d : VReg) (f : State → Nat → Nat → Nat × Nat) : LaneRow :=
  { g := g, dbl := t.dbl, w := FType.w t, n := FType.n t, d := d, val := fun s l e => (f s l e).1, flags := fun s l e => (f s l e).2 }

/-- Element e of a float source as a pattern, and its value. -/
def fpat (t : FType) (a : VSrc) (s : State) (l e : Nat) : Nat := src t.dbl a s l / 2 ^ (FType.w t * e) % 2 ^ FType.w t
def fval (t : FType) (a : VSrc) (s : State) (l e : Nat) : FVal := (FType.fmt t).val (fpat t a s l e)

/-- Floating point and conversion: those that write V registers at issue and accumulate flags. -/
def floatRow : Instr → Option LaneRow
  | .fadd g t rm d a b => some (fltRow g t d fun s l e => (FType.fmt t).add rm (fval t a s l e) (fval t b s l e))
  | .fsub g t rm d a b => some (fltRow g t d fun s l e => (FType.fmt t).add rm (fval t a s l e) (fval t b s l e).negate)
  | .fmul g t rm d a b => some (fltRow g t d fun s l e => (FType.fmt t).mul rm (fval t a s l e) (fval t b s l e))
  | .ffma g t rm np d a b c => some (fltRow g t d fun s l e =>
      (FType.fmt t).fma rm np (fval t a s l e) (fval t b s l e) (fval t c s l e))
  | .fmin g t d a b => some (fltRow g t d fun s l e => (FType.fmt t).minmax false (fpat t a s l e) (fpat t b s l e))
  | .fmax g t d a b => some (fltRow g t d fun s l e => (FType.fmt t).minmax true (fpat t a s l e) (fpat t b s l e))
  | .fldex g t rm d a b => some (fltRow g t d fun s l e => (FType.fmt t).ldexp rm (fval t a s l e) (sext 32 (src false b s l)))
  | .cvt g dst st rm d a => some { wordRow g dst.dbl d (fun s l => (CType.convert dst (match rm with
        | .mode r => .std r
        | .sr c => .sr (s.grp.V c.val l).toNat) (CType.value st (src st.dbl (.v a) s l))).1) with
      flags := fun s l _ => (CType.convert dst (match rm with
        | .mode r => .std r
        | .sr c => .sr (s.grp.V c.val l).toNat) (CType.value st (src st.dbl (.v a) s l))).2 }
  | .bscal g dbl rm inv n d a b =>
    let f := if dbl then F64 else F32
    let r := fun s l => bscale f rm inv (f.val (src dbl a s l)) (E5M3.val (src false b s l / 2 ^ (8 * n.val) % 2 ^ 8))
    some { wordRow g dbl d (fun s l => (r s l).1) with flags := fun s l _ => (r s l).2 }
  | _ => none

/-- What an instruction that writes lanes leaves: issue, the V registers of D in the active lanes, and the flags; nothing else. -/
def WritesLanes (r : LaneRow) (i : Instr) (s : State) : Prop :=
  ∃ t m f, exec i s = .next t ∧ t = issued (s.lanes r.g) { s with grp := { s.grp with v := m, fpcr := f } } ∧
    (∀ l, l < 32 → (s.lanes r.g).getLsbD l = true →
      t.grp.srcNat r.dbl l (.v r.d) < 2 ^ (r.w * r.n) ∧
      ∀ e, e < r.n → t.grp.srcNat r.dbl l (.v r.d) / 2 ^ (r.w * e) % 2 ^ r.w = r.val s l e % 2 ^ r.w) ∧
    (∀ q l, l < 32 → ((s.lanes r.g).getLsbD l = false ∨ (q ≠ r.d.val ∧ (r.dbl = false ∨ q ≠ r.d.val + 1))) →
      t.grp.V q l = s.grp.V q l) ∧
    (∀ b, b < 5 → (t.grp.fpcr.getLsbD b = true ↔ s.grp.fpcr.getLsbD b = true ∨
      ∃ l e, l < 32 ∧ e < r.n ∧ (s.lanes r.g).getLsbD l = true ∧ (r.flags s l e).testBit b = true)) ∧
    SameMemory s t

end Sys2Proof.Slice0

/-- 21 R352 to R365, R335, R337; 22 R377 to R380; 23 R401, R408, R409, R427 to R429; 20 R317: each writes its value in the active lanes
of D, element by element, and nothing else; FPCR stays. -/
def Obligations.VectorResults : Prop :=
  ∀ (i : Instr) (r : LaneRow), vectorRow i = some r → ∀ s : State, r.g.isNever = false → Clear i s →
    WritesLanes r i s ∧ ∀ l e, r.flags s l e = 0

/-- 21 R336, R342 to R345, R343; 20 R313, R321, R322: each writes the rounded value in the active lanes of D and accumulates the flags
of all of them in FPCR (05 R107, R108). -/
def Sys2Proof.Slice0.FloatResults : Prop :=
  ∀ (i : Instr) (r : LaneRow), floatRow i = some r → ∀ s : State, r.g.isNever = false → Clear i s → WritesLanes r i s

/-- 20 R325: CVTI scales by 2^n: an F32 value into the integer type, or an integer into F32, rounded to nearest even; it accumulates the
flags of the active lanes. -/
def Sys2Proof.Slice0.ScaledConversion : Prop :=
  ∀ (g : Guard) (ty : SType) (tof : Bool) (d a : VReg) (n : BitVec 24) (s : State),
    g.isNever = false → Clear (.cvti g ty tof d a n) s →
    let scale := fun (k : Int) (v : FVal) => match v with | .fin neg m e => FVal.fin neg m (e + k) | v => v
    let f := fun l => if tof then F32.ofVal (.std .rne) (scale (-n.toInt) (intVal (SType.read ty (BitVec.ofNat 64 (src ty.dbl (.v a) s l)))))
      else toIntType (SType.signed ty) (SType.w ty) (.std .rne) (scale n.toInt (F32.val (s.grp.V a.val l).toNat))
    WritesLanes { wordRow g (!tof && ty.dbl) d (fun _ l => (f l).1) with flags := fun _ l _ => (f l).2 } (.cvti g ty tof d a n) s

/-! ## Rounding (05 R102 to R109) -/

namespace Sys2Proof.Slice0

/-- A finite value as a rational number (05 R97). -/
def rational : FVal → Rat
  | .fin neg m e => (if neg then -1 else 1) * m * 2 ^ e
  | _ => 0

def magnitude (v : Rat) : Rat := if v < 0 then -v else v

/-- The magnitudes with t fraction bits: their step is at least 2^q for `least = some q`, and their exponent has no upper bound (05 R102). `even`
picks those whose lowest fraction bit is 0. -/
def Grid (t : Nat) (least : Option Int) (even : Bool) (y : Rat) : Prop :=
  ∃ (n : Nat) (q : Int), y = n * 2 ^ q ∧ n < 2 ^ (t + 1) ∧ (∀ m, least = some m → m ≤ q) ∧
    (even = true → n % 2 = 0 ∧ (2 ^ t ≤ n ∨ least = some q))

/-- lo and hi are the adjacent values of a set with lo ≤ v ≤ hi (05 R102). -/
def Around (A : Rat → Prop) (v lo hi : Rat) : Prop :=
  A lo ∧ A hi ∧ lo ≤ v ∧ v ≤ hi ∧ ∀ y, A y → (y ≤ v → y ≤ lo) ∧ (v ≤ y → hi ≤ y)

/-- The magnitude y that a mode chooses for v between lo and hi (05 Table 5-2, R104). -/
def RoundedTo (md : RMode) (neg : Bool) (even : Rat → Prop) (v lo hi y : Rat) : Prop :=
  if lo = v then y = v else match md with
    | .std .rne => (v - lo < hi - v → y = lo) ∧ (hi - v < v - lo → y = hi) ∧ (v - lo = hi - v → (y = lo ∨ y = hi) ∧ even y)
    | .std .rtz => y = lo
    | .std .rup => y = if neg then lo else hi
    | .std .rdn => y = if neg then hi else lo
    | .std .rna => y = if v - lo < hi - v then lo else hi
    | .sr r => y = if 2 ^ 32 ≤ (r : Int) + ((v - lo) / (hi - lo) * 2 ^ 32).floor then hi else lo

/-- Pattern and flags of a magnitude v with a sign, rounded once into a format: the adjacent values and the mode's choice (R102, R104); an infinity or
the largest finite value, with OF and NX, where that lies beyond the format (R103); else NX where it differs from v, and UF where v, rounded with no
bound of the exponent, lies below the smallest normal number (R107). -/
def Rounds (f : Fmt) (md : RMode) (neg : Bool) (v : Rat) (out : Nat × Nat) : Prop :=
  ∃ lo hi y, Around (Grid f.t (some f.qmin) false) v lo hi ∧ RoundedTo md neg (Grid f.t (some f.qmin) true) v lo hi y ∧
    out.1 < 2 ^ (f.eb + f.t + 1) ∧
    let top := rational (f.val f.maxFin)
    (top < y → out.2 = fOF + fNX ∧
      (f.val out.1 = if f.kind = .ieee ∧ (match md with
          | .std .rne | .std .rna => true
          | .std .rtz => false
          | .std .rup => !neg
          | .std .rdn => neg
          | .sr _ => decide (lo ≠ v ∧ y = hi)) = true then .inf neg
        else f.val (f.maxFin + f.zero neg))) ∧
    (y ≤ top → (∃ m e, f.val out.1 = .fin neg m e ∧ (m : Rat) * 2 ^ e = y) ∧ (y = v → out.2 = 0) ∧
      (y ≠ v → ∃ lo' hi' y', Around (Grid f.t none false) v lo' hi' ∧ RoundedTo md neg (Grid f.t none true) v lo' hi' y' ∧
        out.2 = if y' < 2 ^ (f.qmin + f.t) then fUF + fNX else fNX))

/-- Value x lies below y: −0 below +0; NaN neither below nor above (05 R113). -/
def Below : FVal → FVal → Prop
  | .inf a, .inf b => a = true ∧ b = false
  | .inf a, .fin _ _ _ => a = true
  | .fin _ _ _, .inf b => b = false
  | .fin a m e, .fin b n g => rational (.fin a m e) < rational (.fin b n g) ∨ (m = 0 ∧ n = 0 ∧ a = true ∧ b = false)
  | _, _ => False

/-- The float formats and the integer types of conversions, with their widths (03 Table 3-6). -/
def floatTypes : List (CType × Fmt × Nat) :=
  [(.f64, F64, 64), (.f32, F32, 32), (.f16, F16, 16), (.bf16, BF16, 16), (.e4m3, E4M3, 8), (.e5m2, E5M2, 8), (.e5m3, E5M3, 8)]
def intTypes : List (CType × Bool × Nat) :=
  [(.i64, true, 64), (.n64, false, 64), (.i32, true, 32), (.n32, false, 32), (.i16, true, 16), (.n16, false, 16), (.i8, true, 8), (.n8, false, 8)]

/-- IV where one of the operands is a signalling NaN (05 R105). -/
def signals (vs : List FVal) : Nat := if vs.any FVal.isSig then fIV else 0

end Sys2Proof.Slice0

/-- 05 R102 to R109, R113, Table 5-3; 20 R314; 21 R343, R344: the rounding step, the sums, products, fused products and quotients that FADD, FSUB,
FMUL, FFMA and FDIV round, and the conversions of values into formats and integers: each is the exact value rounded once, with exactly the flags of
R107; zeros, infinities and NaNs follow R103, R105 and R109. FMIN and FMAX give an operand that none lies below or above, FLDEX x · 2^n, BSCAL a · s
or a / s. -/
def Sys2Proof.Slice0.ExactRounding : Prop :=
  (∀ f ∈ [F64, F32, F16, BF16, E4M3, E5M2, E5M3], ∀ (md : RMode) (neg : Bool) (m : Nat) (e : Int),
    (m = 0 → f.ofVal md (.fin neg m e) = (f.zero neg, 0)) ∧
    (m ≠ 0 → f.kind = .e5m3 → neg = true → f.ofVal md (.fin neg m e) = (f.nanBits, fIV)) ∧
    (m ≠ 0 → (f.kind = .e5m3 → neg = false) → Rounds f md neg (m * 2 ^ e) (f.ofVal md (.fin neg m e))) ∧
    ∀ num den : Nat, 0 < num → 0 < den → (f.kind = .e5m3 → neg = false) → Rounds f md neg (num / den * 2 ^ e) (f.round md neg num den e)) ∧
  (∀ f ∈ [F64, F32, F16, BF16], ∀ (rm : Rnd) (a b c np : Bool) (m n k : Nat) (e g h : Int),
    let x := FVal.fin a m e
    let y := FVal.fin b n g
    let z := FVal.fin c k h
    let sum := rational x + rational y
    let fused := (if np then -1 else 1) * (rational x * rational y) + rational z
    (sum ≠ 0 → Rounds f (.std rm) (decide (sum < 0)) (magnitude sum) (f.add rm x y)) ∧
    (sum = 0 → f.add rm x y = (f.zero (if m = 0 ∧ a = b then a else rm == .rdn), 0)) ∧
    (rational x * rational y ≠ 0 → Rounds f (.std rm) (a != b) (magnitude (rational x * rational y)) (f.mul rm x y)) ∧
    (rational x * rational y = 0 → f.mul rm x y = (f.zero (a != b), 0)) ∧
    (fused ≠ 0 → Rounds f (.std rm) (decide (fused < 0)) (magnitude fused) (f.fma rm np x y z)) ∧
    (fused = 0 → f.fma rm np x y z = (f.zero (if k = 0 ∧ ((a != b) != np) = c then c else rm == .rdn), 0)) ∧
    (m ≠ 0 → n ≠ 0 → Rounds f (.std rm) (a != b) (magnitude (rational x / rational y)) (f.div (.std rm) x y)) ∧
    (m = 0 → n ≠ 0 → f.div (.std rm) x y = (f.zero (a != b), 0)) ∧
    (n = 0 → f.div (.std rm) x y = if m = 0 then (f.nanBits, fIV) else (f.infinity (a != b), fDZ)) ∧
    (f.add rm (.inf a) y = (f.infinity a, 0) ∧ f.add rm x (.inf b) = (f.infinity b, 0) ∧
      f.add rm (.inf a) (.inf b) = if a = b then (f.infinity a, 0) else (f.nanBits, fIV)) ∧
    (f.mul rm (.inf a) y = (if n = 0 then (f.nanBits, fIV) else (f.infinity (a != b), 0)) ∧
      f.mul rm x (.inf b) = (if m = 0 then (f.nanBits, fIV) else (f.infinity (a != b), 0)) ∧ f.mul rm (.inf a) (.inf b) = (f.infinity (a != b), 0)) ∧
    (f.div (.std rm) (.inf a) y = (f.infinity (a != b), 0) ∧ f.div (.std rm) x (.inf b) = (f.zero (a != b), 0) ∧
      f.div (.std rm) (.inf a) (.inf b) = (f.nanBits, fIV)) ∧
    f.fma rm np x y (.inf c) = (f.infinity c, 0) ∧ (∀ sig, f.fma rm np x y (.nan sig) = (f.nanBits, signals [.nan sig])) ∧
    (n = 0 → ∀ v, f.fma rm np (.inf a) y v = (f.nanBits, fIV)) ∧ (m = 0 → ∀ v, f.fma rm np x (.inf b) v = (f.nanBits, fIV)) ∧
    (∀ p q : FVal, (p = .inf a ∧ q = y ∧ n ≠ 0) ∨ (p = x ∧ q = .inf b ∧ m ≠ 0) ∨ (p = .inf a ∧ q = .inf b) →
      f.fma rm np p q z = (f.infinity ((a != b) != np), 0) ∧ (∀ sig, f.fma rm np p q (.nan sig) = (f.nanBits, signals [.nan sig])) ∧
      f.fma rm np p q (.inf c) = if c = ((a != b) != np) then (f.infinity c, 0) else (f.nanBits, fIV))) ∧
  (∀ (f : Fmt) (mx : Bool) (p q : Nat), let x := f.val p
    let y := f.val q
    (x.isNan = true ∨ y.isNan = true → f.minmax mx p q = (f.nanBits, signals [x, y])) ∧
    (x.isNan = false → y.isNan = false →
      (f.minmax mx p q = (p, 0) ∧ ¬ (if mx then Below x y else Below y x)) ∨ (f.minmax mx p q = (q, 0) ∧ ¬ (if mx then Below y x else Below x y)))) ∧
  (∀ f ∈ [F64, F32, F16, BF16], ∀ (rm : Rnd) (p : Nat) (k : Int), match f.val p with
    | .nan sig => f.ldexp rm (f.val p) k = (f.nanBits, signals [.nan sig])
    | .inf neg => f.ldexp rm (f.val p) k = (f.infinity neg, 0)
    | .fin neg m e => (m = 0 → f.ldexp rm (f.val p) k = (f.zero neg, 0)) ∧
        (m ≠ 0 → Rounds f (.std rm) neg (m * 2 ^ (e + k)) (f.ldexp rm (f.val p) k))) ∧
  (∀ f ∈ [F64, F32], ∀ (rm : Rnd) (inv : Bool) (a sc : FVal) (n : Bool) (m k : Nat) (e h : Int),
    (a.isNan = true ∨ sc.isNan = true → bscale f rm inv a sc = (f.nanBits, signals [a])) ∧
    (bscale f rm false (.inf n) (.fin false k h) = if k = 0 then (f.nanBits, fIV) else (f.infinity n, 0)) ∧
    (bscale f rm true (.inf n) (.fin false k h) = (f.infinity n, 0)) ∧
    (m = 0 ∨ k = 0 → bscale f rm false (.fin n m e) (.fin false k h) = (f.zero n, 0)) ∧
    (m ≠ 0 → k ≠ 0 → Rounds f (.std rm) n (m * k * 2 ^ (e + h)) (bscale f rm false (.fin n m e) (.fin false k h)) ∧
      Rounds f (.std rm) n (m / k * 2 ^ (e - h)) (bscale f rm true (.fin n m e) (.fin false k h))) ∧
    (k = 0 → bscale f rm true (.fin n m e) (.fin false k h) = if m = 0 then (f.nanBits, fIV) else (f.infinity n, fDZ)) ∧
    (k ≠ 0 → m = 0 → bscale f rm true (.fin n m e) (.fin false k h) = (f.zero n, 0))) ∧
  (∀ c ∈ floatTypes, ∀ (md : RMode) (v : FVal) (p : Nat), CType.convert c.1 md v = c.2.1.ofVal md v ∧ CType.value c.1 p = c.2.1.val (p % 2 ^ c.2.2)) ∧
  (∀ c ∈ intTypes, ∀ (md : RMode) (v : FVal) (p : Nat), let r := toIntType c.2.1 c.2.2 md v
    CType.convert c.1 md v = (if c.2.1 = true ∧ c.2.2 < 32 then wrap 32 (sext c.2.2 r.1) else r.1, r.2) ∧
    rational (CType.value c.1 p) = readInt c.2.1 c.2.2 p) ∧
  (∀ (f : Fmt) (md : RMode) (neg sig sg : Bool) (w : Nat),
    f.ofVal md (.nan sig) = (f.nanBits, signals [.nan sig]) ∧ f.ofVal md (.inf neg) = (if f.kind = .ieee then (f.infinity neg, 0) else (f.nanBits, fIV)) ∧
    toIntType sg w md (.nan sig) = (0, fIV) ∧ toIntType sg w md (.inf neg) = (wrap w (if neg then intMin sg w else intMax sg w), fIV)) ∧
  (∀ (f : Fmt) (rm : Rnd) (np : Bool) (x y z : FVal), x.isNan = true ∨ y.isNan = true →
    f.add rm x y = (f.nanBits, signals [x, y]) ∧ f.mul rm x y = (f.nanBits, signals [x, y]) ∧ f.div (.std rm) x y = (f.nanBits, signals [x, y]) ∧
    f.fma rm np x y z = (f.nanBits, signals [x, y, z])) ∧
  ([F64, F32, F16, BF16, E4M3, E5M2, E5M3].map Fmt.nanBits = [0x7FF8000000000000, 0x7FC00000, 0x7E00, 0x7FC0, 0x7F, 0x7E, 0xFF]) ∧
  (∀ (sg : Bool), ∀ w ∈ [8, 16, 32, 64], ∀ (md : RMode) (neg : Bool) (m : Nat) (e : Int), ∃ (lo hi : Rat) (n : Nat),
    Around (fun y => ∃ k : Nat, y = k) (m * 2 ^ e) lo hi ∧ RoundedTo md neg (fun y => ∃ k : Nat, y = 2 * k) (m * 2 ^ e) lo hi n ∧
    let i : Int := if neg then -n else n
    toIntType sg w md (.fin neg m e) =
      if i < intMin sg w then (wrap w (intMin sg w), fIV) else if intMax sg w < i then (wrap w (intMax sg w), fIV)
      else (wrap w i, if (n : Rat) = m * 2 ^ e then 0 else fNX))

namespace Sys2Proof.Slice0

/-- A finite term of a sum as a rational number. -/
def termValue : Term → Rat
  | .fin neg m e => (if neg then -1 else 1) * m * 2 ^ e
  | _ => 0

/-- The exact total of terms. -/
def total (ts : List (Term × Nat)) : Rat := (ts.map fun t => termValue t.1).foldl (· + ·) 0

end Sys2Proof.Slice0

/-- 05 R110, R111; 22 R384: the sums that nodes of the lane trees and elements of a tile round. The exact total of all terms is rounded once into
the format, with the flags of that rounding and of its terms: a total of zero is +0 in every mode, and −0 only where each of one or more terms is
−0. A NaN term, or infinities of both signs, give NaN, the latter with IV; else an infinite term gives that infinity. The terms of products are the
exact products, NaN with IV for 0 · ∞; a signalling NaN sets IV. A node of a tree combines its two children by such a sum, by FMIN or FMAX, or in
integers, which wrap. -/
def Sys2Proof.Slice0.ExactSums : Prop :=
  (∀ f ∈ [F64, F32], ∀ (rm : Rnd) (ts : List (Term × Nat)),
    let terms := ts.map (·.1)
    let fl := (ts.map (·.2)).foldl (· ||| ·) 0
    let clash := Term.inf false ∈ terms ∧ Term.inf true ∈ terms
    let minus := terms ≠ [] ∧ ∀ t ∈ terms, ∃ e, t = .fin true 0 e
    (Term.nan ∈ terms ∨ clash → f.sum rm ts = (f.nanBits, if clash then fl ||| fIV else fl)) ∧
    (∀ neg, Term.nan ∉ terms → Term.inf neg ∈ terms → Term.inf (!neg) ∉ terms → f.sum rm ts = (f.infinity neg, fl)) ∧
    ((∀ t ∈ terms, ∃ n m e, t = .fin n m e) →
      (total ts = 0 → minus → f.sum rm ts = (f.zero true, fl)) ∧
      (total ts = 0 → ¬ minus → f.sum rm ts = (f.zero false, fl)) ∧
      (total ts ≠ 0 → ∃ x, Rounds f (.std rm) (decide (total ts < 0)) (magnitude (total ts)) x ∧ f.sum rm ts = (x.1, x.2 ||| fl)))) ∧
  (∀ (x y : FVal) (a b : Bool) (m n : Nat) (e g : Int),
    (x.isNan = true ∨ y.isNan = true → prodTerm x y = (.nan, signals [x, y])) ∧
    (∃ k h, prodTerm (.fin a m e) (.fin b n g) = (.fin (a != b) k h, 0) ∧
      termValue (.fin (a != b) k h) = rational (.fin a m e) * rational (.fin b n g)) ∧
    prodTerm (.inf a) (.fin b n g) = (if n = 0 then (.nan, fIV) else (.inf (a != b), 0)) ∧
    prodTerm (.fin b n g) (.inf a) = (if n = 0 then (.nan, fIV) else (.inf (a != b), 0)) ∧
    prodTerm (.inf a) (.inf b) = (.inf (a != b), 0) ∧
    (x.isNan = true → x.term = (.nan, signals [x])) ∧ FVal.term (.inf a) = (.inf a, 0) ∧ FVal.term (.fin a m e) = (.fin a m e, 0)) ∧
  (∀ (t : RType) (rm : Rnd) (x y : Nat),
    (RType.isFloat t = true → let f := RType.fmt t
      combine t rm .add x y = f.sum rm [(f.val x).term, (f.val y).term] ∧
      combine t rm .min x y = f.minmax false x y ∧ combine t rm .max x y = f.minmax true x y) ∧
    (RType.isFloat t = false →
      let v := readInt (RType.signed t) (RType.w t)
      combine t rm .add x y = (((v x + v y).emod (2 ^ RType.w t)).toNat, 0) ∧
      (∃ z, combine t rm .min x y = (z, 0) ∧ (z = x ∨ z = y) ∧ v z ≤ v x ∧ v z ≤ v y) ∧
      ∃ z, combine t rm .max x y = (z, 0) ∧ (z = x ∨ z = y) ∧ v x ≤ v z ∧ v y ≤ v z))

/-! ## Predicates, comparisons, and results of their own shape -/

namespace Sys2Proof.Slice0

/-- The guard, P[D] and the new bit of a lane, of the instructions that write one predicate in the active lanes. -/
def predicateRow : Instr → Option (Guard × PReg × (State → Nat → Bool))
  | .icmp g t c d a b => some (g, d, fun s l =>
      let x := readInt (SType.signed t) (SType.w t) (src t.dbl a s l)
      let y := readInt (SType.signed t) (SType.w t) (src t.dbl b s l)
      match c with
      | .eq => decide (x = y) | .ne => decide (x ≠ y) | .lt => decide (x < y) | .le => decide (x ≤ y)
      | .gt => decide (x > y) | .ge => decide (x ≥ y))
  | .pand g na nb d a b => some (g, d, fun s l => ((s.grp.P a.val).getLsbD l != na) && ((s.grp.P b.val).getLsbD l != nb))
  | .por g na nb d a b => some (g, d, fun s l => ((s.grp.P a.val).getLsbD l != na) || ((s.grp.P b.val).getLsbD l != nb))
  | .pxor g na nb d a b => some (g, d, fun s l => ((s.grp.P a.val).getLsbD l != na) ^^ ((s.grp.P b.val).getLsbD l != nb))
  | .vote g (.any d) inv p => some (g, d, fun s _ => (List.range 32).any fun l => (s.lanes g).getLsbD l && ((s.grp.P p.val).getLsbD l != inv))
  | .vote g (.all d) inv p => some (g, d, fun s _ => (List.range 32).all fun l => !(s.lanes g).getLsbD l || ((s.grp.P p.val).getLsbD l != inv))
  | .vote g (.eq d) inv p => some (g, d, fun s _ =>
      ((List.range 32).all fun l => !(s.lanes g).getLsbD l || ((s.grp.P p.val).getLsbD l != inv)) ||
      ((List.range 32).all fun l => !(s.lanes g).getLsbD l || ((s.grp.P p.val).getLsbD l == inv)))
  | _ => none

/-- P[D] takes a bit in the lanes of a mask, P15 none; all other bits of predicates stay. -/
def WritesBits (act : W32) (d : PReg) (f : Nat → Bool) (s t : State) : Prop :=
  ∀ q l, l < 32 → (t.grp.P q).getLsbD l = if q = d.val ∧ q ≠ 15 ∧ act.getLsbD l = true then f l else (s.grp.P q).getLsbD l

end Sys2Proof.Slice0

/-- 21 R359, 22 R381, 23 R429: ICMP, PAND, POR, PXOR and VOTE.any, .all, .eq write one predicate in the active lanes. -/
def Sys2Proof.Slice0.PredicateResults : Prop :=
  ∀ (i : Instr) (g : Guard) (d : PReg) (f : State → Nat → Bool), predicateRow i = some (g, d, f) →
    ∀ s : State, g.isNever = false → Clear i s →
    ∃ t m, exec i s = .next t ∧ t = issued (s.lanes g) { s with grp := { s.grp with p := m } } ∧
      WritesBits (s.lanes g) d (f s) s t ∧ SameMemory s t

/-- 21 R338: FCMP writes the outcome of the comparison in the active lanes of P[D] and accumulates IV: for a signalling operand, and for
the four order conditions for any NaN. -/
def Sys2Proof.Slice0.FloatCompare : Prop :=
  ∀ (g : Guard) (ty : FType) (c : FCond) (d : PReg) (a b : VSrc) (s : State), g.isNever = false → Clear (.fcmp g ty c d a b) s →
    let x := fun l => (FType.fmt ty).val (src ty.dbl a s l % 2 ^ FType.w ty)
    let y := fun l => (FType.fmt ty).val (src ty.dbl b s l % 2 ^ FType.w ty)
    ∃ t m f, exec (.fcmp g ty c d a b) s = .next t ∧
      t = issued (s.lanes g) { s with grp := { s.grp with p := m, fpcr := f } } ∧
      WritesBits (s.lanes g) d (fun l => match FVal.cmp (x l) (y l), c with
        | some .lt, .lt | some .lt, .le | some .lt, .ne | some .lt, .ord => true
        | some .eq, .eq | some .eq, .le | some .eq, .ge | some .eq, .ord => true
        | some .gt, .gt | some .gt, .ge | some .gt, .ne | some .gt, .ord => true
        | none, .un | none, .ne => true
        | _, _ => false) s t ∧
      (∀ k, k < 5 → (t.grp.fpcr.getLsbD k = true ↔ s.grp.fpcr.getLsbD k = true ∨ (k = 4 ∧ ∃ l, l < 32 ∧ (s.lanes g).getLsbD l = true ∧
        (x l = .nan true ∨ y l = .nan true ∨ ((c = .lt ∨ c = .le ∨ c = .gt ∨ c = .ge) ∧ ((x l).isNan = true ∨ (y l).isNan = true)))))) ∧
      SameMemory s t

/-- 23 R426: V2S reads the lowest-numbered active lane into S[D]; with none, S[D] stays. -/
def Sys2Proof.Slice0.LaneToScalar : Prop :=
  ∀ (g : Guard) (m : V2SMode) (d : SLow) (a : VReg) (s : State), g.isNever = false → Clear (.v2s g m d a) s →
    ∃ t n, exec (.v2s g m d a) s = .next t ∧ t = issued (s.lanes g) { s with grp := { s.grp with s := n } } ∧
      (∀ q, q ≠ d.val → t.grp.S q = s.grp.S q) ∧
      (s.lanes g = 0 → t.grp.S d.val = s.grp.S d.val) ∧
      (∀ l, l < 32 → (s.lanes g).getLsbD l = true → (∀ k, k < l → (s.lanes g).getLsbD k = false) →
        t.grp.S d.val = match m with
          | .zx => (s.grp.V a.val l).setWidth 64 | .sx => (s.grp.V a.val l).signExtend 64
          | .d => ((s.grp.V (a.val + 1) l ++ s.grp.V a.val l : W64))) ∧
      SameMemory s t

/-- 22 R380: UNPACKP moves bits 0 to 7 of V[A] into P0 to P7, or P8 to P15, in the active lanes; P15 takes no bit. -/
def Sys2Proof.Slice0.UnpackPredicates : Prop :=
  ∀ (g : Guard) (hi : Bool) (a : VReg) (s : State), g.isNever = false → Clear (.unpackp g hi a) s →
    ∃ t m, exec (.unpackp g hi a) s = .next t ∧ t = issued (s.lanes g) { s with grp := { s.grp with p := m } } ∧
      (∀ q l, l < 32 → (t.grp.P q).getLsbD l = if q / 8 = (if hi then 1 else 0) ∧ q ≠ 15 ∧ (s.lanes g).getLsbD l = true then
          (s.grp.V a.val l).getLsbD (q % 8) else (s.grp.P q).getLsbD l) ∧
      SameMemory s t

/-- 22 R374: LXDEC writes the eight weights of an LX2 index, times the scale, in eight registers as F32 or in four as pairs of BF16. -/
def Sys2Proof.Slice0.WeightDecode : Prop :=
  ∀ (g : Guard) (sc : Option (VSrc × Fin 4)) (bf : Bool) (d : VReg) (a : VSrc) (s : State), g.isNever = false → Clear (.lxdec g sc bf d a) s →
    let v := fun l => (lx2Weights (src false a s l)).map fun w => ((if bf then BF16 else F32).ofVal (.std .rne) (scaledElem w (match sc with
      | none => FVal.fin false 1 0
      | some (b, n) => E5M3.val (src false b s l / 2 ^ (8 * n.val) % 2 ^ 8)))).1
    ∃ t m, exec (.lxdec g sc bf d a) s = .next t ∧ t = issued (s.lanes g) { s with grp := { s.grp with v := m } } ∧
      (∀ q l, l < 32 → t.grp.V q l =
        if (s.lanes g).getLsbD l = true ∧ d.val ≤ q ∧ q < d.val + (if bf then 4 else 8) then
          BitVec.ofNat 32 (if bf then (v l).getD (2 * (q - d.val)) 0 + (v l).getD (2 * (q - d.val) + 1) 0 * 2 ^ 16 else (v l).getD (q - d.val) 0)
        else s.grp.V q l) ∧
      SameMemory s t

/-- 22 R386, 05 R114, R115: RAND writes the mixed number of the lane's point, or of its role, group and lane where it carries none, in the
active lanes of D, and DCNT counts once. -/
def Sys2Proof.Slice0.RandomResult : Prop :=
  ∀ (g : Guard) (d : VReg) (s : State), g.isNever = false → Clear (.rand g d) s →
    let mix := fun v : W64 =>
      let a := v ^^^ (v >>> 31)
      let b := a * 0xA3B195E54C6F2D8B#64
      let c := b ^^^ (b >>> 29)
      let e := c * 0x5D2FE1C739B84A67#64
      e ^^^ (e >>> 32)
    ∃ t m, exec (.rand g d) s = .next t ∧ t = issued (s.lanes g) { s with grp := { s.grp with v := m, dcnt := s.grp.dcnt + 1 } } ∧
      (∀ q l, l < 32 → t.grp.V q l = if (s.lanes g).getLsbD l = true ∧ q = d.val then
          let carries := match s.grp.pointGroup with
            | some k => decide (32 * k + l < s.team.piece.ex * s.team.piece.ey)
            | none => false
          let w0 := coordinate .x s l + coordinate .y s l * 2 ^ 32
          let w1 := coordinate .z s l + s.grp.dcnt.toNat * 2 ^ 32
          let w2 := if carries then 0 else 2 ^ 63 + s.grp.role * 2 ^ 10 + s.grp.gid * 2 ^ 5 + l
          let h := mix (mix (mix (s.team.seed ^^^ BitVec.ofNat 64 w0) ^^^ BitVec.ofNat 64 w1) ^^^ BitVec.ofNat 64 w2)
          (h >>> 32).setWidth 32 ^^^ h.setWidth 32
        else s.grp.V q l) ∧
      SameMemory s t

/-! ## Long-latency arithmetic (03 R55 to R61, Table 3-2; 21 Table 21-2) -/

namespace Sys2Proof.Slice0

/-- The state in which the group has one more instruction to complete, last in the core's order; it keeps GCNT of its issue (09 R175) and
what happens before it (13 R228). -/
def posted (p : Pend) (s : State) : State :=
  { s with core := { s.core with seq := s.core.seq + 1 },
           grp := { s.grp with pend := s.grp.pend ++ [{ p with gcnt := s.team.gcnt, know := s.grp.know }] } }

/-- What a long-latency arithmetic instruction leaves to complete: its window of LA + 1 instructions, shut for a replay (03 R57, R61), and
the registers that a later instruction must wait for (03 R59). -/
def toComplete (opc : Nat) (la : Fin 16) (i : Instr) (res : Results) (s : State) : Pend :=
  { seq := s.core.seq, opc := opc, base := s.grp.base, slot := s.grp.pslot, count := none, window := true,
    left := if s.grp.replay.isSome then 0 else la.val + 1, reads := (Instr.uses i).allReads,
    writes := (Instr.uses i).allWrites ++ (if (Instr.uses i).acc then [kAcc] else []), stamp := 0, nud := 0, kind := .arith res }

/-- The quotient of 21 R360. -/
def quotient (sg : Bool) (w : Nat) (x y : Int) : Int :=
  if y = 0 then (if sg then -1 else (2 : Int) ^ w - 1) else Int.tdiv x y

/-- A node of the tree of 05 R111 over the active lanes: level, index. -/
def treeNode (t : RType) (rm : Rnd) (op : ROp) (leaf : Nat → Option Nat) : Nat → Nat → Option Nat
  | 0, j => leaf j
  | k + 1, j =>
    match treeNode t rm op leaf k (2 * j), treeNode t rm op leaf k (2 * j + 1) with
    | some x, some y => some (combine t rm op x y).1
    | some x, none => some x
    | none, y => y

/-- The flags of combining two nodes: none where one is absent. -/
def joinFlags (t : RType) (rm : Rnd) (op : ROp) : Option Nat → Option Nat → Nat
  | some x, some y => (combine t rm op x y).2
  | _, _ => 0

/-- The flags of all nodes of levels 1 to 5. -/
def treeFlags (t : RType) (rm : Rnd) (op : ROp) (leaf : Nat → Option Nat) (b : Nat) : Prop :=
  ∃ k j, k < 5 ∧ j < 2 ^ (4 - k) ∧
    (joinFlags t rm op (treeNode t rm op leaf k (2 * j)) (treeNode t rm op leaf k (2 * j + 1))).testBit b = true

/-- The prefix over the first n lanes from the blocks of its d highest places (05 R112), and the flags of joining them. -/
def prefixNode (t : RType) (rm : Rnd) (op : ROp) (leaf : Nat → Option Nat) (n : Nat) : Nat → Option Nat
  | 0 => none
  | d + 1 =>
    let k := 5 - d
    let acc := prefixNode t rm op leaf n d
    if n.testBit k then
      match acc, treeNode t rm op leaf k (n / 2 ^ k - 1) with
      | some x, some y => some (combine t rm op x y).1
      | some x, none => some x
      | none, y => y
    else acc

def prefixFlags (t : RType) (rm : Rnd) (op : ROp) (leaf : Nat → Option Nat) (n b : Nat) : Prop :=
  ∃ d, d < 6 ∧ n.testBit (5 - d) = true ∧
    (joinFlags t rm op (prefixNode t rm op leaf n d) (treeNode t rm op leaf (5 - d) (n / 2 ^ (5 - d) - 1))).testBit b = true

/-- The active lanes of V[A] as leaves. -/
def leafOf (t : RType) (a : VReg) (act : W32) (s : State) (l : Nat) : Option Nat :=
  if act.getLsbD l then some (src t.dbl (.v a) s l) else none

/-- Opcode, LA and result of the vector instructions whose results are written when they complete. -/
def longRow : Instr → Option (Nat × Fin 16 × LaneRow)
  | .idiv g la t sat d a b => some (0x2D, la, intRow g (SType.vec t) sat d fun s l e =>
      quotient (SType.signed t) (SType.w t) (num (SType.vec t) a s l e) (num (SType.vec t) b s l e))
  | .irem g la t d a b => some (0x2D, la, intRow g (SType.vec t) false d fun s l e =>
      let x := num (SType.vec t) a s l e
      let y := num (SType.vec t) b s l e
      if y = 0 then x else x - Int.tdiv x y * y)
  | .frcp g la t rm d a => some (0x46, la, fltRow g t d fun s l e => (FType.fmt t).div (.std rm) (.fin false 1 0) (fval t a s l e))
  | .frsq g la t rm d a => some (0x46, la, fltRow g t d fun s l e => (FType.fmt t).rsqrt rm (fval t a s l e))
  | .fsqrt g la t rm d a => some (0x47, la, fltRow g t d fun s l e => (FType.fmt t).sqrt rm (fval t a s l e))
  | .fdiv g la t rm d a b => some (0x48, la, fltRow g t d fun s l e => (FType.fmt t).div (.std rm) (fval t a s l e) (fval t b s l e))
  | .fex2 g la t rm d a => some (0x49, la, fltRow g t d fun s l e => (FType.fmt t).exp2 rm (fval t a s l e))
  | .flg2 g la t rm d a => some (0x49, la, fltRow g t d fun s l e => (FType.fmt t).log2 rm (fval t a s l e))
  | .fsin g la t rm d a => some (0x4A, la, fltRow g t d fun s l e => (FType.fmt t).sinPi rm false (fval t a s l e))
  | .fcos g la t rm d a => some (0x4A, la, fltRow g t d fun s l e => (FType.fmt t).sinPi rm true (fval t a s l e))
  | _ => none

/-- A group g after results that were computed in the state s: the active lanes of D hold them, its other V registers are as in h, FPCR has
accumulated their flags, and nothing else differs from h. -/
def HoldsLanes (r : LaneRow) (flag : Nat → Prop) (s : State) (h g : Group) : Prop :=
  (∃ m f, g = { h with v := m, fpcr := f }) ∧
  (∀ l, l < 32 → (s.lanes r.g).getLsbD l = true →
    g.srcNat r.dbl l (.v r.d) < 2 ^ (r.w * r.n) ∧
    ∀ e, e < r.n → g.srcNat r.dbl l (.v r.d) / 2 ^ (r.w * e) % 2 ^ r.w = r.val s l e % 2 ^ r.w) ∧
  (∀ q l, l < 32 → ((s.lanes r.g).getLsbD l = false ∨ (q ≠ r.d.val ∧ (r.dbl = false ∨ q ≠ r.d.val + 1))) → g.V q l = h.V q l) ∧
  (∀ b, b < 5 → (g.fpcr.getLsbD b = true ↔ h.fpcr.getLsbD b = true ∨ flag b))

/-- An instruction issues with no active lane, and is complete; or it issues and leaves its results to be written, whatever the group's
registers hold by then. -/
def PostsLanes (opc : Nat) (la : Fin 16) (r : LaneRow) (flag : Nat → Prop) (i : Instr) (s : State) : Prop :=
  (s.lanes r.g = 0 → exec i s = .next (issued 0#32 s)) ∧
  (s.lanes r.g ≠ 0 → ∃ res, exec i s = .next (issued (s.lanes r.g) (posted (toComplete opc la i res s) s)) ∧
    ∀ h : Group, HoldsLanes r flag s h (h.apply res))

end Sys2Proof.Slice0

/-- 21 R339 to R341, R346, R347, R360, Table 21-2: the division, root, exponential, logarithm and sine instructions issue, and leave the
results of the active lanes and their flags to be written when they complete. What FEX2, FLG2, FSIN and FCOS round beside their exact values is
the model's fixed-point bracket of the function, whose precision is PRESUMED to decide every rounding (log entry 20). -/
def Sys2Proof.Slice0.LongLatencyIssue : Prop :=
  ∀ (i : Instr) (opc : Nat) (la : Fin 16) (r : LaneRow), longRow i = some (opc, la, r) →
    ∀ s : State, r.g.isNever = false → Clear i s →
    PostsLanes opc la r (fun b => ∃ l e, l < 32 ∧ e < r.n ∧ (s.lanes r.g).getLsbD l = true ∧ (r.flags s l e).testBit b = true) i s

namespace Sys2Proof.Slice0

/-- w stands among all values of t + 1 fraction bits, so among the values of a format of t bits and the midpoints between them, as the root does of
which `less z` says that z lies below it, and `same z` that z is it. -/
def StandsAs (t : Nat) (less same : Rat → Prop) (w : Rat) : Prop :=
  ∀ z, Grid (t + 1) none false z → (z < w ↔ less z) ∧ (z = w ↔ same z)

end Sys2Proof.Slice0

/-- 21 R346, R347, Tables 21-5 to 21-7: FSQRT and FRSQ are correctly rounded: their result is that of a value that stands among all that rounding
compares with as the root does. FEX2, FLG2, FSIN and FCOS have the exact values of the tables. -/
def Sys2Proof.Slice0.RootsAndSpecialValues : Prop :=
  (∀ f ∈ [F64, F32, F16, BF16], ∀ (rm : Rnd) (neg sig : Bool) (m : Nat) (e : Int),
    f.sqrt rm (.nan sig) = (f.nanBits, signals [.nan sig]) ∧ f.rsqrt rm (.nan sig) = (f.nanBits, signals [.nan sig]) ∧
    f.sqrt rm (.inf neg) = (if neg then (f.nanBits, fIV) else (f.infinity false, 0)) ∧
    f.rsqrt rm (.inf neg) = (if neg then (f.nanBits, fIV) else (f.zero false, 0)) ∧
    (m = 0 → f.sqrt rm (.fin neg m e) = (f.zero neg, 0) ∧ f.rsqrt rm (.fin neg m e) = (f.infinity neg, fDZ)) ∧
    (m ≠ 0 → f.sqrt rm (.fin true m e) = (f.nanBits, fIV) ∧ f.rsqrt rm (.fin true m e) = (f.nanBits, fIV)) ∧
    (m ≠ 0 → (∃ w, StandsAs f.t (fun z => z * z < m * 2 ^ e) (fun z => z * z = m * 2 ^ e) w ∧ Rounds f (.std rm) false w (f.sqrt rm (.fin false m e))) ∧
      ∃ w, StandsAs f.t (fun z => z * z * (m * 2 ^ e) < 1) (fun z => z * z * (m * 2 ^ e) = 1) w ∧
        Rounds f (.std rm) false w (f.rsqrt rm (.fin false m e)))) ∧
  (∀ f ∈ [F32, F16, BF16], ∀ (rm : Rnd) (cos sig inf : Bool),
    f.exp2 rm (.nan sig) = (f.nanBits, signals [.nan sig]) ∧ f.log2 rm (.nan sig) = (f.nanBits, signals [.nan sig]) ∧
    f.sinPi rm cos (.nan sig) = (f.nanBits, signals [.nan sig]) ∧ f.sinPi rm cos (.inf inf) = (f.nanBits, fIV) ∧
    f.exp2 rm (.inf inf) = (if inf then f.zero false else f.infinity false, 0) ∧
    f.log2 rm (.inf inf) = (if inf then (f.nanBits, fIV) else (f.infinity false, 0)) ∧
    ∀ (p : Nat) (neg : Bool) (m : Nat) (e : Int), f.val p = .fin neg m e → let x := f.val p
      (m = 0 → Rounds f (.std rm) false 1 (f.exp2 rm x) ∧ f.log2 rm x = (f.infinity true, fDZ) ∧ f.sinPi rm false x = (f.zero neg, 0) ∧
        Rounds f (.std rm) false 1 (f.sinPi rm true x)) ∧
      (m ≠ 0 → neg = true → f.log2 rm x = (f.nanBits, fIV)) ∧
      (∀ k : Int, rational x = 2 ^ k → if k = 0 then f.log2 rm x = (f.zero false, 0) else Rounds f (.std rm) (decide (k < 0)) (magnitude k) (f.log2 rm x)) ∧
      (∀ k : Int, rational x = k → Rounds f (.std rm) false (2 ^ k) (f.exp2 rm x) ∧
        (k ≠ 0 → f.sinPi rm false x = (f.zero neg, 0) ∧ Rounds f (.std rm) (decide (k % 2 = 1)) 1 (f.sinPi rm true x))) ∧
      ∀ k : Int, rational x = k + 1 / 2 → Rounds f (.std rm) (decide (k % 2 = 1)) 1 (f.sinPi rm false x) ∧ f.sinPi rm true x = (f.zero false, 0))

/-- 22 R383, R384, 05 R112: PFX gives each active lane the prefix over lanes 0 to l, from nodes of the fixed tree, with the flags of every
node and of every block addition. -/
def Sys2Proof.Slice0.PrefixIssue : Prop :=
  ∀ (g : Guard) (la : Fin 16) (t : RType) (rm : Rnd) (op : ROp) (d a : VReg) (s : State),
    g.isNever = false → Clear (.pfx g la t rm op d a) s →
    let leaf := leafOf t a (s.lanes g) s
    PostsLanes 0x67 la (wordRow g t.dbl d fun _ l => (prefixNode t rm op leaf (l + 1) 6).getD 0)
      (fun b => treeFlags t rm op leaf b ∨ ∃ l, l < 32 ∧ (s.lanes g).getLsbD l = true ∧ prefixFlags t rm op leaf (l + 1) b)
      (.pfx g la t rm op d a) s

namespace Sys2Proof.Slice0

/-- The scalar results that are written when an instruction completes: S[D] holds x, FPCR has accumulated the flags. -/
def HoldsScalar (d : Nat) (x : W64) (flag : Nat → Prop) (h g : Group) : Prop :=
  (∃ m f, g = { h with s := m, fpcr := f }) ∧ (∀ q, g.S q = if q = d then x else h.S q) ∧
  (∀ b, b < 5 → (g.fpcr.getLsbD b = true ↔ h.fpcr.getLsbD b = true ∨ flag b))

end Sys2Proof.Slice0

/-- 22 R388, 05 R111: REDUX leaves the root of the tree over the active lanes, or the identity of the operation, to be written to S[D]. -/
def Sys2Proof.Slice0.ReductionIssue : Prop :=
  ∀ (g : Guard) (la : Fin 16) (t : RType) (rm : Rnd) (op : ROp) (d : SLow) (a : VReg) (s : State),
    g.isNever = false → Clear (.redux g la t rm op d a) s →
    let leaf := leafOf t a (s.lanes g) s
    let root := (treeNode t rm op leaf 5 0).getD (match op, t with
      | .add, _ => 0
      | .min, .f64 => 0x7FF0000000000000 | .max, .f64 => 0xFFF0000000000000
      | .min, .f32 => 0x7F800000 | .max, .f32 => 0xFF800000
      | .min, .i64 => 0x7FFFFFFFFFFFFFFF | .max, .i64 => 0x8000000000000000
      | .min, .i32 => 0x7FFFFFFF | .max, .i32 => 0x80000000
      | .min, .n64 => 0xFFFFFFFFFFFFFFFF | .max, .n64 => 0
      | .min, .n32 => 0xFFFFFFFF | .max, .n32 => 0)
    ∃ res, exec (.redux g la t rm op d a) s =
        .next (issued (s.lanes g) (posted (toComplete 0x66 la (.redux g la t rm op d a) res s) s)) ∧
      ∀ h : Group, HoldsScalar d.val (if t = .i32 then (BitVec.ofNat 32 root).signExtend 64 else BitVec.ofNat 64 root)
        (treeFlags t rm op leaf) h (h.apply res)

/-- 23 R407, 21 R360: SDIV and SREM leave the quotient truncated toward zero, or the remainder, to be written to S[D]. -/
def Sys2Proof.Slice0.ScalarDivisionIssue : Prop :=
  ∀ (la : Fin 16) (t : SType) (sat : Bool) (d a b : SReg) (s : State),
    (Clear (.sdiv la t sat d a b) s → ∃ res, exec (.sdiv la t sat d a b) s =
        .next (issued s.grp.xm (posted (toComplete 0x15 la (.sdiv la t sat d a b) res s) s)) ∧
      ∀ h : Group, HoldsScalar d.val (SType.result t sat (quotient (SType.signed t) (SType.w t) (sval t a s) (sval t b s)))
        (fun _ => False) h (h.apply res)) ∧
    (Clear (.srem la t d a b) s → ∃ res, exec (.srem la t d a b) s =
        .next (issued s.grp.xm (posted (toComplete 0x15 la (.srem la t d a b) res s) s)) ∧
      ∀ h : Group, HoldsScalar d.val
        (SType.result t false (if sval t b s = 0 then sval t a s else sval t a s - Int.tdiv (sval t a s) (sval t b s) * sval t b s))
        (fun _ => False) h (h.apply res))

/-! ## Control (04 R80 to R88; 20 to 23) -/

namespace Sys2Proof.Slice0

/-- The counts of issue without a move to the next position. -/
def counted (act : W32) (s : State) : State :=
  { s with
    core := { s.core with issued := s.core.issued + 1,
                          lastQuad := mapSet 0 s.core.lastQuad (s.grp.gid % 4) (1 + 32 * s.grp.slot + s.grp.gid) },
    team := if s.grp.replay.isNone then
        { s.team with icnt := s.team.icnt + 1, acnt := s.team.acnt + popcount 32 (act &&& s.pointLanes).toNat } else s.team,
    grp := { s.grp with pend := s.grp.pend.map fun p => { p with left := p.left - 1 }, held := false, replay := none,
                        gap := if s.grp.gap = .inHand then .before else .no } }

/-- A uniform guard acts: it holds in every active lane, or XM is zero and the guard is always (04 R80). -/
def Acts (g : Guard) (s : State) : Prop :=
  (s.grp.xm = 0 ∧ g = Guard.always) ∨ (s.grp.xm ≠ 0 ∧ s.grp.active g = s.grp.xm)

/-- It has no effect: it holds in no active lane, or XM is zero and the guard is another. -/
def Idle (g : Guard) (s : State) : Prop :=
  (s.grp.xm = 0 ∧ g ≠ Guard.always) ∨ (s.grp.xm ≠ 0 ∧ s.grp.active g = 0)

/-- The instructions with a uniform guard, with their opcodes. -/
def uniformRow : Instr → Option (Nat × Guard)
  | .bra g _ => some (0x01, g)
  | .join g => some (0x03, g)
  | .call g _ => some (0x04, g)
  | .callReg g _ => some (0x04, g)
  | .ret g _ => some (0x05, g)
  | .exit g => some (0x06, g)
  | .exitNext g _ => some (0x06, g)
  | .yield g _ _ => some (0x07, g)
  | .bkpt g => some (0x09, g)
  | _ => none

/-- The address that a displacement of w bits names, in units of 8 bytes from the instruction itself (03 R71). -/
def displaced (w off : Nat) (s : State) : Nat := (((s.grp.base + 8 + 8 * s.grp.pslot : Nat) : Int) + 8 * sext w off).emod (2 ^ 64) |>.toNat

/-- A control target passes the checks of 03 R71: canonical, 8-byte aligned, readable, a version-1 header; s' is s with what the fetch of
the header leaves. -/
def Lands (addr : Nat) (s s' : State) : Prop :=
  addr < 2 ^ 53 ∧ addr % 8 = 0 ∧ ∃ w, s.fetch addr = (.word w, s') ∧ w.toNat / 2 ^ 56 = 0xF8

/-- What the group leaves where it exits (20 R327, 04 R84, R86). -/
def leaving (k : ExitKind) (s : State) : State :=
  let t := counted s.grp.xm s
  { t with team := { t.team with exk := some k }, grp := { t.grp with susp := .exited, stack := [] } }

/-- No other member of the gang set is latched, and the exit kind is not against the team's (20 R327, 04 R86). -/
def MayExit (k : ExitKind) (s : State) : Prop := s.gangLatched = false ∧ (s.team.exk = none ∨ s.team.exk = some k)

end Sys2Proof.Slice0

/-- 22 R376, 23 Table: NOP issues and does nothing else. -/
def Sys2Proof.Slice0.NoOperation : Prop :=
  ∀ (g : Guard) (s : State), g.isNever = false → Clear (.nop g) s → exec (.nop g) s = .next (issued (s.lanes g) s)

/-- 04 R80: BRA, JOIN, CALL, RET, EXIT, YIELD and BKPT act only under a uniform guard: where it holds in no active lane they have no effect but
their issue, and where it holds in some lanes they take a divergence fault that leaves everything else as it is and records the lanes where the
guard holds, and XM. -/
def Sys2Proof.Slice0.UniformGuards : Prop :=
  ∀ (i : Instr) (opc : Nat) (g : Guard), uniformRow i = some (opc, g) → ∀ s : State, g.isNever = false → Clear i s →
    (Idle g s → exec i s = .next (issued (if opc = 0x03 then s.grp.xm else 0) s)) ∧
    (¬ Acts g s → ¬ Idle g s →
      exec i s = .next (s.takeFault opc { kind := 7, cause := 0, d0 := (s.grp.guardLanes g).setWidth 64, d1 := s.grp.xm }))

/-- 20 R311, R315, R316; 22 R389: BRA, CALL, CALL by register and RET go on at the clause that they name, and CALL writes the address of the
next slot to S1022. -/
def Sys2Proof.Slice0.Transfers : Prop :=
  ∀ (g : Guard) (s s' : State), g.isNever = false → Acts g s →
    (∀ off, Clear (.bra g off) s → Lands (displaced 29 off.toNat s) s s' →
      exec (.bra g off) s = .next (transferred s.grp.xm (displaced 29 off.toNat s) s')) ∧
    (∀ sl, Clear (.ret g sl) s → Lands (s.grp.S sl.val).toNat s s' →
      exec (.ret g sl) s = .next (transferred s.grp.xm (s.grp.S sl.val).toNat s')) ∧
    (∀ i addr, ((∃ off, i = .call g off ∧ addr = displaced 29 off.toNat s) ∨ (∃ sl, i = .callReg g sl ∧ addr = (s.grp.S sl.val).toNat)) →
      Clear i s → Lands addr s s' →
      ∃ t m, exec i s = .next t ∧ t = transferred s'.grp.xm addr { s' with grp := { s'.grp with s := m } } ∧
        ∀ q, t.grp.S q = if q = 1022 then BitVec.ofNat 64 (s'.grp.base + 16 + 8 * s'.grp.pslot) else s'.grp.S q)

/-- 03 R71: a control target that is not canonical takes a page fault of cause 2, one that is not 8-byte aligned or names no version-1 header a
control-target fault, at the instruction that names it.
Choices of the model: log entry 35. -/
def Sys2Proof.Slice0.ControlTargets : Prop :=
  ∀ (g : Guard) (i : Instr) (opc addr : Nat) (s : State), g.isNever = false → Acts g s → Clear i s →
    ((∃ off, i = .bra g off ∧ opc = 0x01 ∧ addr = displaced 29 off.toNat s) ∨ (∃ off, i = .call g off ∧ opc = 0x04 ∧ addr = displaced 29 off.toNat s) ∨
      (∃ sl, i = .callReg g sl ∧ opc = 0x04 ∧ addr = (s.grp.S sl.val).toNat) ∨ (∃ sl, i = .ret g sl ∧ opc = 0x05 ∧ addr = (s.grp.S sl.val).toNat) ∨
      ∃ b off, i = .yield g b off ∧ opc = 0x07 ∧ addr = displaced 29 off.toNat s) →
    (2 ^ 53 ≤ addr → exec i s = .next (s.park opc false 0xFFFFFFFF#32 none
      [{ kind := 1, cause := 2, va := addr, lane := 0, lanes := 0xFFFFFFFF#32 }])) ∧
    (addr < 2 ^ 53 → addr % 8 ≠ 0 → exec i s = .next (s.takeFault opc { kind := 5 })) ∧
    (∀ w s', addr < 2 ^ 53 → addr % 8 = 0 → s.fetch addr = (.word w, s') → w.toNat / 2 ^ 56 ≠ 0xF8 →
      exec i s = .next (s'.takeFault opc { kind := 5 }))

/-- What a fetch leaves (03 R73, 08 R151 to R157): the instruction cache, of 16,384 words, the TLB and accessed bits of leaf entries may change, and
at the word's home the page's count, the line's stamp and the fills; the group, its team and all other state stay. A miss asks the home of its line
from the core's die.
Choices of the model: log entries 12 and 64. -/
def Sys2Proof.Slice0.FetchKeeps : Prop :=
  ∀ (addr : Nat) (s s' : State) (x : Fetched), s.fetch addr = (x, s') →
    (∃ n l m tl ac rl fl, s' = { s with core := { s.core with icache := s.core.icache.drop n ++ l }, mem := m, tlb := tl, access := ac,
                                        rlines := rl, fills := fl }) ∧
    (s.core.icache.length ≤ 16384 → s'.core.icache.length ≤ 16384) ∧
    (∀ w, s.core.cached? s.team.ctx addr = some w → s' = s ∧ x = .word w) ∧
    (∀ a, s.core.cached? s.team.ctx addr = none → s.laneX s.cluster s.team.ctx .x 0 addr = .ok a → s.bad a.key = false → a.key < 2 ^ 39 →
      mapGet 0 s'.access (accessKey a.key (s.core.id / 48)) = mapGet 0 s.access (accessKey a.key (s.core.id / 48)) + 1 ∧
      (a.leaf.cp ≠ 3 → s'.findLine? (homeUnit a.key) a.key ≠ none ∨ ∃ f ∈ s'.fills, f.unit = homeUnit a.key ∧ f.req.key / 128 = a.key / 128)) ∧
    (s.mem.wf = true → s'.mem.wf = true)

/-- 04 R81, 20 R312: BRD pushes its entry; the lanes that its guard takes go to the target, and the rest wait; with none taken the group goes
on. With 32 entries it takes a reconvergence-overflow fault. -/
def Sys2Proof.Slice0.Divergence : Prop :=
  ∀ (g : Guard) (toff joff : BitVec 22) (s : State), g.isNever = false → s.holds (.brd g toff joff) = false →
    let target := displaced 22 toff.toNat s
    let point := displaced 22 joff.toNat s
    let taken := s.grp.active g
    (∀ s1 s2, Lands target s s1 → Lands point s1 s2 →
      let after := s2.grp.nextPos
      let entry := fun rest => (⟨point, s.grp.xm, rest, after.1, after.2, if after.1 = s2.grp.base then s2.grp.hdr else none⟩ : RecEntry)
      (s2.grp.stack.length < 32 → taken = 0 →
        exec (.brd g toff joff) s = .next (issued 0 { s2 with grp := { s2.grp with stack := entry 0 :: s2.grp.stack } })) ∧
      (s2.grp.stack.length < 32 → taken ≠ 0 →
        exec (.brd g toff joff) s = .next (transferred taken target
          { s2 with grp := { s2.grp with xm := taken, stack := entry (s.grp.xm &&& ~~~taken) :: s2.grp.stack } })) ∧
      (32 ≤ s2.grp.stack.length → exec (.brd g toff joff) s = .next (s2.takeFault 0x02 { kind := 8 }))) ∧
    (∀ w s1, target < 2 ^ 53 → target % 8 = 0 → s.fetch target = (.word w, s1) → w.toNat / 2 ^ 56 ≠ 0xF8 →
      exec (.brd g toff joff) s = .next (s1.takeFault 0x02 { kind := 5 })) ∧
    (∀ w s1 s2, Lands target s s1 → point < 2 ^ 53 → point % 8 = 0 → s1.fetch point = (.word w, s2) → w.toNat / 2 ^ 56 ≠ 0xF8 →
      exec (.brd g toff joff) s = .next (s2.takeFault 0x02 { kind := 5 }))

/-- 04 R82, 03 R56: JOIN switches to the pending lanes of the top entry, which is a wait point, or restores its entry mask and pops it; with no entry
for its clause it takes a divergence fault. -/
def Sys2Proof.Slice0.Reconvergence : Prop :=
  ∀ (g : Guard) (s : State), g.isNever = false → Acts g s → s.holds (.join g) = false →
    (∀ top rest, s.grp.stack = top :: rest → s.grp.base = top.join → top.pending ≠ 0 →
      exec (.join g) s = .next (let t := counted s.grp.xm s;
        { t with grp := { t.grp with xm := top.pending, stack := { top with pending := 0 } :: rest, base := top.base, pslot := top.slot,
                                     hdr := top.hdr, enter := false, gap := .before } })) ∧
    (∀ top rest, s.grp.stack = top :: rest → s.grp.base = top.join → top.pending = 0 →
      exec (.join g) s = .next (issued s.grp.xm { s with grp := { s.grp with xm := top.entry, stack := rest } })) ∧
    ((∀ top rest, s.grp.stack = top :: rest → s.grp.base ≠ top.join) →
      exec (.join g) s = .next (s.takeFault 0x03 { kind := 7, cause := 1, d0 := (s.grp.guardLanes g).setWidth 64, d1 := s.grp.xm }))

/-- 20 R326 to R328, 04 R84 to R87, 10 R189: EXIT and EXIT.NEXT end the group; its last group's EXIT retires the team. Exit kinds that
differ, and a successor's descriptor that is not 64-byte aligned, take a team-exit fault, and an exit while another member of the gang set
is latched a gang fault, in the order gang, alignment, kind. -/
def Sys2Proof.Slice0.GroupExit : Prop :=
  ∀ (g : Guard) (s : State), g.isNever = false → Acts g s →
    (Clear (.exit g) s → MayExit .plain s → s.lastGroup = false → exec (.exit g) s = .next (leaving .plain s)) ∧
    (Clear (.exit g) s → MayExit .plain s → s.lastGroup = true → ∃ t, exec (.exit g) s = .next t ∧
      (t.grp.live = false ∨ t.grp.susp = .exited) ∧ (t.team.live = false ∨ t.team.retiring = true) ∧ SameMemory s t) ∧
    (Clear (.exit g) s → s.gangLatched = true →
      exec (.exit g) s = .next (s.takeFault 0x06 { kind := 14, cause := 4, d0 := s.grp.buckle })) ∧
    (∀ d, Clear (.exit g) s → s.gangLatched = false → s.team.exk = some (.next d) →
      exec (.exit g) s = .next (s.takeFault 0x06 { kind := 16, cause := 0 })) ∧
    ∀ sl, Clear (.exitNext g sl) s →
      (s.gangLatched = true → exec (.exitNext g sl) s = .next (s.takeFault 0x06 { kind := 14, cause := 4, d0 := s.grp.buckle })) ∧
      (s.gangLatched = false → (s.grp.S sl.val).toNat % 64 ≠ 0 →
        exec (.exitNext g sl) s = .next (s.takeFault 0x06 { kind := 16, cause := 1, d0 := s.grp.S sl.val })) ∧
      (∀ k, s.gangLatched = false → (s.grp.S sl.val).toNat % 64 = 0 → s.team.exk = some k → k ≠ .next (s.grp.S sl.val) →
        exec (.exitNext g sl) s = .next (s.takeFault 0x06 { kind := 16, cause := 0, d0 := s.grp.S sl.val })) ∧
      ((s.grp.S sl.val).toNat % 64 = 0 → MayExit (.next (s.grp.S sl.val)) s → s.lastGroup = false →
        exec (.exitNext g sl) s = .next (leaving (.next (s.grp.S sl.val)) s))

/-- 04 R86, R87; 06 R133; 12 R214: the last group's EXIT.NEXT reads the descriptor as a load, after the wait of a read of shared bytes, for lines
that a stitch holds and for its own loads of these bytes (13 R229); a successor that does not fit the team's holdings takes a team-exit fault. One
that fits starts in the team's place with its piece, buffers, private regions, RCLK and counts, and memory, the private regions' bytes in it, keeps
every byte; its groups are in the state of Table 4-1, with group 0's S0 to S15 and the largest DCNT of the team; barriers and rings are gone.
Choices of the model: log entry 51. -/
def Sys2Proof.Slice0.SuccessorStart : Prop :=
  ∀ (g : Guard) (sl : SReg) (s : State), g.isNever = false → Acts g s → Clear (.exitNext g sl) s → (s.grp.S sl.val).toNat % 64 = 0 →
    MayExit (.next (s.grp.S sl.val)) s → s.lastGroup = true →
    (s.rangeWait (s.grp.S sl.val).toNat 64 = true ∨ s.onceMay (s.grp.S sl.val).toNat 64 = false → exec (.exitNext g sl) s = .next s) ∧
    (s.rangeWait (s.grp.S sl.val).toNat 64 = false → s.onceMay (s.grp.S sl.val).toNat 64 = true → ∀ s' ob, s.readBody 0x06 (s.grp.S sl.val).toNat = .inr (s', ob) →
      ((∀ b, ob = some b → s'.holdingsOk b = false) →
        exec (.exitNext g sl) s = .next (s'.takeFault 0x06 { kind := 16, cause := 2, d0 := s.grp.S sl.val })) ∧
      (∀ b, ob = some b → s'.holdingsOk b = true → 0 < groupsUpTo b s.team.piece.points b.roles.length →
        ∃ t, exec (.exitNext g sl) s = .next t ∧ t.team.body = b ∧ t.team.exk = none ∧ t.team.chain = s'.team.chain + 1 ∧
          t.team.bars = [] ∧ t.team.rings = [] ∧ t.team.pool = [] ∧ t.team.wbuf = s'.team.wbuf ∧ t.team.abuf = s'.team.abuf ∧
          t.team.dbuf = s'.team.dbuf ∧ t.team.piece = s'.team.piece ∧ t.team.rclk = s'.team.rclk ∧ t.team.lcnt = s'.team.lcnt ∧
          t.team.fcnt = s'.team.fcnt ∧ SameMemory s' t ∧
          FreshTeam b s.team.piece.points
            (match s'.teamGroups.find? fun x => x.gid == 0 with
              | some x => (List.range 16).map x.S
              | none => [])
            s.team.core s.team.slot (s'.teamGroups.foldl (fun m x => if m.toNat < x.dcnt.toNat then x.dcnt else m) 0) t.teamGroups ∧
          ∀ n ∈ t.teamGroups, ∀ x, s'.teamGroups.find? (fun y => y.gid == n.gid) = some x → n.privBase = x.privBase))

/-- 23 R432, 04 R88: YIELD on a barrier that is not initialised goes on at the target with NOTINIT in LSTAT; otherwise the group waits there for
the phase to end. -/
def Sys2Proof.Slice0.YieldWaits : Prop :=
  ∀ (g : Guard) (b : BReg) (off : BitVec 29) (s s' : State), g.isNever = false → Acts g s → Clear (.yield g b off) s →
    Lands (displaced 29 off.toNat s) s s' →
    ((s'.team.bar b).init = false → exec (.yield g b off) s =
      .next (transferred s'.grp.xm (displaced 29 off.toNat s) { s' with grp := { s'.grp with lstat := 0x0704 } })) ∧
    ((s'.team.bar b).init = true → exec (.yield g b off) s = .next (let t := counted s'.grp.xm s';
      { t with grp := { t.grp with susp := .yield b (s'.team.bar b).ph (displaced 29 off.toNat s) } }))

/-- 23 R425, 20 R309: TRAP takes a trap fault with its code, the reserved codes below 256 an illegal-instruction fault; BKPT takes a
breakpoint fault. -/
def Sys2Proof.Slice0.SoftwareTraps : Prop :=
  ∀ s : State,
    (∀ code : BitVec 16, s.holds (.trap code) = false → 256 ≤ code.toNat →
      exec (.trap code) s = .next (s.takeFault 0x08 { kind := 18, d0 := code.setWidth 64 })) ∧
    (∀ code : BitVec 16, s.holds (.trap code) = false → code.toNat < 256 →
      exec (.trap code) s = .next (s.takeFault 0x08 { kind := 3 })) ∧
    (∀ g : Guard, g.isNever = false → Acts g s → Clear (.bkpt g) s → exec (.bkpt g) s = .next (s.takeFault 0x09 { kind := 19 }))

/-- 15 R245: STKA moves S1023 down by its immediate, within SLIM and PRIV and 4-byte aligned; else it takes a stack-overflow fault and S1023
stays. -/
def Sys2Proof.Slice0.StackAllocate : Prop :=
  ∀ (n : BitVec 32) (s : State), s.holds (.stka n) = false →
    let new := (s.grp.S 1023).toInt - n.toInt
    ((s.grp.slim.toNat : Int) ≤ new → new ≤ s.team.body.priv → new % 4 = 0 →
      ∃ t m, exec (.stka n) s = .next t ∧ t = issued s.grp.xm { s with grp := { s.grp with s := m } } ∧
        (∀ q, t.grp.S q = if q = 1023 then BitVec.ofInt 64 new else s.grp.S q) ∧ SameMemory s t) ∧
    ((new < s.grp.slim.toNat ∨ s.team.body.priv < new ∨ new % 4 ≠ 0) →
      exec (.stka n) s = .next (s.takeFault 0x0A { kind := 9, d0 := s.grp.S 1023, d1 := n }))

/-! ## Memory (08, 13; 22 R370 to R372, 23 R410, R411, R418 to R420) -/

namespace Sys2Proof.Slice0

/-- A memory instruction adds its units to L and advances the reuse clock once; a replay does neither (06 R124, 09 R174). -/
def spent (units : Nat) (s : State) : State :=
  if s.grp.replay.isNone then { s with team := { s.team with lcnt := s.team.lcnt + units, rclk := s.team.rclk + 1 } } else s

/-- The stamp r of a memory instruction: the clock after its advance, or that of the fault it replays (09 R175, 17 R271). -/
def stampOf (s : State) : Nat :=
  match s.grp.replay with
  | some (_, r) => r
  | none => (s.team.rclk + 1).toNat

/-- The address of a lane (08 Table 8-1). -/
def laneAddress (sp : Space) (as : SLow) (av : VReg) (s : State) (l : Nat) : Nat :=
  if sp = .glob then (s.grp.S as.val + (s.grp.V av.val l).signExtend 64).toNat
  else (s.grp.S as.val + (s.grp.V av.val l).setWidth 64).toNat

/-- The active lanes of an instruction, rising, with their addresses. -/
def lanesAt (sp : Space) (as : SLow) (av : VReg) (act : W32) (s : State) : List (Nat × Nat) :=
  ((List.range 32).filter fun l => act.getLsbD l).map fun l => (l, laneAddress sp as av s l)

/-- What a load or a store names: opcode, width, space, order, scope, next-use distance, the lanes that it counts as active, and its lanes
with their addresses. -/
structure AccessRow where
  opc : Nat
  w : Nat
  sp : Space
  ordered : Bool
  sc : Scope
  nud : BitVec 8
  act : State → W32
  lanes : State → List (Nat × Nat)

/-- The loads, with LA, sign extension and destination. -/
def loadRow : Instr → Option (AccessRow × Fin 16 × Bool × LoadDst)
  | .ld g la w sx sp acq sc d av as nud =>
    some (⟨0x70, w.bytes, sp, acq, sc, nud, fun s => s.lanes g, fun s => lanesAt sp as av (s.lanes g) s⟩, la, sx, .v d)
  | .sld la w sx sp acq sc d as nud off =>
    some (⟨0x72, w.bytes, sp, acq, sc, nud, fun s => s.grp.xm, fun s => [(0, (s.grp.S as.val + BitVec.ofNat 64 (off.val * w.bytes)).toNat)]⟩,
      la, sx, .s d)
  | _ => none

/-- The stores, with the bytes that a lane stores, lowest address first. -/
def storeRow : Instr → Option (AccessRow × (State → Nat → List Byte))
  | .st g w sp rel sc d av as nud =>
    some (⟨0x71, w.bytes, sp, rel, sc, nud, fun s => s.lanes g, fun s => lanesAt sp as av (s.lanes g) s⟩, fun s l =>
      (List.range w.bytes).map fun j => ((s.grp.V (d.val + j / 4) l >>> (8 * (j % 4))).setWidth 8))
  | .sst w sp rel sc d as nud off =>
    some (⟨0x73, w.bytes, sp, rel, sc, nud, fun s => s.grp.xm, fun s => [(0, (s.grp.S as.val + BitVec.ofNat 64 (off.val * w.bytes)).toNat)]⟩,
      fun s _ => (List.range w.bytes).map fun j => (s.grp.S d.val >>> (8 * j)).setWidth 8)
  | _ => none

/-- Every lane's address is a multiple of the width and lies within the space (08 R144, R146, R147). -/
def Fits (r : AccessRow) (s : State) : Prop :=
  ∀ x ∈ r.lanes s, x.2 % r.w = 0 ∧ (r.sp ≠ .glob → x.2 + r.w ≤ s.spaceSize r.sp)

/-- The scope at which an access acts: no agent outside the team can name a byte of its buffers or of lane-private space (13 R226). -/
def actsAt (r : AccessRow) : Scope := if r.sp ≠ .glob ∧ 2 ≤ r.sc.rank then .team else r.sc

/-- An access that stays in the core: the lane, and a key of the buffer. -/
def inCore (sp : Space) (x : Nat × Nat) : LaneAcc :=
  { lane := x.1, va := x.2, key := bufBase sp + x.2, leaf := noLeaf }

/-- Where byte a of lane l stands in its group's private region (08 R147). -/
def placedAt (l a : Nat) : Nat := a / 4 * 128 + 4 * l + a % 4

/-- What a load leaves to complete. -/
def loading (r : AccessRow) (la : Fin 16) (i : Instr) (as : List LaneAcc) (sx home : Bool) (dst : LoadDst) (s : State) : Pend :=
  { seq := s.core.seq, opc := r.opc, base := s.grp.base, slot := s.grp.pslot, count := some .loads, window := true,
    left := if s.grp.replay.isSome then 0 else la.val + 1, reads := (Instr.uses i).allReads, writes := (Instr.uses i).allWrites,
    stamp := stampOf s, nud := r.nud.toNat, kind := .load as r.w sx home (if r.ordered then some (actsAt r) else none) dst }

/-- The same where no lane is left to load. -/
def loadPosted (p : List LaneAcc → Pend) (as : List LaneAcc) (s : State) : State := if as.isEmpty then s else posted (p as) s

/-- Issued in the lanes that translated; parked for the lanes that did not, with a record for each page (17 R269, R270). -/
def parkedFor (opc : Nat) (wr : Bool) (act : W32) (r : Nat) (ps : List PageFault) (s : State) : State :=
  let unf := ps.foldl (fun m p => m ||| p.lanes) 0
  (counted act s).park opc wr unf (some (unf, r)) ps

/-- The first lane that a check turns away, and all of those lanes (17 Table 17-3). -/
def turnedAway (kind : Nat) (sp : Space) (bad : Nat × Nat → Bool) (ls : List (Nat × Nat)) (t : Trap) : Prop :=
  ∃ x xs, ls.filter bad = x :: xs ∧
    t = { kind := kind, cause := match sp with | .glob => 0 | .w => 1 | .a => 2 | .d => 3 | .priv => 4, d0 := BitVec.ofNat 64 x.2,
          d1 := maskOf ((x :: xs).map (·.1)) }

end Sys2Proof.Slice0

/-- 22 R371, 23 R411, 08 R144 to R147, 12 R222, 17 R269: LD and SLD issue, count one step of the reuse clock and their units, and leave the lanes that
passed to be loaded; a lane on a page that faults parks the group; a misaligned or out-of-bounds lane faults, and so does one on a poisoned line,
with nothing else done. A load with a shared lane waits while earlier pieces have still to commit (06 R133), once its lanes are aligned.
Choices of the model: log entries 37, 42. -/
def Obligations.LoadIssue : Prop :=
  ∀ (i : Instr) (r : AccessRow) (la : Fin 16) (sx : Bool) (dst : LoadDst), loadRow i = some (r, la, sx, dst) →
    ∀ s : State, Instr.isNever i = false → Clear i s →
    let ls := r.lanes s
    let waits := (∃ x ∈ ls, s.team.isShared x.2 = true) ∧ s.oldest = false
    let s1 := spent (unitCount r.sp r.w (ls.map (·.2))) s
    (Fits r s → r.sp ≠ .glob →
      exec i s = .next (issued (r.act s) (loadPosted (fun as => loading r la i as sx false dst s) (ls.map (inCore r.sp)) s1))) ∧
    (Fits r s → r.sp = .glob → waits → exec i s = .next s) ∧
    (Fits r s → r.sp = .glob → ¬ waits →
      let home := r.ordered || decide (2 ≤ r.sc.rank)
      let xs := s.lanesX .r (!home) ls
      let as := laneAccs xs
      (∀ a, as.find? (fun a => s.bad a.key) = some a → exec i s = .next (s.takeFault r.opc (machineCheck 2 a.key))) ∧
      ((∀ a ∈ as, s.bad a.key = false) →
      let s2 := loadPosted (fun as => loading r la i as sx home dst s) as (s1.translated false as)
      (pageFaults ls xs = [] → exec i s = .next (issued (r.act s) s2)) ∧
      (pageFaults ls xs ≠ [] → exec i s = .next (parkedFor r.opc false (r.act s) (stampOf s) (pageFaults ls xs) s2)))) ∧
    (∀ t, turnedAway 10 r.sp (fun x => decide (x.2 % r.w ≠ 0)) ls t → exec i s = .next (s.takeFault r.opc t)) ∧
    (∀ t, (∀ x ∈ ls, x.2 % r.w = 0) → r.sp ≠ .glob → turnedAway 11 r.sp (fun x => decide (s.spaceSize r.sp < x.2 + r.w)) ls t →
      exec i s = .next (s.takeFault r.opc t))

namespace Sys2Proof.Slice0

/-- Group (c, k, i) is there and x is the state with that group, its team and its core in focus (log entry 6). -/
def InFocus (c k i : Nat) (s x : State) : Prop := x = s.focus c k i ∧ x.grp.live = true ∧ x.grp.is c k i = true

/-- A state y of what has happened to that group, with the focus as it was in s. -/
def back (s x y : State) : State := if y = x then s else y.focus s.grp.core s.grp.slot s.grp.gid

/-- The same where an arrival comes to the team of the group: u has it in focus, and in x a team whose registers were parked in L2 has been
unparked (16 R261). -/
def ArrivesIn (c k i : Nat) (s u x : State) : Prop := InFocus c k i s u ∧ u.unparked? = some x

/-- The same of a team. -/
def backTeam (s x y : State) : State := if y = x then s else y.focusTeam s.team.core s.team.slot

end Sys2Proof.Slice0

/-- 08 R152, R153; 13 R225, R227, R228: a lane of a load that may bind reads its bytes: from its buffer, its L1 line, or memory at the home (a
lane-private byte too, in its group's region: 08 R147) under the team's queued stores, where the held writes of deterministic mode that happen
before the load stand before it (06 R133). The last lane completes the load; no byte of memory changes. One lane for each event (log entry 9); the
lanes of a load from the D-buffer (10 R204) or with a line at a peer (17 R268; log entry 68) bind together. Where none of the lanes may bind, as while
a stitch holds the line (12 R214), the load stays.
Choices of the model: log entries 42, 68. -/
def Obligations.LoadBinds : Prop :=
  ∀ (c k i seq : Nat) (lanes : W32) (s x : State) (p : Pend) (as : List LaneAcc) (w : Nat) (sx home : Bool) (acq : Option Scope)
    (dst : LoadDst) (a : LaneAcc),
    InFocus c k i s x → x.grp.findPend? seq = some p → p.kind = .load as w sx home acq dst → w ∈ [1, 2, 4, 8, 16] →
    let whole := ∃ b ∈ as, keySpace b.key = .d ∨ (peerBase ≤ b.key ∧ b.key < bufBase .w)
    (as ≠ [] → (whole → ∃ b ∈ as, x.canBind p w home b = false) → (¬ whole → ∀ b ∈ as, lanes.getLsbD b.lane = true → x.canBind p w home b = false) →
      ∃ q h, exec (.loadComplete c k i seq lanes) s = .next (back s x { x with grp := { x.grp with pend := q } }) ∧
        q.find? (fun z => z.seq == seq) = some { p with got := h }) ∧
    (whole → (∀ b ∈ as, b.lane < 32 ∧ x.canBind p w home b = true) →
      ∃ y, exec (.loadComplete c k i seq lanes) s = .next (back s x y) ∧ SameMemory x y ∧ y.team = x.team ∧ y.grp.findPend? seq = none) ∧
    (as.filter (fun a => lanes.getLsbD a.lane) = [a] → (¬ whole ∨ as = [a]) → x.canBind p w home a = true →
    let bytes := if keySpace a.key = .priv then (List.range w).map fun j =>
        match x.privHit? p ((a.va + j) / 4) with
        | some line => line.data.getD (placedAt a.lane (a.va + j) % 128) 0
        | none => x.mem.byte (x.grp.privBase + placedAt a.lane (a.va + j))
      else if keySpace a.key ≠ .glob then x.localBytes (keySpace a.key) a.lane a.va w
      else match x.hitLine? p home a with
        | some line => (line.data.drop (a.key % 128)).take w
        | none => (if x.team.isShared a.va then x.overlay p.know x.teamView else x.teamView).bytes a.key w
    ∃ y, exec (.loadComplete c k i seq lanes) s = .next (back s x y) ∧ SameMemory x y ∧ y.team = x.team ∧
      (match dst with
        | .s d => (∀ q, y.grp.S q = if q = d.val then BitVec.ofNat 64 (if sx then (sext (8 * w) (leNat bytes)).emod (2 ^ 64) |>.toNat else leNat bytes)
            else x.grp.S q) ∧ y.grp.v = x.grp.v
        | .v d => (∀ q l, l < 32 → a.lane < 32 → y.grp.V q l =
            if l = a.lane ∧ d.val ≤ q ∧ 4 * (q - d.val) < w then
              (if w ≤ 2 then BitVec.ofNat 32 (if sx then (sext (8 * w) (leNat bytes)).emod (2 ^ 32) |>.toNat else leNat bytes)
               else BitVec.ofNat 32 (leNat bytes / 2 ^ (32 * (q - d.val))))
            else x.grp.V q l) ∧ y.grp.s = x.grp.s) ∧
      y.grp.p = x.grp.p ∧ y.grp.xm = x.grp.xm ∧ y.grp.base = x.grp.base ∧ y.grp.pslot = x.grp.pslot ∧
      ((∃ b ∈ as, lanes.getLsbD b.lane = false) → y.grp.findPend? seq =
        some { p with got := p.got.join (x.readHands p w home [a]), kind := .load (as.filter fun b => !lanes.getLsbD b.lane) w sx home acq dst }) ∧
      ((∀ b ∈ as, lanes.getLsbD b.lane = true) → y.grp.findPend? seq = none))

/-- 23 R411, R419: ST and SST into a buffer or lane-private memory write their bytes at issue, and of lanes that name one byte the highest
lane's stays (13 R223); lane-private bytes stand in the group's region in memory, and their lines go through L1 and ask their home (08 R147); a
global store is sent, or held by deterministic mode, and memory keeps every byte until the store performs. A store waits as a release does, for
a load of its own that has still to read its bytes, for a stitch of its team on its line, and while the commit area lacks room for its lines (06
R135), once its lanes are aligned and in bounds; a lane on a poisoned line faults (12 R222). What a release wrote counts for the group's later
copies (13 R232).
Choices of the model: log entries 9, 37, and 14 that a lane-private store reaches memory in its own step. -/
def Obligations.StoreIssue : Prop :=
  ∀ (i : Instr) (r : AccessRow) (data : State → Nat → List Byte), storeRow i = some (r, data) →
    ∀ s : State, Instr.isNever i = false → Clear i s →
    let ls := r.lanes s
    let goes := s.storeWaits r.w r.sp r.ordered r.sc ls = false
    let s1 := spent (unitCount r.sp r.w (ls.map (·.2))) s
    (Fits r s → ¬ goes → exec i s = .next s) ∧
    (r.ordered = true → s.releaseReady (actsAt r) = false → ¬ goes) ∧
    (r.sp = .glob → (∃ a ∈ laneAccs (s.lanesX .w false ls), s.grp.loadsBefore a.lane a.key r.w = true ∨
      ∃ g ∈ s.teamGroups, ∃ p ∈ g.pend, p.kind.stitches (a.key / 128) = true) → ¬ goes) ∧
    (r.sp ≠ .glob → (∃ x ∈ ls, s.grp.loadsBefore x.1 (bufBase r.sp + x.2) r.w = true) → ¬ goes) ∧
    (r.sp = .glob → s.team.det = true → s.team.through = false →
      (let need := (uniq (((laneAccs (s.lanesX .w false ls)).filter fun a => s.team.isShared a.va).map fun a => a.key / 128)).length
       0 < need ∧ 512 < s.team.slotsUsed + need) → ¬ goes) ∧
    (Fits r s → r.sp ≠ .glob → goes → ∃ y, exec i s = .next (issued (r.act s) y) ∧
      (∃ m m1 m2 m3 n c ac tn rl fl ow, y = { s1 with
        mem := m
        grp := { s1.grp with ownRels := ow }
        team := { s1.team with wbuf := m1, abuf := m2, dbuf := m3, rels := n }
        core := c, access := ac, teamNow := tn, rlines := rl, fills := fl } ∧
        (r.sp ≠ .priv → m = s1.mem ∧ c = s1.core ∧ ac = s1.access ∧ tn = s1.teamNow ∧ rl = s1.rlines ∧ fl = s1.fills)) ∧
      (∀ x ∈ ls, (∀ z ∈ ls, x.1 < z.1 → r.sp ≠ .priv → z.2 + r.w ≤ x.2 ∨ x.2 + r.w ≤ z.2) →
        y.localBytes r.sp x.1 x.2 r.w = data s x.1) ∧
      (∀ a, (∀ z ∈ ls, ∀ j < r.w, a ≠ s.grp.privBase + placedAt z.1 (z.2 + j)) → y.mem.byte a = s.mem.byte a) ∧
      (∀ sp l off, (sp = r.sp → ∀ z ∈ ls, off < z.2 ∨ z.2 + r.w ≤ off ∨ (sp = .priv ∧ z.1 ≠ l)) → l < 32 → (∀ z ∈ ls, z.1 < 32) →
        y.localByte sp l off = s.localByte sp l off)) ∧
    (Fits r s → r.sp = .glob → goes →
      let xs := s.lanesX .w true ls
      let as := laneAccs xs
      (∀ a, as.find? (fun a => s.bad a.key) = some a → exec i s = .next (s.takeFault r.opc (machineCheck 2 a.key))) ∧
      ((∀ a ∈ as, s.bad a.key = false) →
      let all := as.map fun a => (a, data s a.lane)
      let isHeld := fun z : LaneAcc × List Byte => s.team.isShared z.1.va && !s.team.through
      let held := all.filter isHeld
      let sent := all.filter fun z => !isHeld z
      let cells := fun z : LaneAcc × List Byte => z.2.mapIdx fun j b => (z.1.key + j, b)
      let rel := s.storeRel r.ordered r.sc true
      let own := if r.ordered = true then as.map fun a => (a.key, r.w) else []
      let s2 := ((s1.translated true as).onCore (Core.l1Dirty s.team.ctx (as.map fun a => a.va / 128))).onGrp (Group.ownRelease rel own)
      let s3 := if held.isEmpty then s2
        else s2.hold r.opc (uniq (held.map fun z => z.1.key / 128)).length none rel (held.map fun z => (z.1, .bytes (cells z)))
      let s4 := if sent.isEmpty then s3 else posted
        { seq := s.core.seq, opc := r.opc, base := s.grp.base, slot := s.grp.pslot, count := if 2 ≤ r.sc.rank then some .stores else none,
          window := false, left := 0, reads := [], writes := [], stamp := stampOf s, nud := r.nud.toNat, rel := rel,
          kind := .store r.sc sent }
        (s3.onCore (Core.l1Write rel (sent.flatMap cells)))
      SameMemory (s1.translated true as) s4 ∧
      (pageFaults ls xs = [] → exec i s = .next (issued (r.act s) s4)) ∧
      (pageFaults ls xs ≠ [] → exec i s = .next (parkedFor r.opc true (r.act s) (stampOf s) (pageFaults ls xs) s4)))) ∧
    (∀ t, turnedAway 10 r.sp (fun x => decide (x.2 % r.w ≠ 0)) ls t → exec i s = .next (s.takeFault r.opc t)) ∧
    (∀ t, (∀ x ∈ ls, x.2 % r.w = 0) → r.sp ≠ .glob → turnedAway 11 r.sp (fun x => decide (s.spaceSize r.sp < x.2 + r.w)) ls t →
      exec i s = .next (s.takeFault r.opc t))

/-- 13 R223, R227, 12 R222: a lane of a store performs at the home, where no lane of a lower number has still to write a byte of its own:
the bytes at its address are its bytes, and every other byte of memory stays; a line poisoned since the issue keeps all of its bytes. The last lane
ends the store, and the bytes of a store that releases hand on what it releases (13 R230). A lane behind such a lower one stays; so do all lanes of a
store with a line at a peer until all of them may perform, which they then do together (17 R268).
Choices of the model: log entries 9, 68. -/
def Obligations.StorePerforms : Prop :=
  ∀ (c k i seq : Nat) (lanes : W32) (s x : State) (p : Pend) (sc : Scope) (ls : List (LaneAcc × List Byte)) (a : LaneAcc) (bs : List Byte),
    InFocus c k i s x → x.grp.findPend? seq = some p → p.kind = .store sc ls →
    let whole := ∃ z ∈ ls, peerBase ≤ z.1.key ∧ z.1.key < bufBase .w
    (whole → (∃ z ∈ ls, x.writeBefore seq (z.1.key / 128) = true ∨ x.served z.1.key = false) →
      ∃ q, exec (.storePerformed c k i seq lanes) s = .next ((back s x { x with grp := { x.grp with pend := q } }).reap) ∧
        q.find? (fun z => z.seq == seq) = some p) ∧
    (whole → (∀ z ∈ ls, z.1.lane < 32 ∧ x.writeBefore seq (z.1.key / 128) = false ∧ x.served z.1.key = true) →
      ∃ y, exec (.storePerformed c k i seq lanes) s = .next ((back s x y).reap) ∧ y.grp.findPend? seq = none ∧
        ∀ j, (∀ z ∈ ls, j < z.1.key ∨ z.1.key + z.2.length ≤ j) → y.mem.byte j = x.mem.byte j) ∧
    (ls.filter (fun z => lanes.getLsbD z.1.lane) = [(a, bs)] → (¬ whole ∨ ls = [(a, bs)]) →
    x.writeBefore seq (a.key / 128) = false → x.served a.key = true → a.key % 128 + bs.length ≤ 128 →
    ((∃ z ∈ ls, z.1.lane < a.lane ∧ z.1.key < a.key + bs.length ∧ a.key < z.1.key + z.2.length) →
      ∃ q, exec (.storePerformed c k i seq lanes) s = .next ((back s x { x with grp := { x.grp with pend := q } }).reap) ∧
        q.find? (fun z => z.seq == seq) = some p) ∧
    ((∀ z ∈ ls, z.1.lane < a.lane → z.1.key + z.2.length ≤ a.key ∨ a.key + bs.length ≤ z.1.key) → ∃ y, exec (.storePerformed c k i seq lanes) s = .next ((back s x y).reap) ∧
      (∀ j, y.mem.byte j =
        if a.key ≤ j ∧ j < a.key + bs.length ∧ x.poisoned.contains (a.key / 128) = false then bs.getD (j - a.key) 0 else x.mem.byte j) ∧
      (∃ q, y.grp = { x.grp with pend := q }) ∧ y.team = x.team ∧ y.core = x.core ∧
      (∀ r, p.rel = some r → { lo := a.key, n := bs.length, what := r } ∈ y.rels) ∧
      ((∃ b ∈ ls, lanes.getLsbD b.1.lane = false) → y.grp.findPend? seq =
        some { p with kind := .store sc (ls.filter fun b => !lanes.getLsbD b.1.lane) }) ∧
      ((∀ b ∈ ls, lanes.getLsbD b.1.lane = true) → y.grp.findPend? seq = none)))

/-! ## Prefetch, FENCE, RESIZE (08 R159, R160, R168 to R171; 13 R235) -/

namespace Sys2Proof.Slice0

/-- What FENCE waits for (13 R235): loads by ld, stores at the home by st, engine threads by eng; and by st at device scope or wider stores of the
team's other groups that happen before it (R231). -/
def FenceWaits (sc : Scope) (ld st eng : Bool) (s : State) : Prop :=
  (st = true ∧ 2 ≤ sc.rank ∧ s.othersQueued = true) ∨ ∃ p ∈ s.grp.pend, p.carried = false ∧ match p.kind with
    | .load _ _ _ _ _ _ | .mldb _ => ld = true
    | .store _ _ => st = true ∧ 2 ≤ sc.rank
    | .copy _ _ _ _ _ _ _ | .stch _ _ _ _ _ | .mma _ | .mdrain _ _ _ _ _ => eng = true
    | .arith _ | .arrive _ _ _ => False

end Sys2Proof.Slice0

/-- 08 R144, R169 to R171: PFCH asks the home of each line of the lanes that its pages let through, with its distance and its team's clock, raises
no page fault, and counts a dropped prefetch where a lane's page does not; a misaligned lane faults. 13 R235: FENCE issues once nothing that it
waits for is outstanding. With kind loads it acquires what the group's reads hand on, and at device scope or wider no L1 line filled before serves
the group; with kind stores it marks, at its scope, the stores that a later plain store releases (13 R230), and all that happens before it happens
before a thread that forks later; with kind engines its threads join (13 R232). -/
def Sys2Proof.Slice0.PrefetchAndFence : Prop :=
  (∀ (g : Guard) (la : Fin 16) (w : Width) (sc : Scope) (av : VReg) (as : SLow) (nud : BitVec 8) (s : State),
    g.isNever = false → Clear (.pfch g la w sc av as nud) s →
    let ls := lanesAt .glob as av (s.lanes g) s
    let s1 := spent (unitCount .glob w.bytes (ls.map (·.2))) s
    let ok := ls.filterMap fun x => match s.laneX s.cluster s.team.ctx .r x.1 x.2 with
      | .ok y => if y.leaf.mig then none else some y
      | .fault _ _ _ => none
    (∀ t, turnedAway 10 .glob (fun x => decide (x.2 % w.bytes ≠ 0)) ls t → exec (.pfch g la w sc av as nud) s = .next (s.takeFault 0x75 t)) ∧
    ((∀ x ∈ ls, x.2 % w.bytes = 0) → ∃ t, exec (.pfch g la w sc av as nud) s = .next (issued (s.lanes g) t) ∧
      (∃ a b c d, t = { s1 with
        access := a, teamNow := b, rlines := c, fills := d
        grp := { s1.grp with gap := if ls.isEmpty then s.grp.gap else .inHand }
        cells := if ok.length = ls.length then s.cells
          else s.cells.map fun q => if q.id == s.cellId then { q with dropped := q.dropped + 1 } else q }) ∧
      ∀ a ∈ ok, a.key < 2 ^ 39 →
        mapGet 0 s.access (accessKey a.key (s.core.id / 48)) < mapGet 0 t.access (accessKey a.key (s.core.id / 48)) ∧
        ((∀ b ∈ ok, b.key / 128 = a.key / 128 → b.leaf.cp ≠ 3) → match s.findLine? (homeUnit a.key) a.key with
          | some _ => ∃ y, t.findLine? (homeUnit a.key) a.key = some y ∧ (nud = 0 → y.kind = 1) ∧
              (nud ≠ 0 → nud ≠ 255 → y.kind = 0 ∧ y.due = dueStamp (stampOf s) s.team.gcnt nud.toNat)
          | none => ∃ f ∈ t.fills, f.unit = homeUnit a.key ∧ f.req.key / 128 = a.key / 128 ∧ f.req.code = some nud.toNat ∧
              f.req.r = stampOf s ∧ f.req.tag = some ⟨s.team.core, s.team.slot, s.team.gen⟩))) ∧
  (∀ (sc : Scope) (ld st eng : Bool) (s : State), Clear (.fence sc ld st eng) s →
    (FenceWaits sc ld st eng s → exec (.fence sc ld st eng) s = .next s) ∧
    (¬ FenceWaits sc ld st eng s → ∃ (k fk : Know) (f : Pend → Know) (ft fd : Option FenceMark) (e : Nat), exec (.fence sc ld st eng) s = .next (issued s.grp.xm
        { s with grp := { s.grp with know := k, fork := fk, fenceTeam := ft, fenceDev := fd, pend := s.grp.pend.map fun p => match p.kind with
            | .arrive b t _ => { p with kind := .arrive b t (f p) }
            | _ => p }
                 core := { s.core with epoch := e } }) ∧
      (ld = true → 2 ≤ sc.rank → e = s.core.epoch + 1 ∧ s.core.epoch + 1 ≤ k.epoch) ∧
      ((ld = false ∨ sc.rank < 2) → e = s.core.epoch) ∧
      (let mark : FenceMark := { held := s.team.heldCount s.grp.gid, upto := s.core.seq }
       ft = (if st = true ∧ sc ≠ .group then some mark else s.grp.fenceTeam) ∧
       fd = if st = true ∧ 2 ≤ sc.rank then some mark else s.grp.fenceDev) ∧
      (∀ z ∈ s.grp.fork.seen, z ∈ fk.seen) ∧ s.grp.fork.upto ≤ fk.upto ∧
      (st = true → (∀ z ∈ s.grp.know.seen, z ∈ fk.seen) ∧ s.grp.know.upto ≤ fk.upto ∧
        ((∃ p ∈ s.grp.pend, p.isStore = true ∧ p.seq < s.core.seq) → s.core.seq ≤ fk.upto)) ∧
      s.grp.know.epoch ≤ k.epoch ∧ s.grp.know.upto ≤ k.upto ∧ (∀ z ∈ s.grp.know.seen, z ∈ k.seen) ∧
      (ld = true → sc ≠ .group → s.grp.readKnow.near.epoch ≤ k.epoch ∧ s.grp.readKnow.near.upto ≤ k.upto ∧
        ∀ z ∈ s.grp.readKnow.near.seen, z ∈ k.seen) ∧
      (ld = true → 2 ≤ sc.rank → ∀ z ∈ s.grp.readKnow.far, z ∈ k.seen) ∧
      (eng = true → ∀ h ∈ s.team.held, h.chain = s.team.chain → h.gid = s.grp.gid → (h.thread = some .copies ∨ h.thread = some .matrix) →
        (∀ p ∈ s.grp.pend, p.seq ≠ h.order) → s.team.heldId h ∈ k.seen)))

/-- 08 R160: RESIZE answers DENIED outside an exclusive team, NORES outside the sizes that the ways of L1 allow; else it takes or returns ways,
and a smaller A-buffer loses its bytes from the new size on. S[D] is the size after it. While it waits, no group of its team issues an access to
L1 or the A-buffer. -/
def Sys2Proof.Slice0.BufferResize : Prop :=
  ∀ (d a : SReg) (s : State), Clear (.resize d a) s →
    let n := (s.grp.S a.val).toNat
    let least := max s.team.agBase s.team.body.ag
    let done := fun (size : Nat) (code : BitVec 16) (y : State) => ∃ m, exec (.resize d a) s =
        .next (issued s.grp.xm { y with grp := { s.grp with s := m, lstat := code, resizing := false } }) ∧
      ∀ q, mapGet 0 m q = if q = d.val then BitVec.ofNat 64 size else s.grp.S q
    (s.team.body.excl = false → done s.team.aNow 0x7701 s) ∧
    (s.team.body.excl = true → (n < least ∨ s.team.agBase + 12 < n) → done s.team.aNow 0x7707 s) ∧
    (s.team.body.excl = true → least ≤ n → n ≤ s.team.agBase + 12 → s.resizeWaits n = false →
      (n = s.team.aNow → done n 0x7700 s) ∧
      (s.team.aNow < n → done n 0x7700 { s with
        core := { s.core with l1w := 16 - (n - s.team.agBase), lines := s.core.lines.filter fun x => decide (x.way < 16 - (n - s.team.agBase)) }
        team := { s.team with aNow := n } }) ∧
      (n < s.team.aNow → done n 0x7700 { s with
        core := { s.core with l1w := 16 - (n - s.team.agBase) }
        team := { s.team with aNow := n, abuf := s.team.abuf.filter fun c => decide (c.1 < 16384 * n) } })) ∧
    (s.team.body.excl = true → least ≤ n → n ≤ s.team.agBase + 12 → s.resizeWaits n = true →
      exec (.resize d a) s = .next { s with grp := { s.grp with resizing := true } }) ∧
    (∀ (i : Instr) (r : AccessRow), ((∃ la sx dst, loadRow i = some (r, la, sx, dst)) ∨ ∃ data, storeRow i = some (r, data)) →
      r.sp ≠ .w → r.sp ≠ .d → Instr.isNever i = false → (∃ g ∈ s.teamGroups, g.resizing = true) → exec i s = .next (s.stay r.opc i))

/-! ## Copies (08 R161 to R164; 20 R318 to R320) -/

namespace Sys2Proof.Slice0

/-- The two copies: whether to global memory, guard, width, buffer, barrier, registers and distance. -/
def copyRow : Instr → Option (Bool × Guard × Nat × Buf × Option BReg × VReg × VReg × SLow × BitVec 8)
  | .cpy g _ w b bar bv gv gs nud => some (false, g, w.bytes, b, bar, bv, gv, gs, nud)
  | .cpyToGlobal g _ w b bar bv gv gs nud => some (true, g, w.bytes, b, bar, bv, gv, gs, nud)
  | _ => none

/-- The group may issue an instruction of a class: its role, and the class of its clause (03 R53, R54). -/
def InRole (kind : RoleKind) (k : ClauseClass) (s : State) : Prop := s.grp.kind = kind ∧ ∃ h, s.grp.hdr = some h ∧ h.cls = k

end Sys2Proof.Slice0

/-- 20 R319, 08 R162 to R164: a copy waits while 64 are outstanding on the core; then a misaligned global address, a misaligned buffer offset and a
lane beyond the buffer fault, in this order; a page fault parks the whole copy; then it waits for earlier pieces and for room in the commit area. It
issues once all of its lanes pass: it counts, and leaves its lanes to be copied; under deterministic mode the lanes to shared memory are held.
With nothing to copy its arrival is made at once. Its thread has before it what happens before its fork (13 R232). Outside its role it faults.
Choices of the model: log entries 36, 38, 60. -/
def Sys2Proof.Slice0.CopyIssue : Prop :=
  ∀ (i : Instr) (out : Bool) (g : Guard) (w : Nat) (buf : Buf) (bar : Option BReg) (bv gv : VReg) (gs : SLow) (nud : BitVec 8),
    copyRow i = some (out, g, w, buf, bar, bv, gv, gs, nud) → ∀ s : State, g.isNever = false → Clear i s →
    let gl := lanesAt .glob gs gv (s.lanes g) s
    let bl := gl.map fun x => (x.1, (s.grp.V bv.val x.1).toNat)
    (¬ InRole .cpy .c s → exec i s = .next (s.takeFault 0x74 { kind := 6 })) ∧
    (InRole .cpy .c s → 64 ≤ s.copiesOut → exec i s = .next s) ∧
    (InRole .cpy .c s → s.copiesOut < 64 → ∀ t, turnedAway 10 .glob (fun x => decide (x.2 % w ≠ 0)) gl t → exec i s = .next (s.takeFault 0x74 t)) ∧
    (InRole .cpy .c s → s.copiesOut < 64 → (∀ x ∈ gl, x.2 % w = 0) →
      (∀ t, turnedAway 10 buf.space (fun x => decide (x.2 % w ≠ 0)) bl t → exec i s = .next (s.takeFault 0x74 t)) ∧
      ((∀ x ∈ bl, x.2 % w = 0) → ∀ t, turnedAway 11 buf.space (fun x => decide (s.spaceSize buf.space < x.2 + w)) bl t →
        exec i s = .next (s.takeFault 0x74 t))) ∧
    (InRole .cpy .c s → s.copiesOut < 64 → (∀ x ∈ gl, x.2 % w = 0) → (∀ x ∈ bl, x.2 % w = 0 ∧ x.2 + w ≤ s.spaceSize buf.space) →
      let xs := s.lanesX (if out then .w else .r) false gl
      let as := laneAccs xs
      (pageFaults gl xs ≠ [] → exec i s = .next (s.park 0x74 out (s.lanes g) none (pageFaults gl xs))) ∧
      (pageFaults gl xs = [] → s.copyWaits out gl = true → exec i s = .next s) ∧
      (out = false → (∃ x ∈ gl, s.team.isShared x.2 = true) → s.oldest = false → s.copyWaits out gl = true) ∧
      (pageFaults gl xs = [] → s.copyWaits out gl = false → ∀ a, as.find? (fun a => s.bad a.key) = some a → exec i s = .next (s.takeFault 0x74 (machineCheck 2 a.key))) ∧
      (pageFaults gl xs = [] → s.copyWaits out gl = false → (∀ a ∈ as, s.bad a.key = false) →
        let s1 := (spent (unitCount .glob w (gl.map (·.2)) + unitCount buf.space w (bl.map (·.2))) s).translated out as
        let s2 := if out then s1.onCore (Core.l1Dirty s.team.ctx (as.map fun a => a.va / 128)) else s1
        let isHeld := fun z : LaneAcc × Nat => out && s.team.isShared z.1.va && !s.team.through
        let held := (as.zip (bl.map (·.2))).filter isHeld
        let sent := (as.zip (bl.map (·.2))).filter fun z => !isHeld z
        let cells := fun z : LaneAcc × Nat => (s.localBytes buf.space z.1.lane z.2 w).mapIdx fun j b => (z.1.key + j, b)
        let s3 := if held.isEmpty then s2
          else s2.hold 0x74 (uniq (held.map fun z => z.1.key / 128)).length (some .copies) none (held.map fun z => (z.1, .bytes (cells z)))
        let fork := s2.forkKnow ((as.zip (bl.map (·.2))).flatMap fun z => [(z.1.key, w), (bufBase buf.space + z.2, w)])
        let know := if held.isEmpty then fork else fork.join { seen := [{ team := s.team.ident, gid := s.grp.gid, seq := s.team.heldCount s.grp.gid }] }
        let s4 := if sent.isEmpty then ({ s3 with core := { s3.core with seq := s3.core.seq + 1 } }).copyArrives bar know else posted
          { seq := s.core.seq, opc := 0x74, base := s.grp.base, slot := s.grp.pslot, count := some .copies, window := false, left := 0,
            reads := [], writes := [], stamp := stampOf s, nud := nud.toNat, kind := .copy out w buf bar false know sent } s3
        exec i s = .next (issued (s.lanes g) s4) ∧ SameMemory s1 s4))

/-- 08 R162, R163, 20 R320: a copy that may move its bytes moves all of them, leaves the count, and makes its arrival unless BARKILL has discarded
it; a parked team is unparked first (16 R261). It reads memory under the team's stores that have performed for the team (13 R227), and in its core's
L1 it leaves what stores issued later have written (R233). A line poisoned since its issue gives what it stores and keeps no new byte. To global
memory it changes memory, from global memory the buffer, and nothing else of either.
Choices of the model: log entries 9, 68. -/
def Sys2Proof.Slice0.CopyCompletes : Prop :=
  ∀ (c k i seq : Nat) (s u x : State) (p : Pend) (out : Bool) (w : Nat) (buf : Buf) (bar : Option BReg) (gone : Bool) (know : Know)
    (xs : List (LaneAcc × Nat)),
    ArrivesIn c k i s u x → x.grp.findPend? seq = some p → p.kind = .copy out w buf bar gone know xs →
    x.copyMay p w buf xs = true →
    let cells := xs.flatMap fun z => (x.localBytes buf.space z.1.lane z.2 w).mapIdx fun j b => (z.1.key + j, b)
    let moved := if out then (x.writeMem cells).l1Put x.core.id none cells
      else xs.foldl (fun t z => t.putLocals none buf.space z.1.lane z.2
        ((if x.team.isShared z.1.va then x.overlay p.know x.teamView else x.teamView).bytes z.1.key w)) x
    ∃ a b d e, let y := { moved with access := a, teamNow := b, rlines := d, fills := e, grp := moved.grp.dropPend seq }
      let z := if gone then y else y.copyArrives bar know
      exec (.copyComplete c k i seq) s = .next ((back s u z).reap) ∧
      (out = false → SameMemory x y) ∧ (out = true → y.mem = x.mem.puts (cells.filter fun c => !x.poisoned.contains (c.1 / 128))) ∧ y.grp.findPend? seq = none

/-! ## Stitches (12; 23 R421 to R424) -/

namespace Sys2Proof.Slice0

/-- A routine's state has the parts of 12 Table 12-1: vectors of 32 words, four temporaries, four masks. -/
def Shaped (r : StitchRun) : Prop :=
  r.l.length = 32 ∧ r.old.length = 32 ∧ r.t.length = 4 ∧ (∀ x ∈ r.t, x.length = 32) ∧ r.m.length = 4

/-- The value of a source for an element, and as a signed number (12 Table 12-3). -/
def sx (r : StitchRun) (c : Fin 32) (i : BitVec 10) (e : Nat) : Nat := r.src c.val i e
def sn (r : StitchRun) (c : Fin 32) (i : BitVec 10) (e : Nat) : Int := sext r.w (r.src c.val i e)

/-- The float format of a routine, and the value of a source in it. -/
def sfm (r : StitchRun) : Fmt := if r.wide then F64 else F32
def sf (r : StitchRun) (c : Fin 32) (i : BitVec 10) (e : Nat) : FVal := (sfm r).val (r.src c.val i e)

/-- The operations that write a vector: D, the elements that they write, and their values (12 Table 12-4). -/
def vectorOp : Instr → Option (Fin 16 × (StitchRun → Nat → Bool) × (StitchRun → Nat → Nat))
  | .wmov m d a i => some (d, fun r e => r.sel m.val e, fun r e => sx r a i e)
  | .wadd m d a b i => some (d, fun r e => r.sel m.val e, fun r e => sx r a i e + sx r b i e)
  | .wsub m d a b i => some (d, fun r e => r.sel m.val e, fun r e => sx r a i e + 2 ^ r.w - sx r b i e)
  | .wmin m d a b i => some (d, fun r e => r.sel m.val e, fun r e => if sn r a i e ≤ sn r b i e then sx r a i e else sx r b i e)
  | .wminU m d a b i => some (d, fun r e => r.sel m.val e, fun r e => min (sx r a i e) (sx r b i e))
  | .wmax m d a b i => some (d, fun r e => r.sel m.val e, fun r e => if sn r b i e ≤ sn r a i e then sx r a i e else sx r b i e)
  | .wmaxU m d a b i => some (d, fun r e => r.sel m.val e, fun r e => max (sx r a i e) (sx r b i e))
  | .wand m d a b i => some (d, fun r e => r.sel m.val e, fun r e => sx r a i e &&& sx r b i e)
  | .wor m d a b i => some (d, fun r e => r.sel m.val e, fun r e => sx r a i e ||| sx r b i e)
  | .wxor m d a b i => some (d, fun r e => r.sel m.val e, fun r e => sx r a i e ^^^ sx r b i e)
  | .wshl m d a b i => some (d, fun r e => r.sel m.val e, fun r e => sx r a i e * 2 ^ (sx r b i e % r.w))
  | .wshr m d a b i => some (d, fun r e => r.sel m.val e, fun r e => sx r a i e / 2 ^ (sx r b i e % r.w))
  | .fwadd m d a b i => some (d, fun r e => r.sel m.val e, fun r e => ((sfm r).add .rne (sf r a i e) (sf r b i e)).1)
  | .fwmin m d a b i => some (d, fun r e => r.sel m.val e, fun r e => ((sfm r).minmax false (sx r a i e) (sx r b i e)).1)
  | .fwmax m d a b i => some (d, fun r e => r.sel m.val e, fun r e => ((sfm r).minmax true (sx r a i e) (sx r b i e)).1)
  | .wsel k d a b i => some (d, fun _ _ => true, fun r e => if r.sel k.val e then sx r a i e else sx r b i e)
  | .wset d a b i => some (d, fun r e => e == sx r b i 0 % r.E, fun r _ => sx r a i 0)
  | _ => none

/-- The comparisons: the mask that they write, the elements, and the bits. -/
def maskOp : Instr → Option (Fin 16 × Fin 8 × (StitchRun → Nat → Bool))
  | .wcmpEq m d a b i => some (d, m, fun r e => decide (sx r a i e = sx r b i e))
  | .wcmpNe m d a b i => some (d, m, fun r e => decide (sx r a i e ≠ sx r b i e))
  | .wcmpLt m d a b i => some (d, m, fun r e => decide (sn r a i e < sn r b i e))
  | .wcmpLtu m d a b i => some (d, m, fun r e => decide (sx r a i e < sx r b i e))
  | .wcmpLe m d a b i => some (d, m, fun r e => decide (sn r a i e ≤ sn r b i e))
  | .wcmpLeu m d a b i => some (d, m, fun r e => decide (sx r a i e ≤ sx r b i e))
  | _ => none

end Sys2Proof.Slice0

/-- 12 R209, R210: each stitch operation writes its values in the elements that its mask picks, in one vector or one mask, and nothing else
of the machine; operations outside a routine, and codes that R208 to R210 call invalid, stop (12 R217 keeps them out of every routine). -/
def Obligations.StitchOperations : Prop :=
  ∀ (i : Instr) (s : State),
    (∀ d p f, vectorOp i = some (d, p, f) → ∀ r, s.run = some r → stitchOk r.wide i = true → Shaped r →
      ∃ v, exec i s = .next { s with run := some { r.setVec d.val v with pc := r.pc + 1 } } ∧ v.length = 32 ∧
        ∀ e, e < r.E → elemGet r.wide v e = if p r e then f r e % 2 ^ r.w else elemGet r.wide (r.vec d.val) e) ∧
    (∀ d m f, maskOp i = some (d, m, f) → ∀ r, s.run = some r → stitchOk r.wide i = true → Shaped r →
      ∃ x, exec i s = .next { s with run := some { r with m := r.m.set (d.val - 5) x, pc := r.pc + 1 } } ∧
        ∀ e, e < r.E → maskGet r.wide x e = if r.sel m.val e then f r e else maskGet r.wide (r.m.getD (d.val - 5) 0) e) ∧
    ((vectorOp i ≠ none ∨ maskOp i ≠ none) → (s.run = none ∨ ∃ r, s.run = some r ∧ stitchOk r.wide i = false) →
      exec i s = .fault .stitchWordInvalid)

/-- 12 R210, R213, R215: COMMIT writes the line back and ABORT does not; either ends the routine, lets the line go, and hands the lane its
words, zero beyond those returned. After a COMMIT the core that sent the STCH has no copy of the line (13 R233), and its value hands on what
happens before the STCH beside what it handed on already (13 R230). A poisoned line keeps no new word (12 R222). -/
def Obligations.StitchEnds : Prop :=
  ∀ (n : Fin 16) (a : Fin 32) (im : BitVec 10) (s x : State) (r : StitchRun) (p : Pend) (sl : Nat) (sc : Scope) (rv : VReg) (zero : W32)
    (lanes : List (LaneAcc × List W32)),
    s.run = some r → Shaped r →
    (∀ i commits, (i = Instr.commit n a im ∧ commits = true) ∨ (i = Instr.abort n a im ∧ commits = false) → stitchOk r.wide i = true →
      let s1 := { (if commits then { s with mem := s.mem.puts ((wordCells r.key r.l).filter fun c => !s.poisoned.contains (c.1 / 128)) } else s)
        with run := none }
      InFocus r.core r.slot r.gid s1 x → x.grp.findPend? r.seq = some p → p.kind = .stch sl sc rv zero lanes → r.lane < 32 →
      let first := (if r.wide then 2 else 1) * r.src a.val im 0
      let line := r.key / 128 * 128
      let own := x.grp.pend.any fun q => q.isStore && decide (q.seq < p.seq)
      let rel : Release := { team := x.team.ident, hand := { near := if own then p.know.join { upto := p.seq } else p.know,
                                                             far := if 2 ≤ sc.rank then p.know.seen else [] } }
      ∃ v, let y := { x with
          core := if commits then { x.core with lines := x.core.lines.filter fun z => ! [r.key / 128].contains z.pline } else x.core
          rels := if commits ∧ sc ≠ .group then (x.addRel line 128 rel).rels else x.rels
          grp := { x.grp with v := v, pend := x.grp.pend.map fun q => if q.seq == r.seq then
            { q with kind := .stch sl sc rv zero (lanes.filter fun z => z.1.lane != r.lane) } else q } }
        exec i s = .next (back s1 x y) ∧
        (∀ q l, l < 32 → y.grp.V q l = if l = r.lane ∧ rv.val ≤ q ∧ q < rv.val + 4 then
            (if zero.getLsbD l then 0 else if q - rv.val < n.val then r.old.getD ((first + (q - rv.val)) % 32) 0 else 0)
          else x.grp.V q l)) ∧
    (s.poisoned.contains (r.key / 128) = true → ∀ c ∈ wordCells r.key r.l, s.poisoned.contains (c.1 / 128) = true) ∧
    (s.poisoned.contains (r.key / 128) = false → (∀ c ∈ wordCells r.key r.l, s.poisoned.contains (c.1 / 128) = false) ∧
      ∀ j, (s.mem.puts (wordCells r.key r.l)).byte j =
      if r.key / 128 * 128 ≤ j ∧ j < r.key / 128 * 128 + 128 then
        ((r.l.getD (j % 128 / 4) 0) >>> (8 * (j % 4))).setWidth 8 else s.mem.byte j)

/-- 23 R421, R422, 12 R213: a misaligned lane faults; STCH waits as a release; a page fault parks it; once every lane has translated it waits for
room in the commit area; it issues once all of its lanes
pass, drops the lines from L1, and leaves an invocation for each lane; shared lanes of deterministic mode are held, and their words are zero.
With nothing left to send it is complete: an acquire (13 R228), and at a held one all that happens before it happens before a later thread (R232).
A page fault parks the lanes, after the clock and the counts.
Choices of the model: log entry 36. -/
def Obligations.StitchIssue : Prop :=
  ∀ (g : Guard) (la : Fin 16) (slot : Fin 256) (sc : Scope) (rv ov av : VReg) (as : SLow) (s : State),
    g.isNever = false → Clear (.stch g la slot sc rv ov av as) s →
    let ls := lanesAt .glob as av (s.lanes g) s
    (∀ t, turnedAway 10 .glob (fun x => decide (x.2 % 4 ≠ 0)) ls t → exec (.stch g la slot sc rv ov av as) s = .next (s.takeFault 0x80 t)) ∧
    ((∀ x ∈ ls, x.2 % 4 = 0) → s.releaseReady sc = false → exec (.stch g la slot sc rv ov av as) s = .next s) ∧
    ((∀ x ∈ ls, x.2 % 4 = 0) → s.releaseReady sc = true →
    let s1 := spent (unitCount .glob 4 (ls.map (·.2))) s
    let xs := s.lanesX .rw false ls
    let accs := laneAccs xs
    (pageFaults ls xs ≠ [] → exec (.stch g la slot sc rv ov av as) s =
      .next ((counted (s.lanes g) s1).park 0x80 true (s.lanes g) (some (s.lanes g, stampOf s)) (pageFaults ls xs))) ∧
    (let need := (accs.filter fun a => s.team.isShared a.va).length
     pageFaults ls xs = [] → s.team.det = true → s.team.through = false → 0 < need → 512 < s.team.slotsUsed + need →
      exec (.stch g la slot sc rv ov av as) s = .next s) ∧
    (pageFaults ls xs = [] → s.stchOverflows accs = false →
      let ops := accs.map fun a => (a, (List.range 4).map fun j => s.grp.V (ov.val + j) a.lane)
      let isHeld := fun z : LaneAcc × List W32 => s.team.isShared z.1.va && !s.team.through
      let held := ops.filter isHeld
      let sent := ops.filter fun z => !isHeld z
      ∃ v, (∀ q l, l < 32 → mapGet 0 v (32 * q + l) =
          if (∃ z ∈ held, z.1.lane = l) ∧ rv.val ≤ q ∧ q < rv.val + 4 then 0 else s.grp.V q l) ∧
        let s2 := (s1.translated true accs).onCore (Core.l1Drop (sent.map fun z => z.1.key / 128))
        let s3 := if held.isEmpty then s2
          else s2.hold 0x80 held.length none none (held.map fun z => (z.1, .stitch slot.val z.1.va z.1.key z.2))
        let s4 := { s3 with grp := { s3.grp with v := v } }
        let done := s4.acquireMem s4.core.seq sc {}
        let s5 := if sent.isEmpty then
            (if held.isEmpty then done else { done with grp := { done.grp with fork := done.grp.fork.join (handing s4.core.seq s4) } })
          else posted
          { seq := s.core.seq, opc := 0x80, base := s.grp.base, slot := s.grp.pslot, count := some .stores, window := true,
            left := if s.grp.replay.isSome then 0 else la.val + 1, reads := (Instr.uses (.stch g la slot sc rv ov av as)).allReads,
            writes := (Instr.uses (.stch g la slot sc rv ov av as)).allWrites, stamp := stampOf s, nud := 0,
            kind := .stch slot.val sc rv (maskOf ((accs.filter fun a => s.team.isShared a.va).map (·.lane))) sent } s4
        exec (.stch g la slot sc rv ov av as) s = .next (issued (s.lanes g) s5)))

/-- 12 R207, R214, R219, R220, R222, R234: an invocation asks for its line, which is made resident first; then a poisoned line, a free slot, an
error in the routine as it is read from the table and an error in the line end the launch, in this order, the last poisoning the line, and the
lane's words at a machine-check are free values, while the other lanes go on (17 R268); else the home has the routine, holds the line and starts the
routine with L and OLD the line and M0 the target element; standard slots 23 and 24 end in ABORT where the old element is not A0. Once every lane
has its words the STCH completes, an acquire of what its lines handed on, and what happens before it happens before a later thread (13 R232).
Choices of the model: log entries 54, 66. -/
def Sys2Proof.Slice0.StitchEvents : Prop :=
  ∀ (c k i seq lane : Nat) (s x : State) (p : Pend) (sl : Nat) (sc : Scope) (rv : VReg) (zero : W32) (lanes : List (LaneAcc × List W32)),
    InFocus c k i s x → x.grp.findPend? seq = some p → p.kind = .stch sl sc rv zero lanes →
    (∀ a words, x.run = none → lanes.find? (fun z => z.1.lane == lane) = some (a, words) → x.writeBefore seq (a.key / 128) = false →
      ∃ b1 b2 b3 b4 q,
        let x1 := { x with access := b1, teamNow := b2, rlines := b3, fills := b4, grp := { x.grp with pend := q } }
        let asks := lane ∉ p.asked ∨ (x.lineThere a = false ∧ x.lineComes a.key = false)
        let stopped := fun (t : Trap) (ws : List W32) (y : State) => exec (.stitchInvocation c k i seq lane) s =
          .next (back s x (({ y with free := y.free + ws.length }.faultAt p t).onGrp (Group.laneDone seq lane ws)))
        let open4 := (List.range 4).map fun j => Config.checkWord (x.free + j)
        let cached := match routineUnit a.key with
          | some u => x.routines.find? fun r => r.unit == u && r.dev == x.dev.devid && r.ctx == x.team.ctx && r.slot == sl
          | none => none
        let found : Option (Bool × List Nat) := match cached with
          | some r => some (r.wide, r.words)
          | none => x.tableRoutine? x.team.ctx sl
        let readsBad := cached = none ∧ x.routineErrors.contains (x.team.ctx, sl) = true
        (¬ asks → x1 = x) ∧
        (asks → q = x.grp.pend.map fun z => if z.seq == seq then
          { z with asked := if z.asked.contains lane then z.asked else z.asked ++ [lane] } else z) ∧
        (x1.lineThere a = false → exec (.stitchInvocation c k i seq lane) s = .next (back s x x1)) ∧
        (x1.lineThere a = true → x.bad a.key = true → stopped (machineCheck 2 a.key) open4 x1) ∧
        (x1.lineThere a = true → x.bad a.key = false →
          (found = none → stopped { kind := 15, d0 := BitVec.ofNat 64 a.va, d1 := BitVec.ofNat 32 sl } [] x1) ∧
          (∀ wide code, found = some (wide, code) →
            (readsBad → stopped (machineCheck 1 a.key) open4 x1) ∧
            (¬ readsBad → x.lineErrors.contains (a.key / 128) = true →
              ∃ rs, stopped (machineCheck 0 a.key) open4 { x1 with
                routines := rs
                poisoned := if x.poisoned.contains (a.key / 128) then x.poisoned else x.poisoned ++ [a.key / 128]
                lineErrors := x.lineErrors.filter fun l => l != a.key / 128 }) ∧
            (¬ readsBad → x.lineErrors.contains (a.key / 128) = false →
              let words32 := (List.range 32).map fun j => BitVec.ofNat 32 (x.mem.word (a.key / 128 * 128 + 4 * j) 4)
              let off := a.key % 128 / (if wide then 8 else 4)
              let run : StitchRun := { core := c, slot := k, gid := i, seq := seq, lane := lane, ctx := x.team.ctx, key := a.key, wide := wide,
                                       code := code, pc := 0, l := words32, old := words32, t := List.replicate 4 (List.replicate 32 0),
                                       m := [if wide then 3#32 <<< (2 * off) else 1#32 <<< off, 0, 0, 0], a := words, off := off }
              ∃ rs, (∀ u, routineUnit a.key = some u → ∃ rest, rs = rest ++
                  [{ unit := u, dev := x.dev.devid, ctx := x.team.ctx, slot := sl, wide := wide, words := code }]) ∧
                exec (.stitchInvocation c k i seq lane) s = .next (back s x
                { x1 with routines := rs,
                          grp := { x1.grp with pend := q.map fun z => if z.seq == seq then
                            { z with got := z.got.join (handsOf x.team.ident (a.key / 128 * 128) 128 x.rels) } else z }
                          run := some (if (sl = 23 ∨ sl = 24) ∧ run.src 5 0 off ≠ run.src 8 0 off then
                            { run with code := code.dropLast ++ [encode (.abort (if sl = 24 then 2 else 1) 7 0)] } else run) }))))) ∧
    (lanes = [] → exec (.stchComplete c k i seq) s =
      .next ((back s x (let y := State.acquireMem seq sc p.got { x with grp := x.grp.dropPend seq }
        { y with grp := { y.grp with fork := y.grp.fork.join (if x.grp.pend.any fun q => q.isStore && decide (q.seq < p.seq) then p.know.join { upto := p.seq } else p.know) } })).reap))

/-- 23 R423, R424, 12 R216 to R218: STDEF waits while a stitch holds a line of its image or a load of its group has still to read a byte of it,
verifies the image and installs it in a free slot of the
context's table in memory, or answers VERIFY or INUSE with a detail in S[D]; STREL waits for an invocation that holds a line, frees a slot, whose
header in the table is then zero, and denies the standard ones. -/
def Sys2Proof.Slice0.StitchDefinition : Prop :=
  (∀ (d a b : SReg) (s : State), Clear (.stdef d a b) s →
    let img := (s.grp.S a.val).toNat
    let slot := (s.grp.S b.val).toNat
    let done := fun (y : State) (det : Nat) (code : BitVec 16) => ∃ m, exec (.stdef d a b) s =
        .next (issued y.grp.xm { y with grp := { y.grp with s := m, lstat := code } }) ∧
      ∀ q, mapGet 0 m q = if q = d.val then BitVec.ofNat 64 det else y.grp.S q
    (255 < slot → done s 0x42 0x8106) ∧
    (slot ≤ 255 → img % 8 ≠ 0 → exec (.stdef d a b) s =
      .next (s.takeFault 0x81 { kind := 10, cause := 0, d0 := BitVec.ofNat 64 img, d1 := 1 })) ∧
    (slot ≤ 255 → img % 8 = 0 → s.team.det = false → s.onceMay img 8 = false → exec (.stdef d a b) s = .next s) ∧
    (slot ≤ 255 → img % 8 = 0 → s.team.det = false → s.onceMay img 8 = true → ∀ h s1 bs s2, s.readOnce img 8 = .bytes h s1 →
      s1.onceMay img (8 + 4 * (leNat h / 2 ^ 16 % 16 + 1)) = true →
      s1.readOnce img (8 + 4 * (leNat h / 2 ^ 16 % 16 + 1)) = .bytes bs s2 → s1.team.det = false →
      let hdr := leNat (bs.take 8)
      let words := (List.range (hdr / 2 ^ 16 % 16 + 1)).map fun j => leNat ((bs.drop (8 + 4 * j)).take 4)
      let wide := (hdr / 2 ^ 8 % 2 == 1)
      let good := hdr % 2 ^ 8 = 1 ∧ hdr / 2 ^ 9 % 2 ^ 7 = 0 ∧ hdr / 2 ^ 20 % 2 ^ 44 = 0
      (¬ good → done s2 0x40 0x8106) ∧
      (good → ∀ det, verifyRoutine wide words = some det → done s2 det 0x8106) ∧
      (good → verifyRoutine wide words = none → ∀ c, s2.findCtx? s.team.ctx = some c →
        ((slot < 32 ∨ s2.mem.word (c.table + 128 * slot) 8 ≠ 0) → done s2 0x43 0x8105) ∧
        (32 ≤ slot → s2.mem.word (c.table + 128 * slot) 8 = 0 →
          done { s2 with mem := s2.mem.puts (tableCells c.table slot (Machine.imageBytes wide words)) } 0 0x8100)))) ∧
  (∀ (a : SReg) (s : State), Clear (.strel a) s → s.run ≠ none → exec (.strel a) s = .next s) ∧
  (∀ (a : SReg) (s : State), Clear (.strel a) s → s.run = none →
    let slot := (s.grp.S a.val).toNat
    ((slot < 32 ∨ 255 < slot) → exec (.strel a) s = .next (issued s.grp.xm { s with grp := { s.grp with lstat := 0x8201 } })) ∧
    (32 ≤ slot → slot ≤ 255 → ∀ c, s.findCtx? s.team.ctx = some c → exec (.strel a) s = .next (issued s.grp.xm
      { s with grp := { s.grp with lstat := 0x8200 }
               mem := s.mem.puts (tableCells c.table slot (leBytes 8 0))
               routines := s.routines.filter fun r => !(r.dev == s.dev.devid && r.ctx == s.team.ctx && r.slot == slot) })))

/-! ## Named barriers (20 R298 to R308) -/

namespace Sys2Proof.Slice0

/-- A group of the team waits on the barrier: in BARWAIT, BARSYNC or YIELD (20 Table 20-1). -/
def Waited (b : BReg) (s : State) : Prop := ∃ g ∈ s.teamGroups, match g.susp with
  | .bar c _ _ | .sync c | .yield c _ _ => c = b
  | _ => False

/-- A copy of the team names the barrier, and its arrival is neither made nor discarded (20 R302, R305). -/
def CopyDue (b : BReg) (s : State) : Prop :=
  ∃ g ∈ s.teamGroups, ∃ p ∈ g.pend, ∃ o w f k xs, p.kind = PKind.copy o w f (some b) false k xs

/-- A status in LSTAT (04 R89). -/
def stat (v : BitVec 16) (s : State) : State := { s with grp := { s.grp with lstat := v } }

/-- The next position of a group, its header first where the clause has ended (03 R52, R72). -/
def onward (g : Group) : Group :=
  { g with base := g.nextPos.1, pslot := g.nextPos.2, hdr := if g.nextPos.1 = g.base then g.hdr else none, enter := false }

/-- A waiter goes on with a status code: at its continuation after YIELD, else at the next instruction (20 R300, R305; 04 R88). -/
def goesOn (code : Nat) (g : Group) : Group :=
  match g.susp with
  | .bar _ _ opc => onward { g with susp := .ready, lstat := BitVec.ofNat 16 (256 * opc + code) }
  | .sync _ => onward { g with susp := .ready, lstat := BitVec.ofNat 16 (0x8600 + code) }
  | .yield _ _ t => { g with susp := .ready, lstat := BitVec.ofNat 16 (0x0700 + code), base := t, pslot := 0, hdr := none, enter := true }
  | _ => g

/-- The groups of the team through a function. -/
def inTeam (s : State) (f : Group → Group) (g : Group) : Group :=
  if g.live && g.core == s.team.core && g.slot == s.team.slot then f g else g

/-- What an arrival leaves of the state (20 R299, R300; 13 R237): ARR rises; where it reaches EXP it is 0, PH rises by one and the groups that
wait for an earlier phase go on with OK, knowing what the arrivals released. -/
def arrived (b : BReg) (know : Know) (s t : State) : Prop :=
  let x := s.team.bar b
  ∃ m f, t = { s with team := { s.team with bars := m }, grp := inTeam s f s.grp, groups := s.groups.map (inTeam s f) } ∧
    (∀ c : BReg, c ≠ b → t.team.bar c = s.team.bar c) ∧
    (x.arr + 1 ≠ x.exp → t.team.bar b = { x with arr := x.arr + 1, cur := x.cur.join know } ∧ ∀ g, f g = g) ∧
    (x.arr + 1 = x.exp → t.team.bar b = { x with arr := 0, ph := x.ph + 1, cur := x.cur.join know, done := x.done.join (x.cur.join know) } ∧
      ∀ g, (f g = g ∧ ∀ p o, g.susp ≠ .bar b p o ∧ g.susp ≠ .yield b p o) ∨
        (∃ p, ((∃ o, g.susp = .bar b p o) ∨ ∃ o, g.susp = .yield b p o) ∧
          f g = if p = x.ph + 1 then g else goesOn 0 { g with know := g.know.join (x.done.join (x.cur.join know)) }))

end Sys2Proof.Slice0

/-- 20 R303 to R305: BARINIT sets the participant count of a barrier that nothing waits on or will arrive at; BARKILL ends a barrier: its waiters
go on with KILLED and the arrivals of the team's copies are discarded; BARARR leaves an arrival to be made. -/
def Sys2Proof.Slice0.BarrierOperations : Prop :=
  (∀ (b : BReg) (a : SReg) (s : State), Clear (.barinit b a) s →
    let n := (s.grp.S a.val).toNat
    ((Waited b s ∨ CopyDue b s) → exec (.barinit b a) s = .next (issued s.grp.xm (stat 0x8302 s))) ∧
    (¬ (Waited b s ∨ CopyDue b s) → (n = 0 ∨ 65535 < n) → exec (.barinit b a) s = .next (issued s.grp.xm (stat 0x8307 s))) ∧
    (¬ (Waited b s ∨ CopyDue b s) → 1 ≤ n → n ≤ 65535 → ∃ m, exec (.barinit b a) s =
        .next (issued s.grp.xm (stat 0x8300 { s with team := { s.team with bars := m } })) ∧
      ∀ c : BReg, mapGet {} m c.val = if c = b then { init := true, exp := n, ph := (s.team.bar b).ph } else s.team.bar c)) ∧
  (∀ (b : BReg) (s : State), Clear (.barkill b) s →
    ((s.team.bar b).init = false → ¬ Waited b s → ¬ CopyDue b s → exec (.barkill b) s = .next (issued s.grp.xm (stat 0x8704 s))) ∧
    (((s.team.bar b).init = true ∨ Waited b s ∨ CopyDue b s) → ∃ m f, exec (.barkill b) s =
        .next (issued s.grp.xm (stat 0x8700 { s with
          team := { s.team with bars := m }, grp := inTeam s f s.grp, groups := s.groups.map (inTeam s f) })) ∧
      (∀ c : BReg, mapGet {} m c.val = if c = b then { exp := (s.team.bar b).exp, ph := (s.team.bar b).ph } else s.team.bar c) ∧
      ∀ g, (∃ q, f g = { (match g.susp with
          | .bar c _ _ | .sync c | .yield c _ _ => if c = b then goesOn 3 g else g
          | _ => g) with pend := q } ∧ q.length = g.pend.length ∧
        ∀ j (h : j < g.pend.length), q[j]? = some (match g.pend[j].kind with
          | .copy o w u (some c) _ k xs => if c = b then { g.pend[j] with kind := .copy o w u (some c) true k xs } else g.pend[j]
          | _ => g.pend[j])))) ∧
  (∀ (b : BReg) (tok : Option SReg) (s : State),
    let i := match tok with
      | some d => Instr.bararrToken b d
      | none => Instr.bararr b
    Clear i s → exec i s = .next (issued s.grp.xm (posted
      { seq := s.core.seq, opc := 0x84, base := s.grp.base, slot := s.grp.pslot, count := none, window := false, left := 0, reads := [],
        writes := kLstat :: (match tok with
          | some d => [kS d.val]
          | none => []),
        stamp := 0, nud := 0, kind := .arrive b tok (handing s.core.seq s) } s)))

/-- 20 R307, R308: BARWAIT waits for the end of the current phase, or of the phase that it names; where that has ended it completes at once with
what the phases hand on. BARSYNC waits for its own arrival. A barrier that is not initialised answers NOTINIT. -/
def Sys2Proof.Slice0.BarrierWaits : Prop :=
  ∀ (b : BReg) (s : State),
    (∀ i p, ((i = .barwait b ∧ p = (s.team.bar b).ph) ∨ ∃ a, i = .barwaitPhase b a ∧ p = (s.grp.S a.val).setWidth 32) → Clear i s →
      ((s.team.bar b).init = false → exec i s = .next (issued s.grp.xm (stat 0x8504 s))) ∧
      ((s.team.bar b).init = true → (s.team.bar b).ph ≠ p → exec i s = .next (issued s.grp.xm
        (stat 0x8500 { s with grp := { s.grp with know := s.grp.know.join (s.team.bar b).done } }))) ∧
      ((s.team.bar b).init = true → (s.team.bar b).ph = p →
        exec i s = .next (let t := counted s.grp.xm s; { t with grp := { t.grp with susp := .bar b p 0x85 } }))) ∧
    (Clear (.barsync b) s →
      ((s.team.bar b).init = false → exec (.barsync b) s = .next (issued s.grp.xm (stat 0x8604 s))) ∧
      ((s.team.bar b).init = true →
        exec (.barsync b) s = .next (let t := counted s.grp.xm s; { t with grp := { t.grp with susp := .sync b } })))

namespace Sys2Proof.Slice0

/-- The accesses of the group before the place `seq` in its core's order have performed at team scope (13 R229), but for those that a successor
chain carries on. -/
def ArrivalDue (seq : Nat) (x : State) : Prop := ∀ q ∈ x.grp.pend, q.seq < seq → match q.kind with
  | .load _ _ _ _ _ _ | .mldb _ | .stch _ _ _ _ _ => q.carried = true
  | _ => True

end Sys2Proof.Slice0

/-- 20 R299, R303, R307, 13 R229: the arrival of a BARARR or a BARSYNC is made once what is ordered before it has performed; a token receives the
phase before it; the BARSYNC goes on with its own arrival's phase, or waits for its end. A parked team is unparked first (16 R261); where it
cannot be yet, or an access before it has still to perform, the arrival waits. -/
def Obligations.BarrierArrivals : Prop :=
  (∀ (c k i seq : Nat) (s u : State), InFocus c k i s u → u.unparked? = none → exec (.bararrArrival c k i seq) s = .next s ∧
    exec (.barsyncArrival c k i) s = .next s) ∧
  (∀ (c k i seq : Nat) (s u x : State) (p : Pend) (b : BReg) (tok : Option SReg) (know : Know),
    ArrivesIn c k i s u x → x.grp.findPend? seq = some p → p.kind = .arrive b tok know →
    (¬ ArrivalDue seq x ∨ (∃ q ∈ x.grp.pend, q.seq < seq ∧ ∃ b' t' k', q.kind = .arrive b' t' k') →
      exec (.bararrArrival c k i seq) s = .next (back s u x)) ∧
    (ArrivalDue seq x → (∀ q ∈ x.grp.pend, q.seq < seq → ∀ b' t' k', q.kind ≠ .arrive b' t' k') →
    let x1 := { x with grp := x.grp.dropPend seq }
    ((x.team.bar b).init = false → exec (.bararrArrival c k i seq) s = .next (back s u (stat 0x8404 x1))) ∧
    ((x.team.bar b).init = true → ∃ m y, exec (.bararrArrival c k i seq) s = .next (back s u (stat 0x8400 y)) ∧
      arrived b know { x1 with grp := { x1.grp with s := m } } y ∧
      ∀ q, mapGet 0 m q = match tok with
        | some d => if q = d.val then (x.team.bar b).ph.setWidth 64 else x.grp.S q
        | none => x.grp.S q))) ∧
  (∀ (c k i : Nat) (s u x : State) (b : BReg), ArrivesIn c k i s u x → x.grp.susp = .sync b → (x.team.bar b).init = true →
    (¬ ArrivalDue x.core.seq x → exec (.barsyncArrival c k i) s = .next (back s u x)) ∧
    (ArrivalDue x.core.seq x → ∃ y, arrived b (handing x.core.seq x) x y ∧ exec (.barsyncArrival c k i) s = .next (back s u (
      if (y.team.bar b).ph = (x.team.bar b).ph then { y with grp := { y.grp with susp := .bar b (x.team.bar b).ph 0x86 } }
      else { y with grp := goesOn 0 { y.grp with know := y.grp.know.join (y.team.bar b).done } }))))

/-! ## Stage rings (22 R390 to R396) -/

namespace Sys2Proof.Slice0

/-- A ring's entries in use (22 R391). -/
def inRing (t : Team) (j : Fin 8) : Nat := ((t.ring j).tail + 2 * (t.ring j).cap - (t.ring j).head) % (2 * (t.ring j).cap)

/-- What RPUT does once its accesses have performed and the ring is not full (22 R391, R396). -/
def Put (j : Fin 8) (a : SReg) (s t : State) : Prop :=
  let r := s.team.ring j
  ∃ m pool know, t = stat 0x8A00 { s with team := { s.team with rings := m, pool := pool, poolKnow := know } } ∧
    (∀ k : Fin 8, mapGet {} m k.val = if k = j then { r with tail := (r.tail + 1) % (2 * r.cap) } else s.team.ring k) ∧
    (∀ e, mapGet 0 pool e = if e = r.first + r.tail % r.cap then s.grp.S a.val else mapGet 0 s.team.pool e) ∧
    (know.find? fun x => x.1 == r.first + r.tail % r.cap) = some (r.first + r.tail % r.cap, handing s.core.seq s)

/-- What RGET does where the ring is not empty (22 R394, 13 R237). -/
def Got (j : Fin 8) (d : SReg) (s t : State) : Prop :=
  let r := s.team.ring j
  let e := r.first + r.head % r.cap
  ∃ m v, t = stat 0x8B00 { s with
      team := { s.team with rings := m }
      grp := { s.grp with s := v, know := s.grp.know.join (((s.team.poolKnow.find? fun x => x.1 == e).map (·.2)).getD {}) } } ∧
    (∀ k : Fin 8, mapGet {} m k.val = if k = j then { r with head := (r.head + 1) % (2 * r.cap) } else s.team.ring k) ∧
    (∀ q, mapGet 0 v q = if q = d.val then mapGet 0 s.team.pool e else s.grp.S q)

/-- The group goes on from a suspension with the next instruction. -/
def resumed (s : State) : State := { s with grp := onward { s.grp with susp := .ready } }

end Sys2Proof.Slice0

/-- 22 R392, R393: where a ring changes, the groups of its team that wait on it are evaluated, in the order of their quadrants: one is evaluated in
its own focus, each again as far as another changed the ring, and none where nobody waits. A waiting form whose ring is freed completes with
NOTINIT, one whose ring has an entry for it does its transfer, and each goes on with the next instruction. The order of the waiters of one
quadrant, by GID, and the passes in which they are evaluated again are the model's choice: log entry 7. -/
def Sys2Proof.Slice0.RingWaiters : Prop :=
  ∀ (j : Fin 8) (r : Ring) (s : State),
    (s.team.ring j = r → s.ringWake j r = s) ∧
    ((∀ g ∈ s.teamGroups, ∀ put a, g.susp ≠ .ring j put a) → s.ringWake j r = s) ∧
    (s.team.ring j ≠ r → ∀ g, s.teamGroups.filter (Group.waitsRing j) = [g] →
      s.ringWake j r = s.withFocus s.team.core s.team.slot g.gid State.ringAgain) ∧
    (s.team.ring j ≠ r → ∀ ws : List Nat, ws.Perm ((s.teamGroups.filter (Group.waitsRing j)).map (·.gid)) →
      ws.Pairwise (fun a b => a % 4 < b % 4 ∨ a % 4 = b % 4 ∧ a ≤ b) →
      s.ringWake j r = (ws.flatMap fun _ => ws).foldl (fun t i => t.withFocus s.team.core s.team.slot i State.ringAgain) s) ∧
    (∀ put a, s.grp.susp = .ring j put a → (s.team.ring j).init = false → s.ringAgain = resumed (stat (if put then 0x8A04 else 0x8B04) s)) ∧
    (∀ a, s.grp.susp = .ring j true a → (s.team.ring j).init = true →
      (inRing s.team j = (s.team.ring j).cap → s.ringAgain = s) ∧
      (inRing s.team j ≠ (s.team.ring j).cap → ∃ t, Put j a s t ∧ s.ringAgain = resumed t)) ∧
    (∀ a, s.grp.susp = .ring j false a → (s.team.ring j).init = true →
      ((s.team.ring j).tail = (s.team.ring j).head → s.ringAgain = s) ∧
      ((s.team.ring j).tail ≠ (s.team.ring j).head → ∃ t, Got j a s t ∧ s.ringAgain = resumed t))

/-- 22 R393, R395: RNGA takes the lowest run of free entries of the pool for an empty ring; RFREE gives the ring's entries back, and its waiters are
evaluated. -/
def Sys2Proof.Slice0.RingAllocation : Prop :=
  (∀ (j : Fin 8) (a : SReg) (s : State), Clear (.rnga j a) s →
    let n := (s.grp.S a.val).toNat
    let free := fun f => f + n ≤ 128 ∧ ∀ k : Fin 8, (s.team.ring k).init = true → ∀ e, f ≤ e → e < f + n →
      e < (s.team.ring k).first ∨ (s.team.ring k).first + (s.team.ring k).cap ≤ e
    ((s.team.ring j).init = true → exec (.rnga j a) s = .next (issued s.grp.xm (stat 0x8901 s))) ∧
    ((s.team.ring j).init = false → (n = 0 ∨ 128 < n ∨ ∀ f, ¬ free f) → exec (.rnga j a) s = .next (issued s.grp.xm (stat 0x8907 s))) ∧
    ((s.team.ring j).init = false → 1 ≤ n → n ≤ 128 → ∀ f, free f → (∀ f', f' < f → ¬ free f') →
      ∃ m, exec (.rnga j a) s = .next (issued s.grp.xm (stat 0x8900 { s with team := { s.team with rings := m } })) ∧
        ∀ k : Fin 8, mapGet {} m k.val = if k = j then { init := true, cap := n, first := f } else s.team.ring k)) ∧
  (∀ (j : Fin 8) (s : State), Clear (.rfree j) s →
    ((s.team.ring j).init = false → exec (.rfree j) s = .next (issued s.grp.xm (stat 0x8C04 s))) ∧
    ((s.team.ring j).init = true → ∃ m pool, exec (.rfree j) s =
        .next (issued s.grp.xm ((stat 0x8C00 { s with team := { s.team with rings := m, pool := pool } }).ringWake j (s.team.ring j))) ∧
      (∀ k : Fin 8, mapGet {} m k.val = if k = j then {} else s.team.ring k) ∧
      ∀ e, mapGet 0 pool e = if (s.team.ring j).first ≤ e ∧ e < (s.team.ring j).first + (s.team.ring j).cap then 0
        else mapGet 0 s.team.pool e))

/-- 22 R391, R392, R394, R396: RPUT and RGET complete at once, or their waiting forms wait until an entry is free or held; RPUT first waits for the
accesses before it, and where its ring has been freed by then it completes with NOTINIT. An event completes a waiting one. Each change of the ring
evaluates its waiters (their order: log entry 7). -/
def Sys2Proof.Slice0.RingTransfers : Prop :=
  (∀ (j : Fin 8) (a : SReg) (waits : Bool) (s : State),
    let i := if waits then Instr.rputW j a else Instr.rput j a
    Clear i s →
    (s.releaseReady .team = false → exec i s = .next (let t := counted s.grp.xm s; { t with grp := { t.grp with susp := .rput j waits a } })) ∧
    (s.releaseReady .team = true →
      ((s.team.ring j).init = false → exec i s = .next (issued s.grp.xm (stat 0x8A04 s))) ∧
      ((s.team.ring j).init = true → inRing s.team j = (s.team.ring j).cap → exec i s =
        .next (if waits then (let t := counted s.grp.xm s; { t with grp := { t.grp with susp := .ring j true a } })
          else issued s.grp.xm (stat 0x8A09 s))) ∧
      ((s.team.ring j).init = true → inRing s.team j ≠ (s.team.ring j).cap →
        ∃ t, Put j a s t ∧ exec i s = .next ((issued s.grp.xm t).ringWake j (s.team.ring j))))) ∧
  (∀ (j : Fin 8) (d : SReg) (waits : Bool) (s : State),
    let i := if waits then Instr.rgetW j d else Instr.rget j d
    Clear i s →
    ((s.team.ring j).init = false → exec i s = .next (issued s.grp.xm (stat 0x8B04 s))) ∧
    ((s.team.ring j).init = true → (s.team.ring j).tail = (s.team.ring j).head → exec i s =
      .next (if waits then (let t := counted s.grp.xm s; { t with grp := { t.grp with susp := .ring j false d } })
        else issued s.grp.xm (stat 0x8B08 s))) ∧
    ((s.team.ring j).init = true → (s.team.ring j).tail ≠ (s.team.ring j).head →
      ∃ t, Got j d s t ∧ exec i s = .next ((issued s.grp.xm t).ringWake j (s.team.ring j)))) ∧
  (∀ (c k i : Nat) (s x : State) (j : Fin 8) (a : SReg), InFocus c k i s x →
    (∀ put, x.grp.susp = .ring j put a → (x.team.ring j).init = false →
      exec (.ringReevaluate c k i) s = .next (back s x (resumed (stat (if put then 0x8A04 else 0x8B04) x)))) ∧
    (x.grp.susp = .ring j true a → (x.team.ring j).init = true → inRing x.team j ≠ (x.team.ring j).cap →
      ∃ t, Put j a x t ∧ exec (.ringReevaluate c k i) s = .next (back s x ((resumed t).ringWake j (x.team.ring j)))) ∧
    (x.grp.susp = .ring j false a → (x.team.ring j).init = true → (x.team.ring j).tail ≠ (x.team.ring j).head →
      ∃ t, Got j a x t ∧ exec (.ringReevaluate c k i) s = .next (back s x ((resumed t).ringWake j (x.team.ring j)))) ∧
    (∀ waits, x.grp.susp = .rput j waits a → x.releaseReady .team = false → exec (.rputPlacement c k i) s = .next s) ∧
    (∀ waits, x.grp.susp = .rput j waits a → x.releaseReady .team = true → (x.team.ring j).init = false →
      exec (.rputPlacement c k i) s = .next (back s x (resumed (stat 0x8A04 x)))) ∧
    (∀ waits, x.grp.susp = .rput j waits a → x.releaseReady .team = true → (x.team.ring j).init = true →
      (inRing x.team j ≠ (x.team.ring j).cap →
        ∃ t, Put j a x t ∧ exec (.rputPlacement c k i) s = .next (back s x ((resumed t).ringWake j (x.team.ring j)))) ∧
      (inRing x.team j = (x.team.ring j).cap → exec (.rputPlacement c k i) s = .next (back s x (
        if waits then { x with grp := { x.grp with susp := .ring j true a } } else resumed (stat 0x8A09 x))))))

/-! ## The matrix engine (10 R185 to R204) -/

namespace Sys2Proof.Slice0

/-- The configuration word of an MMA or MLDB keeps 10 Table 10-2, in a gang of m members. -/
def CfgOk (f : MFmt) (m : Nat) (scaled : Bool) (w : Nat) : Prop :=
  1 ≤ w % 512 ∧ w % 512 ≤ (if f = .f64 then 192 else if 5 ≤ m then 384 else 256) ∧ (scaled = true → w / 512 % 8 + 1 ≤ 4) ∧
  (w / 2 ^ 12 % 2 = 1 → f.isLx = false) ∧ w < 2 ^ 42

/-- The offset and the row stride of an operand are aligned, and every element lies within the buffer (10 R196). -/
def ElemsIn (sp : Space) (w off rs : Nat) (es : List (Nat × Nat)) (s : State) : Prop :=
  off % w = 0 ∧ rs % w = 0 ∧ ∀ e ∈ es, e.2 + w ≤ s.spaceSize sp

/-- The fault of the elements, each with its row or lane, that a check turns away: it names the first of the lowest row, and all of the rows
(17 Table 17-3). -/
def strays (kind : Nat) (sp : Space) (bad : Nat → Bool) (es : List (Nat × Nat)) (t : Trap) : Prop :=
  ∃ e, es.find? (fun z => bad z.2 && z.1 == e.1) = some e ∧ (∀ z ∈ es, bad z.2 = true → e.1 ≤ z.1) ∧
    t.kind = kind ∧ t.cause = (match sp with | .glob => 0 | .w => 1 | .a => 2 | .d => 3 | .priv => 4) ∧ t.lane = 0 ∧ t.d0 = BitVec.ofNat 64 e.2 ∧
    ∀ l, l < 32 → (t.d1.getLsbD l = true ↔ ∃ z ∈ es, z.1 = l ∧ bad z.2 = true)

/-- The checks of a matrix operand in its buffer, in order: an offset or a row stride that is not aligned, also where every element is (log entry
63), then an element beyond the buffer. -/
def TileFaults (opc : Nat) (sp : Space) (w off rs : Nat) (es : List (Nat × Nat)) (i : Instr) (s : State) : Prop :=
  ((off % w ≠ 0 ∨ rs % w ≠ 0) →
    (∀ t, strays 10 sp (fun o => decide (o % w ≠ 0)) es t → exec i s = .next (s.takeFault opc t)) ∧
    ((∀ e ∈ es, e.2 % w = 0) → exec i s = .next (s.takeFault opc { kind := 10, cause := Space.code sp }))) ∧
  (off % w = 0 → rs % w = 0 → ∀ t, strays 11 sp (fun o => decide (s.spaceSize sp < o + w)) es t → exec i s = .next (s.takeFault opc t))

/-- The fault of the first of these ranges of V registers, each with its length, that goes beyond the cap. -/
def RangeFaults (opc : Nat) (rs : List (Nat × Nat)) (i : Instr) (s : State) : Prop :=
  ∀ r, rs.find? (fun r => decide (0 < r.2) && decide (s.grp.vcap < r.1 + r.2)) = some r →
    exec i s = .next (s.takeFault opc { kind := 12, cause := 0, d0 := BitVec.ofNat 64 (max r.1 s.grp.vcap), d1 := BitVec.ofNat 32 s.grp.vcap })

/-- A pending operation of the group reads or writes one of the registers, so that the instruction waits (03 R59). -/
def Unready (reads writes : List Nat) (s : State) : Prop :=
  ∃ p ∈ s.grp.pend, (∃ k ∈ reads, k ∈ p.writes) ∨ ∃ k ∈ writes, k ∈ p.reads ∨ k ∈ p.writes

/-- The registers of a range. -/
def regKeys (first n : Nat) : List Nat := (List.range n).map fun j => kV (first + j)

/-- How many columns of B a lane group holds in one register, and the registers of one step (10 R195). -/
def stepRegs (f : MFmt) (n m : Nat) : Nat := ((n + m - 1) / m + f.cpr - 1) / f.cpr

end Sys2Proof.Slice0

/-- 10 R185, R188, R198, R202: MGANG sets the buckle of a legal gang and faults for another; MMA and MLDB take the fault of the first check that
they break: an empty buckle, a descriptor that breaks its table, registers beyond the cap, a misaligned operand, an element beyond its buffer;
they stay where a register is not ready; then MMA arrives at the latch, and takes a gang fault where a latched member disagrees, and MLDB
leaves B's registers to be loaded. Outside a `mat` role or an M clause each takes a role fault.
Choices of the model: log entries 39, 63. -/
def Obligations.MatrixIssue : Prop :=
  ∀ s : State,
    (∀ i opc, ((∃ a, i = Instr.mgang a ∧ opc = 0x90) ∨ (∃ la f sc zc c bv ds, i = Instr.mma la f sc zc c bv ds ∧ opc = 0x91) ∨
        (∃ la f fa bv ds nud, i = Instr.mldb la f fa bv ds nud ∧ opc = 0x93) ∨
        ∃ la add d ct sc c ds nud, i = Instr.mdrain la add d ct sc c ds nud ∧ opc = 0x92) →
      s.grp.windowShut i = false → ¬ InRole .mat .m s → exec i s = .next (s.takeFault opc { kind := 6 })) ∧
    (InRole .mat .m s →
      (∀ a, Clear (.mgang a) s →
        (s.buckleBad (s.grp.S a.val) = false → exec (.mgang a) s =
          .next (issued s.grp.xm { s with grp := { s.grp with buckle := s.grp.S a.val } })) ∧
        (s.buckleBad (s.grp.S a.val) = true → exec (.mgang a) s =
          .next (s.takeFault 0x90 { kind := 14, cause := 0, d0 := s.grp.S a.val }))) ∧
      (∀ la f sc zc c bv ds, Clear (.mma la f sc zc c bv ds) s →
        let a := (s.grp.S ds.val).toNat
        let w := (s.grp.S (ds.val + 1)).toNat
        let m := (s.gangSet s.grp).length
        let n := w % 512
        let ks := w / 512 % 8 + 1
        let acc := regKeys c.val (if f = .f64 then 2 * n else n)
        let others := regKeys bv.val (ks * stepRegs f n m) ++ (match sc with
          | some (sv, _) => regKeys sv.val (m + if f = .lx2bf16 then 0 else (n + 31) / 32)
          | none => [])
        (s.grp.buckle = 0 → exec (.mma la f sc zc c bv ds) s =
          .next (s.takeFault 0x91 { kind := 14, cause := 1, d0 := s.grp.buckle })) ∧
        (s.grp.buckle ≠ 0 → ¬ ((a / 2 ^ 20 = 1 ∨ a / 2 ^ 20 = 2) ∧ CfgOk f m sc.isSome w) → exec (.mma la f sc zc c bv ds) s =
          .next (s.takeFault 0x91 { kind := 14, cause := 2, d0 := s.grp.buckle })) ∧
        (s.grp.buckle ≠ 0 → (a / 2 ^ 20 = 1 ∨ a / 2 ^ 20 = 2) → CfgOk f m sc.isSome w →
          RangeFaults 0x91 ([(c.val, if f = .f64 then 2 * n else n), (bv.val, ks * stepRegs f n m)] ++ (match sc with
            | some (sv, _) => [(sv.val, m + if f = .lx2bf16 then 0 else (n + 31) / 32)]
            | none => [])) (.mma la f sc zc c bv ds) s) ∧
        (s.grp.buckle ≠ 0 → (a / 2 ^ 20 = 1 ∨ a / 2 ^ 20 = 2) → CfgOk f m sc.isSome w → (∀ k ∈ acc ++ others, k < s.grp.vcap) →
          let sp : Space := if a / 2 ^ 20 = 1 then .w else .a
          let es := aElems f (mcfg w) (a % 2 ^ 20)
          let reads := [kS ds.val, kS (ds.val + 1)] ++ others ++ if zc then [] else acc
          let writes := acc
          TileFaults 0x91 sp f.aw (a % 2 ^ 20) (mcfg w).rs es (.mma la f sc zc c bv ds) s ∧
          (ElemsIn sp f.aw (a % 2 ^ 20) (mcfg w).rs es s → Unready reads writes s →
            exec (.mma la f sc zc c bv ds) s = .next (s.stayOn 0x91 reads writes)) ∧
          (ElemsIn sp f.aw (a % 2 ^ 20) (mcfg w).rs es s → ¬ Unready reads writes s → sp = .a → (∃ g ∈ s.teamGroups, g.resizing = true) →
            exec (.mma la f sc zc c bv ds) s = .next s) ∧
          (ElemsIn sp f.aw (a % 2 ^ 20) (mcfg w).rs es s → ¬ Unready reads writes s →
          (sp = .a → ∀ g ∈ s.teamGroups, g.resizing = false) →
          let l : Latch := ⟨la.val, f, sc, zc, c, bv, ds⟩
          (s.disagrees l = false → exec (.mma la f sc zc c bv ds) s =
            .next { s with grp := { s.grp with susp := .latched, latch := some l } }) ∧
          (s.disagrees l = true → exec (.mma la f sc zc c bv ds) s =
            .next (s.takeFault 0x91 { kind := 14, cause := 3, d0 := s.grp.buckle }))))) ∧
      (∀ la f fromA bv ds nud, Clear (.mldb la f fromA bv ds nud) s →
        let a := (s.grp.S ds.val).toNat
        let w := (s.grp.S (ds.val + 1)).toNat
        let set := s.gangSet s.grp
        let n := w % 512
        let ks := w / 512 % 8 + 1
        let sp : Space := if fromA then .a else .w
        let q := set.findIdx fun r => r == s.grp.ref
        let b := regKeys bv.val (ks * stepRegs f n set.length)
        let es := mldbElems f (mcfg w) a q set.length
        (s.grp.buckle = 0 → exec (.mldb la f fromA bv ds nud) s =
          .next (s.takeFault 0x93 { kind := 14, cause := 1, d0 := s.grp.buckle })) ∧
        (s.grp.buckle ≠ 0 → ¬ (a < 2 ^ 20 ∧ CfgOk f set.length false w) → exec (.mldb la f fromA bv ds nud) s =
          .next (s.takeFault 0x93 { kind := 14, cause := 2, d0 := s.grp.buckle })) ∧
        (s.grp.buckle ≠ 0 → a < 2 ^ 20 → CfgOk f set.length false w →
          RangeFaults 0x93 [(bv.val, ks * stepRegs f n set.length)] (.mldb la f fromA bv ds nud) s) ∧
        (s.grp.buckle ≠ 0 → a < 2 ^ 20 → CfgOk f set.length false w → (∀ k ∈ b, k < s.grp.vcap) →
          TileFaults 0x93 sp f.bw a (mcfg w).rs es (.mldb la f fromA bv ds nud) s) ∧
        (s.grp.buckle ≠ 0 → a < 2 ^ 20 → CfgOk f set.length false w → (∀ k ∈ b, k < s.grp.vcap) → ElemsIn sp f.bw a (mcfg w).rs es s →
          Unready [kS ds.val, kS (ds.val + 1)] b s →
          exec (.mldb la f fromA bv ds nud) s = .next (s.stayOn 0x93 [kS ds.val, kS (ds.val + 1)] b)) ∧
        (s.grp.buckle ≠ 0 → a < 2 ^ 20 → CfgOk f set.length false w → (∀ k ∈ b, k < s.grp.vcap) → ElemsIn sp f.bw a (mcfg w).rs es s →
        ¬ Unready [kS ds.val, kS (ds.val + 1)] b s →
        exec (.mldb la f fromA bv ds nud) s = .next (issued s.grp.xm (posted
          { seq := s.core.seq, opc := 0x93, base := s.grp.base, slot := s.grp.pslot, count := some .loads, window := true,
            left := if s.grp.replay.isSome then 0 else la.val + 1, reads := [kS ds.val, kS (ds.val + 1)], writes := b, stamp := stampOf s,
            nud := nud.toNat, kind := .mldb ((mldbParts f (mcfg w) a q set.length bv).map fun x => (x.1, x.2.map fun o => bufBase sp + o)) }
          (spent (unitCount sp f.bw (es.map (·.2))) s))))))

namespace Sys2Proof.Slice0

/-- One member of rank q issues its MMA (10 R199): it counts, and leaves its tile to be written, whose values are those of MatrixValues. -/
def memberIssues (ms : List Group) (q : Nat) (l : Latch) (g : Group) (s : State) : State :=
  let a := (s.grp.S l.ds.val).toNat
  let k := mcfg (s.grp.S (l.ds.val + 1)).toNat
  let u := mmaUses l.fmt l.scale l.zc l.c l.bv l.ds ms.length k
  let t := issued s.grp.xm (posted
    { seq := s.core.seq, opc := 0x91, base := s.grp.base, slot := s.grp.pslot, count := some .matrix, window := true,
      left := if s.grp.replay.isSome then 0 else l.la + 1, reads := u.1,
      writes := u.2 ++ (if l.fmt = .i8 then [] else [kAcc]), stamp := stampOf s, nud := 0,
      kind := .mma (mmaResults l s.team ms q g) }
    (spent (unitCount .w l.fmt.aw ((aElems l.fmt k (a % 2 ^ 20)).map (·.2))) s))
  { t with grp := { t.grp with susp := .ready, latch := none } }

/-- Accumulator element (i, c) of a member of rank q after the MMA: one exact sum of the old value and the products, rounded once, or for I8
their sum modulo 2^32 (10 R199, 05 R110). -/
def tileValue (l : Latch) (t : Team) (ms : List Group) (q : Nat) (g : Group) (i c : Nat) : Nat :=
  let kt := l.fmt.kb * ((g.S (l.ds.val + 1)).toNat / 512 % 8 + 1)
  let old := if l.fmt = .f64 then (g.V64 (l.c.val + 2 * c) i).toNat else (g.V (l.c.val + c) i).toNat
  if l.fmt = .i8 then
    (((if l.zc then 0 else (old : Int)) + ((List.range kt).map fun k =>
      FVal.toInt (aElem l t g q i k) * FVal.toInt (bElem l ms (mcfg (g.S (l.ds.val + 1)).toNat).n k c)).sum) % 2 ^ 32).toNat
  else
    let fmt := if l.fmt = .f64 then F64 else F32
    (fmt.sum .rne ((if l.zc then FVal.fin false 0 0 else fmt.val old).term :: (List.range kt).map fun k =>
      prodTerm (aElem l t g q i k) (bElem l ms (mcfg (g.S (l.ds.val + 1)).toNat).n k c))).1

end Sys2Proof.Slice0

/-- 10 R188, 09 R174: once every member of a gang set is latched, the MMA issues in each of them; in one cycle, so that their reuse clocks advance
in increasing quadrant number, in one quadrant by rank. A halt of a member's cell stops it (10 R191), and so does a RESIZE of a team whose
A-buffer a member reads (08 R160), and a load of a member that has still to read bytes of its A operand (13 R229, R232).
Choices of the model: log entries 7, 9. -/
def Sys2Proof.Slice0.MatrixRendezvous : Prop :=
  ∀ (c k i : Nat) (s : State) (g : Group) (ms : List Group), s.findGroup? c k i = some g → g.susp = .latched →
    (s.gangSet g).map s.groupAt? = ms.map some → (∀ x ∈ ms, x.susp = .latched ∧ x.latch.isSome = true) →
    ((s.gangStopped ms = true ∨ ∃ x ∈ ms, x.aBehind = true) → exec (.mmaRendezvous c k i) s = .next s) ∧
    (s.gangStopped ms = false → (∀ x ∈ ms, x.aBehind = false) → exec (.mmaRendezvous c k i) s =
      .next (((List.range 4).flatMap fun q => ms.zipIdx.filter fun x => x.1.gid % 4 == q).foldl (fun t x =>
        match x.1.latch with
        | none => t
        | some l => t.withFocus x.1.core x.1.slot x.1.gid (memberIssues ms x.2 l x.1)) s))

/-- 10 R196, R199, 05 R110, R113: the results of an MMA, once written, are the tile of its N columns in its 32 rows; every other V register stays,
and FPCR only gains flags. -/
def Obligations.MatrixValues : Prop :=
  ∀ (l : Latch) (t : Team) (ms : List Group) (q : Nat) (g h : Group),
    let n := (g.S (l.ds.val + 1)).toNat % 512
    let r := h.apply (mmaResults l t ms q g)
    (∀ i c, i < 32 → c < n → if l.fmt = .f64 then r.V64 (l.c.val + 2 * c) i = BitVec.ofNat 64 (tileValue l t ms q g i c)
      else r.V (l.c.val + c) i = BitVec.ofNat 32 (tileValue l t ms q g i c)) ∧
    (∀ x i, i < 32 → (x < l.c.val ∨ l.c.val + (if l.fmt = .f64 then 2 * n else n) ≤ x) → r.V x i = h.V x i) ∧
    (∃ m f, r = { h with v := m, fpcr := f } ∧ h.fpcr &&& f = h.fpcr)

/-- 03 Table 3-2: the results of long-latency arithmetic and of an MMA are written when they complete, and nothing else is; MLDB writes each register
lane from its four bytes of the buffer, zero where the lane holds no column (10 R202), once the group's earlier loads have read those bytes (13
R225, R229), and what those bytes hand on counts for a later FENCE (13 R230). -/
def Sys2Proof.Slice0.ResultsWritten : Prop :=
  ∀ (c k i seq : Nat) (s x : State) (p : Pend), InFocus c k i s x → x.grp.findPend? seq = some p →
    (∀ res, p.kind = .arith res ∨ p.kind = .mma res → ∃ v m f,
        (p.kind = .arith res → exec (.arithComplete c k i seq) s = .next (back s x { x with
          grp := { x.grp with v := v, s := m, fpcr := f, pend := x.grp.pend.filter fun q => q.seq != seq } })) ∧
        (p.kind = .mma res → exec (.matrixComplete c k i seq) s = .next (back s x { x with
          grp := { x.grp with v := v, s := m, fpcr := f, pend := x.grp.pend.filter fun q => q.seq != seq } })) ∧
        (∀ key, mapGet 0 v key = ((res.v.reverse.find? fun e => e.1 == key).map (·.2)).getD (mapGet 0 x.grp.v key)) ∧
        (∀ key, mapGet 0 m key = ((res.s.reverse.find? fun e => e.1 == key).map (·.2)).getD (mapGet 0 x.grp.s key)) ∧
        f = x.grp.fpcr ||| BitVec.ofNat 5 res.flags) ∧
    (∀ parts lanes, p.kind = .mldb parts → x.grp.partsBehind seq parts = true → exec (.loadComplete c k i seq lanes) s = .next s) ∧
    (∀ parts lanes, p.kind = .mldb parts → x.grp.partsBehind seq parts = false → ∃ v, exec (.loadComplete c k i seq lanes) s = .next (back s x { x with
          grp := { x.grp with v := v, readKnow := x.grp.readKnow.join (p.got.join (x.partHands parts))
                              pend := x.grp.pend.filter fun q => q.seq != seq } }) ∧
        ∀ key, mapGet 0 v key = match parts.reverse.find? fun e => e.1 == key with
          | some e => BitVec.ofNat 32 (leNat (e.2.map fun o => x.localByte (keySpace o) 0 (o - bufBase (keySpace o))))
          | none => mapGet 0 x.grp.v key)

namespace Sys2Proof.Slice0

/-- A line of a drain that may be written now: nothing of the core stands before it (13 R227). -/
def LineFree (x : State) (seq : Nat) (z : LaneAcc × List Host.Cell) : Prop :=
  x.lineMay seq z = true ∧ ∀ e ∈ z.2, e.1 / 128 = z.1.key / 128

/-- Bytes and flags after one element more, an offset and a value, has been added to them (10 R203). -/
def added (f : Fmt) (w : Nat) (m : (Nat → Byte) × Nat) (e : Nat × Nat) : (Nat → Byte) × Nat :=
  let r := f.add .rne (f.val (leNat ((List.range w).map fun j => m.1 (e.1 + j)))) (f.val e.2)
  (fun o => if e.1 ≤ o ∧ o < e.1 + w then BitVec.ofNat 8 (r.1 / 2 ^ (8 * (o - e.1))) else m.1 o, m.2 ||| r.2)

/-- What stops the line form of an adding drain at a line that it sends (12 R222): an error in the routine where the home has to read it from the
table, else one in the line; by its cause. -/
def formStops (slot : Nat) (s : State) (a : LaneAcc) : Option Nat :=
  let cached := match routineUnit a.key with
    | some u => s.routines.any fun r => r.unit == u && r.dev == s.dev.devid && r.ctx == s.team.ctx && r.slot == slot
    | none => false
  if s.team.isShared a.va = true ∧ s.team.through = false then none
  else if cached = false ∧ s.routineErrors.contains (s.team.ctx, slot) = true then some 1
  else if s.lineErrors.contains (a.key / 128) = true then some 0 else none

end Sys2Proof.Slice0

/-- 10 R203: MDRAIN takes the fault of the first check that it breaks: its descriptor, its registers beyond the cap, alignment, bounds of the
D-buffer. One whose tile fits its buffer, or whose pages all let it through, issues with its elements read and its flags set; held in deterministic
mode, one that adds as one invocation a line (12 R221); a page fault parks all of it. A line of one that adds is met with a machine-check at its
issue where the line or the routine has an error (12 R222, 17 R268).
Choices of the model: log entries 36, 68. -/
def Sys2Proof.Slice0.DrainIssue : Prop :=
  ∀ (la : Fin 16) (add toD : Bool) (ct : DrainCt) (sc : Scope) (c : VReg) (ds : SReg) (nud : BitVec 8) (s : State),
    InRole .mat .m s → Clear (.mdrain la add toD ct sc c ds nud) s →
    let w := (s.grp.S (ds.val + 1)).toNat
    let n := w % 512
    let regs := regKeys c.val (if ct = .f64 then 2 * n else n)
    let all := drainElems s.grp ct c (s.grp.S ds.val).toNat (w / 2 ^ 16 % 2 ^ 32) n
    let es := all.map (·.1)
    let s1 := fun sp => spent (unitCount sp ct.w (es.map fun e => e.2.1)) s
    let flagged := fun s : State => { s with grp := { s.grp with fpcr := s.grp.fpcr ||| BitVec.ofNat 5 (all.foldl (fun m e => m ||| e.2) 0) } }
    let fits := 1 ≤ n ∧ n ≤ (if ct = .f64 then 192 else 384) ∧ w / 2 ^ 9 % 2 ^ 7 = 0 ∧ w < 2 ^ 48
    let spots := es.map fun e => (e.1, e.2.1)
    let stops := fun a => if add then formStops (if ct = .f64 then 5 else 4) s a else none
    (¬ fits → exec (.mdrain la add toD ct sc c ds nud) s = .next (s.takeFault 0x92 { kind := 14, cause := 2, d0 := s.grp.buckle })) ∧
    (fits → RangeFaults 0x92 [(c.val, if ct = .f64 then 2 * n else n)] (.mdrain la add toD ct sc c ds nud) s) ∧
    (fits → (∀ k ∈ regs, k < s.grp.vcap) → ∀ t,
      (strays 10 (if toD then .d else .glob) (fun o => decide (o % ct.w ≠ 0)) spots t →
        exec (.mdrain la add toD ct sc c ds nud) s = .next (s.takeFault 0x92 t)) ∧
      (toD = true → (∀ e ∈ es, e.2.1 % ct.w = 0) → strays 11 .d (fun o => decide (s.spaceSize .d < o + ct.w)) spots t →
        exec (.mdrain la add toD ct sc c ds nud) s = .next (s.takeFault 0x92 t))) ∧
    (fits → (∀ k ∈ regs, k < s.grp.vcap) → ¬ Unready ([kS ds.val, kS (ds.val + 1)] ++ regs) [] s → (∀ e ∈ es, e.2.1 % ct.w = 0) →
    ((toD = true → (∀ e ∈ es, e.2.1 + ct.w ≤ s.spaceSize .d) → exec (.mdrain la add toD ct sc c ds nud) s = .next (issued s.grp.xm (posted
      { seq := s.core.seq, opc := 0x92, base := s.grp.base, slot := s.grp.pslot, count := some .matrix, window := false, left := 0,
        reads := [], writes := if add then [kAcc] else [], stamp := stampOf s, nud := nud.toNat,
        kind := .mdrain sc add (ct == .f64) [] (es.flatMap fun e => leCells e.2.1 ct.w e.2.2) } (flagged (s1 .d))))) ∧
    (toD = false →
      let heads := drainHeads es
      let xs := s.lanesX .w false heads
      let as := laneAccs xs
      (pageFaults heads xs ≠ [] → exec (.mdrain la add toD ct sc c ds nud) s =
        .next (s.park 0x92 true 0xFFFFFFFF#32 none (pageFaults heads xs))) ∧
      (pageFaults heads xs = [] → ∀ a, as.find? (fun a => s.bad a.key) = some a →
        exec (.mdrain la add toD ct sc c ds nud) s = .next (s.takeFault 0x92 (machineCheck 2 a.key))) ∧
      (pageFaults heads xs = [] → (∀ a ∈ as, s.bad a.key = false) →
        s.overflows (uniq ((as.filter fun a => s.team.isShared a.va).map fun a => a.key / 128)).length = true →
        exec (.mdrain la add toD ct sc c ds nud) s = .next s) ∧
      (pageFaults heads xs = [] → (∀ a ∈ as, s.bad a.key = false) →
        s.overflows (uniq ((as.filter fun a => s.team.isShared a.va).map fun a => a.key / 128)).length = false →
        (∀ pre a post cause, as = pre ++ a :: post → (∀ b ∈ pre, stops b = none) → stops a = some cause →
          exec (.mdrain la add toD ct sc c ds nud) s =
            .next ((if cause = 0 then s.poison (a.key / 128) else s).takeFault 0x92 (machineCheck cause a.key))) ∧
        ((∀ a ∈ as, stops a = none) →
        let s2 := ((flagged (s1 .glob)).translated true as).onCore (Core.l1Dirty s.team.ctx (as.map fun a => a.va / 128))
        ∃ t, exec (.mdrain la add toD ct sc c ds nud) s = .next (issued s.grp.xm t) ∧ SameMemory s2 t ∧
          ((∀ a ∈ as, s.team.isShared a.va = false) → as ≠ [] → ∃ cr, t = posted
            { seq := s.core.seq, opc := 0x92, base := s.grp.base, slot := s.grp.pslot, count := some .matrix, window := false, left := 0,
              reads := [], writes := [], stamp := stampOf s, nud := nud.toNat,
              kind := .mdrain sc add (ct == .f64) (drainLines ct.w es as) [] } { s2 with core := cr }) ∧
          ((∃ a ∈ as, s.team.isShared a.va = true) → s.team.through = false → s2.team.held.length < t.team.held.length) ∧
          (add = true → s.team.through = false → t.team.held.length =
            s2.team.held.length + (uniq ((as.filter fun a => s.team.isShared a.va).map fun a => a.key / 128)).length))))))

/-- 10 R203, R204, 12 R214, R221, R222: a drain to the D-buffer writes its tile in one step; one to global memory writes its lines; one that adds
does a line at a time, indivisibly, once the line is there, and ends when no line is left; a line poisoned since its issue keeps its bytes. All
lines of one that adds at a peer are added together (17 R268; log entry 68). A drain to the D-buffer waits for the group's earlier loads of its
bytes, and for a copy of the team of which a part was held before it; one that adds leaves, element by element in order, the old value and its own
rounded once, and their flags in FPCR. That a drain which a successor chain carries on leaves the successor's FPCR as it is, is log entry 51. -/
def Sys2Proof.Slice0.DrainCompletes : Prop :=
  ∀ (c k i seq : Nat) (s x : State) (p : Pend) (sc : Scope) (add dbl : Bool) (lines : List (LaneAcc × List Host.Cell)) (dc : List Host.Cell),
    InFocus c k i s x → x.grp.findPend? seq = some p → p.kind = .mdrain sc add dbl lines dc →
    let gone := fun y : State => { y with grp := y.grp.dropPend seq }
    (dc ≠ [] → ((∃ q ∈ x.grp.pend, q.seq < seq ∧ ∃ z ∈ dc, q.loads 0 (bufBase .d + z.1) 1 = true) ∨ x.copyBehind dc = true) →
      exec (.mdrainComplete c k i seq) s = .next s.reap) ∧
    (dc ≠ [] → (∀ q ∈ x.grp.pend, q.seq < seq → ∀ z ∈ dc, q.loads 0 (bufBase .d + z.1) 1 = false) → x.copyBehind dc = false →
      ∃ d f n, exec (.mdrainComplete c k i seq) s = .next ((back s x (gone { x with
        team := { x.team with dbuf := d, rels := n }, grp := { x.grp with fpcr := f } })).reap) ∧
      (∀ o, (∀ z ∈ dc, z.1 ≠ o) → (add = true → ∀ z ∈ cellElems (if dbl then 8 else 4) dc, o < z.1 ∨ z.1 + (if dbl then 8 else 4) ≤ o) →
        mapGet 0 d o = mapGet 0 x.team.dbuf o) ∧
      (p.carried = true → f = x.grp.fpcr) ∧
      (add = true → let fmt := if dbl then F64 else F32
        let sums := (cellElems (if dbl then 8 else 4) dc).foldl (added fmt (if dbl then 8 else 4)) (fun o => mapGet 0 x.team.dbuf o, 0)
        (∀ o, mapGet 0 d o = sums.1 o) ∧ (p.carried = false → f = x.grp.fpcr ||| BitVec.ofNat 5 sums.2)) ∧
      (add = false → f = x.grp.fpcr ∧ ∀ o, mapGet 0 d o = ((dc.reverse.find? fun z => z.1 == o).map (·.2)).getD (mapGet 0 x.team.dbuf o))) ∧
    (dc = [] → add = true → lines = [] → exec (.mdrainComplete c k i seq) s = .next ((back s x (gone x)).reap)) ∧
    (dc = [] → add = false → (∀ z ∈ lines, LineFree x seq z) →
      ∃ y, exec (.mdrainComplete c k i seq) s = .next ((back s x (gone y)).reap) ∧ y.team = x.team ∧ y.grp = x.grp ∧
        ∀ a, y.mem.byte a = if x.poisoned.contains (a / 128) then x.mem.byte a
          else (((lines.flatMap (·.2)).reverse.find? fun z => z.1 == a).map (·.2)).getD (x.mem.byte a)) ∧
    let peer := fun z : LaneAcc × List Host.Cell => peerBase ≤ z.1.key ∧ z.1.key < bufBase .w
    (add = true → (∃ z ∈ lines, peer z) → ∀ line,
      ((∃ z ∈ lines, x.lineMay seq z = false) → exec (.mdrainLineInvocation c k i seq line) s = .next s) ∧
      ((∀ z ∈ lines, peer z ∧ x.lineMay seq z = true) → ∃ y, exec (.mdrainLineInvocation c k i seq line) s = .next (back s x y) ∧
        y.team = x.team ∧ y.grp.findPend? seq = some { p with kind := .mdrain sc true dbl [] dc })) ∧
    (∀ line z rest, add = true → (∀ z ∈ lines, ¬ peer z) → lines.filter (fun z => z.1.key / 128 == line) = z :: rest →
      (∀ z ∈ lines, z.1.key / 128 = line → x.lineMay seq z = true) →
      (x.bring (x.teamReq p.stamp p.gcnt (some p.nud) true z.1) = none → exec (.mdrainLineInvocation c k i seq line) s = .next s) ∧
      (∀ x1, x.bring (x.teamReq p.stamp p.gcnt (some p.nud) true z.1) = some x1 →
      (∃ y, exec (.mdrainLineInvocation c k i seq line) s = .next (back s x y) ∧ y.team = x.team ∧
        (∃ q, y.grp = { x.grp with pend := q } ∧ y.grp.findPend? seq =
          some { p with kind := .mdrain sc true dbl (lines.filter fun z => z.1.key / 128 != line) dc }) ∧
        y.mem = if x.poisoned.contains line then x.mem else addCells dbl ((lines.filter fun z => z.1.key / 128 == line).flatMap (·.2)) x.mem)))

/-! ## Clause headers, words that are no instruction, LAUNCH (03 R52, R53, R55, R69 to R71; 22 R367 to R369) -/

namespace Sys2Proof.Slice0

/-- The header of a word (03 Table 3-1). -/
def headerOf (w : Nat) (cls : ClauseClass) : Header :=
  ⟨w / 2 ^ 52 % 16 + 1, cls, w / 2 ^ 44 % 16, w / 2 ^ 40 % 16, w / 2 ^ 36 % 16, w / 2 ^ 32 % 16⟩

/-- The outstanding counts that a header waits for: 15 waits for nothing (03 R55). -/
def CountsMet (h : Header) (g : Group) : Prop :=
  (h.ldw = 15 ∨ g.count .loads ≤ h.ldw) ∧ (h.stw = 15 ∨ g.count .stores ≤ h.stw) ∧ (h.mxw = 15 ∨ g.count .matrix ≤ h.mxw) ∧
  (h.cpw = 15 ∨ g.count .copies ≤ h.cpw)

end Sys2Proof.Slice0

/-- 03 R53, R55, R71, 13 R232: a group takes the header at its position into hand once its waits are met, and then the engine threads join whose count
it waits for at 0; a word that is no version-1 header is a control-target
fault where a transfer led there, else a clause-format fault, and a class that the role may not run a role fault. A slot's word that is no
instruction is an illegal-instruction fault, or a role fault where its class is another than the clause's.
Choices of the model: log entry 35. -/
def Sys2Proof.Slice0.HeadersAndWords : Prop :=
  (∀ (s s1 : State) (w : W64), s.grp.hdr = none → s.grp.susp = .ready → s.grp.base < 2 ^ 53 → s.grp.base % 8 = 0 →
    s.fetch s.grp.base = (.word w, s1) →
    let fault := fun k => exec .clauseHeaderIssue s = .next (s1.takeFault 0xFF { kind := k })
    (w.toNat / 2 ^ 56 ≠ 0xF8 → fault (if s.grp.enter then 5 else 4)) ∧
    (w.toNat / 2 ^ 56 = 0xF8 → (w.toNat % 2 ^ 32 ≠ 0 ∨ 2 < w.toNat / 2 ^ 48 % 16) → fault 4) ∧
    (∀ k cls, w.toNat / 2 ^ 56 = 0xF8 → w.toNat % 2 ^ 32 = 0 → (k, cls) ∈ [(0, ClauseClass.g), (1, .m), (2, .c)] →
      w.toNat / 2 ^ 48 % 16 = k →
      ((cls = .m ∧ s.grp.kind ≠ .mat) ∨ (cls = .c ∧ s.grp.kind ≠ .cpy) → fault 6) ∧
      (¬ ((cls = .m ∧ s.grp.kind ≠ .mat) ∨ (cls = .c ∧ s.grp.kind ≠ .cpy)) →
        (CountsMet (headerOf w.toNat cls) s.grp → ∃ n fk, exec .clauseHeaderIssue s =
            .next { s1 with grp := { s1.grp with hdr := some (headerOf w.toNat cls), enter := false, know := n, fork := fk } } ∧
          n.epoch = s1.grp.know.epoch ∧ (∀ z ∈ s1.grp.know.seen, z ∈ n.seen) ∧
          ∀ h ∈ s1.team.held, h.chain = s1.team.chain → h.gid = s1.grp.gid →
            ((h.thread = some .copies ∧ (headerOf w.toNat cls).cpw = 0) ∨ (h.thread = some .matrix ∧ (headerOf w.toNat cls).mxw = 0)) →
            (∀ p ∈ s1.grp.pend, p.seq ≠ h.order) → s1.team.heldId h ∈ n.seen) ∧
        (¬ CountsMet (headerOf w.toNat cls) s.grp → exec .clauseHeaderIssue s = .next s1)))) ∧
  (∀ (w : W64) (s : State), s.grp.windowShut (.nop Guard.always) = false →
    let op := w.toNat / 2 ^ 56
    let inClause := fun k => ∃ h, s.grp.hdr = some h ∧ h.cls = k
    let foreign := ((0x90 ≤ op ∧ op ≤ 0x93) ∧ ¬ inClause .m) ∨ (op = 0x74 ∧ ¬ inClause .c)
    (foreign → exec (.nonInstructionWord w) s = .next (s.takeFault op { kind := 6 })) ∧
    (¬ foreign → exec (.nonInstructionWord w) s = .next (s.takeFault op { kind := 3 })))

/-- 22 R368, R369: LAUNCH reads its record, releases at device scope and creates the child; S[D] receives its number in the piece. It waits for the
accesses before it, for earlier pieces where a byte of its record is shared, while a stitch holds a line of the record, and for earlier loads of its
bytes (13 R229). A header that is no
launch's answers DENIED, a full cell NORES, a record that is not 64-byte aligned an alignment fault; deterministic mode holds the record, in slots
of the commit area, for which it waits, or, past the piece's overflow, in none.
Choices of the model: log entries 32, 41. -/
def Obligations.LaunchIssue : Prop :=
  ∀ (d a : SReg) (s : State), Clear (.launch d a) s →
    let r := (s.grp.S a.val).toNat
    (r % 64 ≠ 0 → exec (.launch d a) s =
      .next (s.takeFault 0x0B { kind := 10, cause := 0, d0 := BitVec.ofNat 64 r, d1 := 1 })) ∧
    (r % 64 = 0 → (s.releaseReady .device = false ∨ s.rangeWait r 8 = true ∨ s.onceMay r 8 = false) → exec (.launch d a) s = .next s) ∧
    (∀ hb s1, r % 64 = 0 → s.releaseReady .device = true → s.rangeWait r 8 = false → s.onceMay r 8 = true → s.readOnce r 8 = .bytes hb s1 →
      let h := leNat hb
      let ty := h % 2 ^ 8
      let len := h / 2 ^ 8 % 2 ^ 8
      let good := h < 2 ^ 19 ∧ ((ty = 1 ∧ len = 22) ∨ (ty = 2 ∧ ∃ nt, 2 ≤ nt ∧ nt ≤ 8 ∧ len = 2 + 9 * nt))
      (¬ good → exec (.launch d a) s = .next (issued s1.grp.xm (stat 0x0B01 s1))) ∧
      (good → s1.rangeWait r (16 * len) = true → exec (.launch d a) s = .next s) ∧
      (good → ∀ bs s2 l, s1.rangeWait r (16 * len) = false → s1.onceMay r (16 * len) = true → s1.readOnce r (16 * len) = .bytes bs s2 →
        (leNat (bs.take 8) % 2 ^ 8 = 2 → (leNat ((bs.drop 8).take 1)) % 16 = (leNat (bs.take 8) / 2 ^ 8 % 2 ^ 8 - 2) / 9) →
        s2.findLaunch? s2.team.launch = some l →
        (s2.team.det = false → (65535 ≤ s2.team.nlaunch ∨ 256 ≤ s2.children.countP fun c => c.cell == l.cell) →
          exec (.launch d a) s = .next (issued s2.grp.xm (stat 0x0B07 s2))) ∧
        (s2.team.det = false → s2.team.nlaunch < 65535 → (s2.children.countP fun c => c.cell == l.cell) < 256 →
          ∃ (t : State) (m : Map W64), exec (.launch d a) s = .next (issued s2.grp.xm (stat 0x0B00 { t with grp := { t.grp with s := m } })) ∧
            (∀ q, mapGet 0 m q = if q = d.val then BitVec.ofNat 64 s2.team.nlaunch else s2.grp.S q) ∧
            t.children = s2.children ++ [⟨s2.nextLaunch, l.queue, l.ctx, l.cell, l.id, s2.team.piece.idx, s2.team.nlaunch, bs, false⟩] ∧ t.nextLaunch = s2.nextLaunch + 1 ∧
            (s2.team.live = true → t.team.nlaunch = s2.team.nlaunch + 1) ∧ t.grp = s2.grp ∧ SameMemory s2 t) ∧
        let need := if s2.team.through then 0 else (bs.length + 127) / 128
        (s2.team.det = true → s2.overflows need = true → exec (.launch d a) s = .next s) ∧
        (s2.team.det = true → s2.overflows need = false →
          ∃ (t : State) (m : Map W64), exec (.launch d a) s = .next (issued s2.grp.xm (stat 0x0B00 { t with grp := { t.grp with s := m } })) ∧
            (∀ q, mapGet 0 m q = if q = d.val then BitVec.ofNat 64 s2.team.nlaunch else s2.grp.S q) ∧
            t.children = s2.children ∧ (∃ k, t.grp = { s2.grp with know := k }) ∧
            (s2.team.live = true → t.team.nlaunch = s2.team.nlaunch + 1) ∧ SameMemory s2 t ∧
            ∃ x, t.team.held = s2.team.held ++ [x] ∧ x.kind = .child bs ∧ x.slots = need)))

/-! ## Line fills, the cinch, issue selection (09 R172 to R184; 16 R262) -/

namespace Sys2Proof.Slice0

/-- The class of a line as a victim, and how early in its class it goes: the least of the second first (09 R181). -/
def victimClass (s : State) (x : RLine) : Nat × Int :=
  if x.kind = 1 then (2, 0) else match s.remOf x with
    | some d => if d ≤ 0 then (3, d) else if x.cp = 1 then (4, 0) else (5, -(d * 2 ^ s.cinchOf x.unit x.ctx))
    | none => if x.cp = 1 then (4, 0) else (5, -(s.unknownOf x.ctx : Int))

/-- A line goes before another as a victim: by class, then by its place in the class, then the line used longer ago, then the lower way. -/
def GoesFirst (s : State) (x y : RLine) : Prop :=
  let a := victimClass s x
  let b := victimClass s y
  a.1 < b.1 ∨ (a.1 = b.1 ∧ (a.2 < b.2 ∨ (a.2 = b.2 ∧ (x.age < y.age ∨ (x.age = y.age ∧ x.way < y.way)))))

end Sys2Proof.Slice0

/-- 09 R177, R180, R181, R183, R184: a fill whose set has a free way brings its line in, with the stamp of its request; in a full set it takes the
way of the victim that goes first among the eligible lines, of those with CP 2 only where all have it, and a dirty victim goes back to the MSC with
its state; one that finds no way waits, and the later requests to its line with it. Nothing that a program reads changes; a retired team that waited
for the fill alone leaves (09 R183).
Choices of the model: log entries 23, 52, 62. -/
def Sys2Proof.Slice0.LineFills : Prop :=
  (∀ s : State, ∃ t : State, exec .lineFill s = .next t.reap ∧ t.reap.mem = s.mem ∧ t.mem = s.mem ∧ t.grp = s.grp ∧ t.groups = s.groups ∧ t.core = s.core ∧
    t.cores = s.cores ∧ t.queues = s.queues ∧ (∃ n, t.team = { s.team with fcnt := n }) ∧
    (∀ (j : Nat) (x : Team), s.teams[j]? = some x → ∃ n, t.teams[j]? = some { x with fcnt := n }) ∧
    ∀ (j : Nat) (l : Launch), s.launches[j]? = some l → ∃ h r, t.launches[j]? = some { l with halves := h, recs := r }) ∧
  (∀ (s : State) (f : FillReq) (m : RLine) (w : Nat), s.fills = [f] → isMsc f.unit = false → f.req.key % 128 = 0 →
    s.findLine? f.unit f.req.key = none → s.findLine? (mscUnit f.req.key) f.req.key = some m →
    w < 16 - s.parkedWays (f.unit / 16) → (∀ x ∈ s.rlines, x.unit = f.unit → x.set = setOf f.unit f.req.key → x.way ≠ w) →
    (∀ v < w, ∃ x ∈ s.rlines, x.unit = f.unit ∧ x.set = setOf f.unit f.req.key ∧ x.way = v) →
    ∃ t x, exec .lineFill s = .next t ∧ t.fills = [] ∧ t.findLine? f.unit f.req.key = some x ∧ x.way = w ∧
      x.set = setOf f.unit f.req.key ∧ (f.req.dirty = true → x.dirty = true) ∧
      (∀ c, f.req.code = some c → 1 ≤ c → c ≤ 254 → x.kind = 0 ∧ x.due = f.req.due ∧ x.tag = f.req.tag ∧ x.h = false ∧ x.ctx = f.req.ctx) ∧
      (f.req.code = some 0 → x.kind = 1 ∧ x.tag = f.req.tag ∧ x.h = false) ∧
      (∀ y, y.unit < 64 → (y.unit ≠ f.unit ∨ y.line ≠ f.req.key / 128) → (y ∈ t.rlines ↔ y ∈ s.rlines))) ∧
  (∀ (s : State) (f : FillReq) (m : RLine), s.fills = [f] → isMsc f.unit = false → f.req.key % 128 = 0 →
    s.findLine? f.unit f.req.key = none → s.findLine? (mscUnit f.req.key) f.req.key = some m →
    let here := fun x : RLine => x ∈ s.rlines ∧ x.unit = f.unit ∧ x.set = setOf f.unit f.req.key ∧ x.way < 16 - s.parkedWays (f.unit / 16)
    let free := fun x : RLine => here x ∧ s.lineBusy x.line = false
    let cand := fun x : RLine => free x ∧ (x.cp ≠ 2 ∨ ∀ y, free y → y.cp = 2)
    (∀ w < 16 - s.parkedWays (f.unit / 16), ∃ x, here x ∧ x.way = w) →
    ((∀ x, ¬ free x) → exec .lineFill s = .next s.reap) ∧
    ∀ v, cand v → (∀ y, cand y → y = v ∨ GoesFirst s v y) → (∀ y ∈ s.rlines, y.unit = f.unit → y.line = v.line → y = v) →
      (v.dirty = true → s.findLine? (mscUnit (v.line * 128)) (v.line * 128) ≠ none) →
      ∃ t x, exec .lineFill s = .next t ∧ t.fills = [] ∧ t.findLine? f.unit f.req.key = some x ∧ x.way = v.way ∧
        t.findLine? f.unit (v.line * 128) = none ∧
        (v.dirty = true → ∃ z, t.findLine? (mscUnit (v.line * 128)) (v.line * 128) = some z ∧ z.dirty = true ∧ z.due = v.due ∧ z.tag = v.tag ∧
          z.kind = v.kind ∧ z.h = v.h ∧ z.ctx = v.ctx)) ∧
  (∀ (s : State) (f g : FillReq), s.fills = [f, g] → g.unit = f.unit → g.req.key / 128 = f.req.key / 128 → s.fillNow f = none →
    exec .lineFill s = .next s.reap)

/-- 09 R182: at 4,096 evictions k rises where more than 1,024 promises lapsed unused, up to 7, falls where fewer than 256 did, and E and B return to
0. -/
def Sys2Proof.Slice0.CinchSteps : Prop :=
  ∀ (u c : Nat) (s : State), ∃ l : List Cinch, exec (.cinchUpdate u c) s = .next { s with cinch := l } ∧ l.length = s.cinch.length ∧
    ∀ (j : Nat) (x : Cinch), s.cinch[j]? = some x → ∃ y : Cinch, l[j]? = some y ∧
      (x.unit = u → x.ctx = c → 4096 ≤ x.e → y.unit = u ∧ y.ctx = c ∧ y.e = 0 ∧ y.b = 0 ∧
        (1024 < x.b → y.k = min 7 (x.k + 1)) ∧ (x.b < 256 → y.k = x.k - 1) ∧ (256 ≤ x.b → x.b ≤ 1024 → y.k = x.k)) ∧
      ((x.unit ≠ u ∨ x.ctx ≠ c ∨ x.e < 4096) → y = x)

/-- 16 R262, 03 R56: while the group that issued last in a quadrant can issue and stands at no wait point or clause boundary, it goes on; else, of
the groups of the quadrant that are ready and wait for nothing at their next instruction, the one comes into focus that the event names as ready
longest, for more than 256 cycles, or else the next in team slot and group order after the one that issued last.
Choices of the model: log entry 6. -/
def Sys2Proof.Slice0.IssueSelection : Prop :=
  ∀ (core longest quad : Nat) (s : State),
    let may := fun x : Group => x ∈ s.allGroups ∧ x.core = core ∧ x.gid % 4 = quad ∧ s.canGo x = true
    let turn := fun x : Group => 1 + 32 * x.slot + x.gid
    let last := match s.findCore? core with
      | some c => mapGet 0 c.lastQuad quad
      | none => 0
    let now : Turn := { quad := quad, longest := longest }
    (s.maySwitch core quad = false → exec (.issueSelect core now) s = .next s) ∧
    ((∀ y ∈ s.allGroups, y.live = true → y.core = core → y.gid % 4 = quad → turn y = last → s.canIssue y = false ∨
      y.hdr = none ∨ y.gap ≠ .no) →
      s.maySwitch core quad = true) ∧
    ((∀ x, ¬ may x) → exec (.issueSelect core now) s = .next s) ∧
    ∀ g, s.maySwitch core quad = true → (∀ x y, may x → may y → turn x = turn y → x = y) → may g →
    (turn g = longest ∨ (∀ x, may x → turn x ≠ longest) ∧ ((last < turn g ∧ ∀ x, may x → last < turn x → turn g ≤ turn x) ∨
      ((∀ x, may x → turn x ≤ last) ∧ ∀ x, may x → turn g ≤ turn x))) →
    exec (.issueSelect core now) s = .next (s.focus g.core g.slot g.gid)

/-! ## Faults (17 R267 to R276) -/

namespace Sys2Proof.Slice0

/-- A fault ring with records appended: all, or none and the overflow bit is set (17 R270). -/
def ringWith (rs : List FRec) (c : CellSt) : CellSt :=
  if c.ring.length + rs.length ≤ 64 then { c with ring := c.ring ++ rs } else { c with overflow := true }

/-- A cell, or a launch, through a function. -/
def cellWith (n : Nat) (f : CellSt → CellSt) (s : State) : State := { s with cells := s.cells.map fun c => if c.id == n then f c else c }
def launchWith (n : Nat) (f : Launch → Launch) (s : State) : State :=
  { s with launches := s.launches.map fun l => if l.id == n then f l else l }

/-- A launch that a terminal fault of a kind has met (17 R274, R275). -/
def faultedBy (kind : Nat) (l : Launch) : Launch :=
  { l with
    fault := some (l.fault.getD kind)
    faultIdx := some (l.faultIdx.getD (l.running.foldl min l.nextIdx)) }

/-- What a terminal fault leaves of a state: its record in the ring of the group's cell, its launch ending, the group stopped; nothing else. -/
def afterFault (r : FRec) (s : State) : State :=
  let t := launchWith s.team.launch (faultedBy r.kind) (cellWith s.cellId (ringWith [r]) s)
  { t with grp := { t.grp with susp := .stopped } }

end Sys2Proof.Slice0

/-- 17 R268, R272, R274: taking a terminal fault writes one record, whose fields name the group and the instruction, ends the launch, stops the
group, and changes nothing else; an error in a core's storage is such a fault, a machine-check of cause 3.
Choices of the model: log entry 3. -/
def Obligations.FaultTaken : Prop :=
  (∀ (opc : Nat) (t : Trap) (s : State), s.takeFault opc t = afterFault
    { kind := t.kind, cause := t.cause, opc := opc, gid := s.grp.gid, team := s.grp.slot, core := s.grp.core, slot := s.grp.pslot, wr := false,
      last := true, seq := 0, lane := t.lane, cbase := s.grp.base, d0 := t.d0, d1 := t.d1, pidx := BitVec.ofNat 32 s.team.piece.idx,
      launch := s.team.launch } s) ∧
  (∀ (c k i : Nat) (s x : State), InFocus c k i s x → x.grp.susp ≠ .exited → x.grp.susp ≠ .stopped →
    exec (.coreStorageError c k i) s = .next (back s x (x.takeFault x.opcInHand { kind := 17, cause := 3 })))

namespace Sys2Proof.Slice0

/-- Firmware resolves one record (17 R271): it backs a not-mapped page of the demand range, and invalidates what caches hold of the page; a
permission-upgrade record is resolved once its migration is over. -/
def resolvedBy (ctx : Nat) (r : FRec) (s t : State) : Prop :=
  let va := r.d0.toNat
  let page := fun p : Nat => p == va / 8192
  (r.kind = 2 ∧ (∀ l, s.walk ctx va = .leaf l → l.mig = false) ∧ t = s) ∨
  (r.kind = 1 ∧ r.cause = 0 ∧ s.walk ctx va = .notMapped ∧ ∃ u, s.backPage ctx va = some u ∧ t = u.invalidate ctx page) ∨
  (r.kind = 1 ∧ r.cause = 0 ∧ s.walk ctx va ≠ .notMapped ∧ t = s.invalidate ctx page)

/-- It resolves records one after another. -/
def resolvesAll (ctx : Nat) : List FRec → State → State → Prop
  | [], s, t => t = s
  | r :: rs, s, t => ∃ u, resolvedBy ctx r s u ∧ resolvesAll ctx rs u t

end Sys2Proof.Slice0

/-- 17 R270, R271, 03 R61: firmware backs the not-mapped pages of the demand range, waits for a migration at a permission-upgrade record, and, once
all records of the group are resolved, the parked group issues its instruction again; a record that is never resolved ends the launch with kind 1.
The ring is consumed at its head, as far as these records. A group whose records were lost waits for the overflow bit to be cleared, which writes
them.
Choices of the model: log entries 3, 48, 49. -/
def Obligations.FaultResolution : Prop :=
  (∀ (c k i : Nat) (s x : State), InFocus c k i s x → (x.grp.susp ≠ .parked ∨ x.grp.unwritten = true ∨ x.ending = true) →
    exec (.faultResolve c k i) s = .next s) ∧
  (∀ (c k i : Nat) (s x x1 : State), InFocus c k i s x → x.grp.susp = .parked → x.grp.unwritten = false → x.ending = false →
    let consumed := fun y : State => { y with cells := y.cells.map fun q =>
      { q with ring := (q.ring.reverse.takeWhile fun z => ! x.grp.recs.contains z).reverse } }
    (resolvesAll x.team.ctx x.grp.recs x x1 →
      exec (.faultResolve c k i) s = .next (back s x (
        let y := consumed x1
        { y with grp := { y.grp with susp := .ready, unf := 0, recs := [], unwritten := false, pend := y.grp.pend.map fun p => { p with left := 0 } } }))) ∧
    (∀ pre r post, x.grp.recs = pre ++ r :: post → resolvesAll x.team.ctx pre x x1 →
      (r.kind = 1 → (r.cause ≠ 0 ∨ (x1.walk x.team.ctx r.d0.toNat = .notMapped ∧ x1.backPage x.team.ctx r.d0.toNat = none)) →
        exec (.faultResolve c k i) s = .next (back s x (
          let y := launchWith x.team.launch (faultedBy 1) (consumed x1)
          { y with grp := { y.grp with susp := .stopped } }))) ∧
      (∀ l, r.kind = 2 → x1.walk x.team.ctx r.d0.toNat = .leaf l → l.mig = true → exec (.faultResolve c k i) s = .next (back s x x1)))) ∧
  (∀ (n : Nat) (s : State) (cell : CellSt), s.findCell? n = some cell → (s.allGroups.all fun g => !(g.live && cell.has g.core) || !g.unwritten) = true →
    exec (.faultRingOverflowClear n) s = .next (cellWith n (fun q => { q with overflow := false }) s)) ∧
  (∀ (n : Nat) (s : State) (cell : CellSt) (g : Group), s.findCell? n = some cell → s.grp = g → g.live = true → cell.has g.core = true →
    g.unwritten = true → (∀ h ∈ s.groups, h.unwritten = false) → (∀ h ∈ s.groups, h.live = true → h.is g.core g.slot g.gid = false) →
    cell.ring.length + g.recs.length ≤ 64 → (∀ q ∈ s.cells, q.id = n → q = cell) →
    exec (.faultRingOverflowClear n) s = .next (
      let y := cellWith n (fun q => { q with overflow := false, ring := q.ring ++ g.recs }) s
      { y with grp := { g with unwritten := false } }))

/-- 17 R274, R275: an ending launch that has nothing in flight loses its teams and the pieces from the first fault on; under deterministic mode its
children that wait never start, and firmware drops its records in every cell's ring.
Choices of the model: log entries 34, 49. -/
def Obligations.LaunchEnds : Prop :=
  ∀ (n : Nat) (s : State) (l : Launch), s.findLaunch? n = some l → (l.fault.isSome = true ∨ l.status.isSome = true) → s.launchBusy n = false →
    ∃ t, exec (.launchEnd n) s = .next t ∧ SameMemory s t ∧ (∀ x ∈ t.allTeams, x.live = true → x.launch = n → x.retiring = true) ∧
      (l.det = true → ∀ c ∈ t.children, c.parent ≠ n) ∧ (l.det = false → t.children = s.children) ∧ (∀ c ∈ t.cells, ∀ r ∈ c.ring, r.launch ≠ n) ∧
      (∀ m ∈ t.launches, m.id = n → m.cutq = [] ∧ m.running = [] ∧
        ∀ f, l.faultIdx = some f → ∀ r ∈ m.retired, r.idx < f) ∧
      t.queues = s.queues ∧ t.tlb = s.tlb ∧ t.ctxs = s.ctxs

/-! ## Page migration (08 R158), the compactor (08 R165 to R167), parking (16 R261) -/

namespace Sys2Proof.Slice0

/-- The first address of a leaf's page, the key of its first byte, and the 8-KiB pages of it. -/
def pageBase (l : Leaf) (va : Nat) : Nat := va / l.size * l.size
def pageStart (l : Leaf) (va : Nat) : Nat := l.base - va % l.size / 8192 * 8192
def ofPage (l : Leaf) (va p : Nat) : Bool := decide (pageBase l va / 8192 ≤ p) && decide (p < pageBase l va / 8192 + l.size / 8192)

/-- A state without the translations and L1 lines of a page (08 R154). -/
def unmapped (ctx : Nat) (l : Leaf) (va : Nat) (s : State) : State :=
  let keep := fun c : Core => { c with lines := c.lines.filter fun x => !(x.ctx == ctx && ofPage l va (x.vline / 64)) }
  { s with
    tlb := s.tlb.filter fun e => !(e.ctx == ctx && ofPage l va e.page)
    core := keep s.core
    cores := s.cores.map keep }

/-- Team (c, k) is there and x is the state with that team and its core in focus. -/
def TeamInFocus (c k : Nat) (s x : State) : Prop := x = s.focusTeam c k ∧ x.team.live = true ∧ x.team.is c k = true

/-- A core through a function. -/
def coreWith (n : Nat) (f : Core → Core) (s : State) : State :=
  { s with
    core := if s.core.id = n then f s.core else s.core
    cores := s.cores.map fun c => if c.id = n then f c else c }

end Sys2Proof.Slice0

/-- 08 R158, R154, 09 R183: migration clears W and sets MIG in the leaf once no access through it, held writes too, has still to perform; then
copies the page, then points the leaf at the copy with its W restored and MIG clear, once no line of either frame is still to be filled; the
accesses in flight, the held writes, what releases wrote and lines with errors go to the copy, and no home keeps a line of either frame.
Choices of the model: log entry 44. -/
def Obligations.PageMigration : Prop :=
  ∀ (ctx va : Nat) (s : State) (l : Leaf), s.walk ctx va = .leaf l → s.mem.wf = true →
    let e := s.mem.word l.entry 8
    let start := pageStart l va
    let still := s.inFlight ctx (ofPage l va) || s.heldFor ctx (framesOf start l.size)
    (l.mig = false → still = false → ∃ e', exec (.pageMigrationBegin ctx va) s = .next (unmapped ctx l va
        { s with mem := s.mem.putWord l.entry 8 e', migs := s.migs ++ [⟨ctx, pageBase l va, l.w, none⟩] }) ∧
      ∀ b, e'.testBit b = if b = 2 then false else if b = 63 then true else e.testBit b) ∧
    (l.mig = true ∨ still = true → exec (.pageMigrationBegin ctx va) s = .next s) ∧
    (∀ frame, (∃ m ∈ s.migs, m.ctx = ctx ∧ m.va = pageBase l va) → (∀ r, s.run = some r → r.key < start ∨ start + l.size ≤ r.key) →
      frame % l.size = 0 → frame + l.size ≤ 2 ^ 39 → ∃ m, exec (.pageMigrationCopy ctx va frame) s = .next { s with
          mem := m, migs := s.migs.map fun x => if x.ctx == ctx && x.va == pageBase l va then { x with copied := some frame } else x } ∧
        ∀ a, m.byte a = if frame ≤ a ∧ a < frame + l.size then s.mem.byte (start + (a - frame)) else s.mem.byte a) ∧
    (∀ frame m, s.mig? ctx (pageBase l va) = some m → (m.copied ≠ some frame ∨ s.fillsIn start l.size = true ∨ s.fillsIn frame l.size = true) →
      exec (.pageMigrationEnd ctx va frame) s = .next s) ∧
    (∀ frame m, s.mig? ctx (pageBase l va) = some m → m.copied = some frame → s.fillsIn start l.size = false → s.fillsIn frame l.size = false →
      frame < 2 ^ 39 → s.dev.devid < 2048 →
      ∃ e' y, exec (.pageMigrationEnd ctx va frame) s = .next y ∧ y.mem = s.mem.putWord l.entry 8 e' ∧
        (∀ b, e'.testBit b = if b = 2 then m.w else if b = 12 ∨ b = 63 then false else if 13 ≤ b ∧ b < 24 then s.dev.devid.testBit (b - 13)
          else if 24 ≤ b ∧ b < 63 then (frame / 8192).testBit (b - 24) else e.testBit b) ∧
        (∀ x ∈ y.migs, x ∈ s.migs ∧ ¬ (x.ctx = ctx ∧ x.va = pageBase l va)) ∧ y.tlb = (unmapped ctx l va s).tlb ∧
        y.core = (unmapped ctx l va s).core ∧
        (let mv := fun k => if start ≤ k ∧ k < start + l.size then k - start + frame else k
         y.rels = (writeRels none frame l.size s.rels).map (fun r => { r with lo := mv r.lo }) ∧
         y.poisoned = s.poisoned.map (fun p => mv (p * 128) / 128) ∧ y.lineErrors = s.lineErrors.map fun p => mv (p * 128) / 128) ∧
        (∀ z, z ∈ y.rlines ↔ z ∈ s.rlines ∧ (z.line * 128 < start ∨ start + l.size ≤ z.line * 128) ∧
          (z.line * 128 < frame ∨ frame + l.size ≤ z.line * 128)) ∧
        (y.teams = s.teams.map fun t => if t.live && t.ctx == ctx then
          { t with held := t.held.map (Held.move fun k => if start ≤ k ∧ k < start + l.size then k - start + frame else k) } else t) ∧
        y.groups = s.groups.map fun g => if g.live && s.groupCtx g == some ctx then { g with
          pend := g.pend.map fun p => { p with kind := p.kind.move fun k => if start ≤ k ∧ k < start + l.size then k - start + frame else k }
          ownRels := g.ownRels.map (Rel.move fun k => if start ≤ k ∧ k < start + l.size then k - start + frame else k) } else g)

/-- 08 R165 to R167: the compactor moves one allocation to a free, aligned place and keeps a forwarding entry for the copies under way, until they
have completed; the buffer keeps its bytes. -/
def Sys2Proof.Slice0.Compaction : Prop :=
  (∀ (c k : Nat) (b : Buf) (pos : Nat) (s x : State), TeamInFocus c k s x → x.team.retiring = false →
    let n := buddy (x.team.bufSize b)
    n ≠ 0 → pos % n = 0 → pos + n ≤ (match b with | .w => 64 | .a => 32 | .d => 16) →
    (∀ u ∈ x.othersBlocks b, pos + n ≤ u.1 ∨ u.1 + u.2 ≤ pos) → x.core.fwd.length < 16 →
    (∀ g ∈ x.teamGroups, ∀ p ∈ g.pend, p.usesBuf b = false) →
    exec (.compactorMove c k b pos) s = .next (backTeam s x
      (let y := { x with core := { x.core with fwd := x.core.fwd ++ [(⟨k, b, x.team.bufPos b, pos, x.core.seq⟩ : Forward)] } }
       match b with
       | .w => { y with team := { y.team with wpos := pos } }
       | .a => { y with team := { y.team with apos := pos } }
       | .d => { y with team := { y.team with dpos := pos } }))) ∧
  (∀ (n j : Nat) (s : State) (c : Core) (f : Forward), s.findCore? n = some c → c.fwd[j]? = some f →
    ((∀ g ∈ s.allGroups, g.live = true → g.core = n → ∀ p ∈ g.pend, p.seq < f.before → ∀ o w b r d k xs, p.kind ≠ .copy o w b r d k xs) →
      exec (.forwardingRemove n j) s = .next (coreWith n (fun c => { c with fwd := c.fwd.eraseIdx j }) s)) ∧
    ((∃ g ∈ s.allGroups, g.live = true ∧ g.core = n ∧ ∃ p ∈ g.pend, p.seq < f.before ∧ ∃ o w b r d k xs, p.kind = .copy o w b r d k xs) →
      exec (.forwardingRemove n j) s = .next s))

/-- 16 R261, 09 R180: a team of a privileged queue whose groups all wait at a barrier or a ring, yield or have exited gives its register blocks up,
also with copies in flight, where the L2 ways that they take can be freed; and takes them back where its blocks are free, of itself or before an
arrival that comes to it.
Choices of the model: log entry 52. -/
def Sys2Proof.Slice0.TeamParking : Prop :=
  ∀ (c k : Nat) (s x : State), TeamInFocus c k s x →
    (∀ l q, x.team.retiring = false → x.findLaunch? x.team.launch = some l → x.findQueue? l.queue = some q → q.priv = true →
      (∀ g ∈ x.teamGroups, match g.susp with
        | .yield _ _ _ | .bar _ _ _ | .sync _ | .ring _ _ _ | .exited => True
        | _ => False) → x.team.inL2 = false →
      let parked := { x with team := { x.team with inL2 := true } }
      ((∀ z ∈ x.rlines, z.unit < 64 → z.unit / 16 = coreDie c → z.way < 16 - parked.parkedWays (coreDie c)) →
        exec (.teamPark c k) s = .next (backTeam s x parked)) ∧
      (∀ y, parked.clearWays (coreDie c) = some y → exec (.teamPark c k) s = .next (backTeam s x y)) ∧
      (parked.clearWays (coreDie c) = none → exec (.teamPark c k) s = .next s)) ∧
    (x.team.inL2 = false → x.unparked? = some x) ∧
    (x.team.inL2 = true →
      ((∀ q < 4, vNeed (x.groupsOn c false) q + vNeed x.teamGroups q ≤ 32) ∧ sNeed (x.groupsOn c false) + sNeed x.teamGroups ≤ 1024 →
        x.unparked? = some { x with team := { x.team with inL2 := false } } ∧
        exec (.teamUnpark c k) s = .next (backTeam s x { x with team := { x.team with inL2 := false } })) ∧
      (¬ ((∀ q < 4, vNeed (x.groupsOn c false) q + vNeed x.teamGroups q ≤ 32) ∧ sNeed (x.groupsOn c false) + sNeed x.teamGroups ≤ 1024) →
        x.unparked? = none ∧ exec (.teamUnpark c k) s = .next s))

/-! ## The Skiver (06 R119 to R137; 16 R256, R259, R260; 04 R75 to R79) -/

namespace Sys2Proof.Slice0

/-- Entry e of the menu has the least area, the first of those (06 R127). -/
def Smallest (l : Launch) (e : Nat) : Prop :=
  e < l.menu.length ∧ ∀ d, d < l.menu.length → l.area e ≤ l.area d ∧ (l.area d = l.area e → e ≤ d)

/-- What 06 R126, R127 and R130 say of the entry of the next band, with C cores. -/
def Chooses (c : Nat) (l : Launch) : Choice → Prop
  | .hold => l.replay = none ∧ l.tailMode = false ∧ (l.tail = true → 2 * c * l.area (l.chosen.headD 0) ≤ l.left) ∧
      (∀ e, e < l.menu.length → e ∈ l.chosen) ∧ l.timed = false ∧ l.lag ≤ l.chosen.length ∧
      l.finishedBelow (l.firstOf (l.chosen.length + 1 - l.lag)) = false
  | .take e tail =>
    (∃ es, l.replay = some es ∧ e = es.headD 0 ∧ tail = false) ∨
    (l.replay = none ∧ tail = true ∧ Smallest l e ∧
      (l.tailMode = true ∨ (l.tail = true ∧ l.left < 2 * c * l.area (l.chosen.headD 0)))) ∨
    (l.replay = none ∧ tail = false ∧ l.tailMode = false ∧ (l.tail = true → 2 * c * l.area (l.chosen.headD 0) ≤ l.left) ∧
      ((e < l.menu.length ∧ e ∉ l.chosen ∧ ∀ d < e, d ∈ l.chosen) ∨
        ((∀ d, d < l.menu.length → d ∈ l.chosen) ∧
          let recs := if l.timed then l.recs else l.recs.filter fun r => decide (r.band + l.lag ≤ l.chosen.length)
          let mean := fun d => meanScore l.score (recs.filter fun r => r.entry == d)
          (l.timed = true ∨ l.chosen.length < l.lag ∨ l.finishedBelow (l.firstOf (l.chosen.length + 1 - l.lag)) = true) ∧
          (((∀ d, d < l.menu.length → ∀ r ∈ recs, r.entry ≠ d) ∧ e = l.chosen.headD 0) ∨
            (e < l.menu.length ∧ (∃ r ∈ recs, r.entry = e) ∧ ∀ d, d < l.menu.length → (∃ r ∈ recs, r.entry = d) →
              Frac.lt (mean d) (mean e) = false ∧ (d < e → Frac.lt (mean e) (mean d) = true))))))

/-- The band that an entry cuts from a launch's remaining space, and what is left to cut (06 R119). -/
def BandOf (l : Launch) (e : Nat) (ps : List Piece) (l' : Launch) : Prop :=
  ∃ m, l.menu[e]? = some m ∧
    let rows := m.order ≠ 1
    let count := if rows then (l.x - l.bx + m.sx - 1) / m.sx else (l.y - l.by_ + m.sy - 1) / m.sy
    ps.length = count ∧
    (∀ j p, ps[j]? = some p → p.idx = l.nextIdx + j ∧ p.oz = l.slice ∧ p.entry = e ∧ p.order = m.order ∧ p.band = l.chosen.length ∧
      let i := if m.order = 2 ∧ l.sc % 2 = 1 then count - 1 - j else j
      (rows → p.ox = l.bx + i * m.sx ∧ p.ex = min m.sx (l.x - p.ox) ∧ p.oy = l.by_ ∧ p.ey = min m.sy (l.y - l.by_)) ∧
      (¬ rows → p.ox = l.bx ∧ p.ex = min m.sx (l.x - l.bx) ∧ p.oy = l.by_ + i * m.sy ∧ p.ey = min m.sy (l.y - p.oy))) ∧
    (if rows then
      if l.by_ + min m.sy (l.y - l.by_) = l.y then (l'.slice, l'.bx, l'.by_, l'.sc) = (l.slice + 1, 0, 0, 0)
      else (l'.slice, l'.bx, l'.by_, l'.sc) = (l.slice, l.bx, l.by_ + min m.sy (l.y - l.by_), if m.order = 2 then l.sc + 1 else l.sc)
    else
      if l.bx + min m.sx (l.x - l.bx) = l.x then (l'.slice, l'.bx, l'.by_, l'.sc) = (l.slice + 1, 0, 0, 0)
      else (l'.slice, l'.bx, l'.by_, l'.sc) = (l.slice, l.bx + min m.sx (l.x - l.bx), l.by_, l.sc))

end Sys2Proof.Slice0

/-- 06 R119, R126 to R130: a launch with space left takes the entry that the rules choose and cuts its band; its cut record gets an entry where it is
recorded, for which it waits where a stitch holds the record's line.
Choices of the model: log entries 7, and 65 that the launch's cell is fixed where band 0 is chosen. -/
def Obligations.BandChoice : Prop :=
  ∀ (n : Nat) (s : State) (l : Launch) (cell : CellSt), s.findLaunch? n = some l → l.harness = false → l.slice < l.z → l.ends = false →
    s.findCell? l.cell = some cell → cell.halting = false → s.isSaved n = false →
    (∀ r ∈ l.recs, 0 < r.p ∧ 0 < r.i) → (∀ es, l.replay = some es → es.headD 0 < l.menu.length) → (∀ e ∈ l.chosen, e < l.menu.length) → l.menu ≠ [] →
    let c := l.c.getD cell.cores.length
    ∃ ch, Chooses c l ch ∧ match ch with
      | .hold => exec (.chooseBand n) s = .next s
      | .take e tail => ∃ ps l', BandOf l e ps l' ∧
        l' = { l with
          slice := l'.slice, bx := l'.bx, by_ := l'.by_, sc := l'.sc, cutq := l.cutq ++ ps, chosen := e :: l.chosen
          firsts := l.nextIdx :: l.firsts, tails := tail :: l.tails, nextIdx := l.nextIdx + ps.length, c := some c
          tailMode := l.tailMode || tail, replay := l.replay.map (·.drop 1) } ∧
        (l.cut ≠ 1 → exec (.chooseBand n) s = .next (launchWith n (fun _ => l') s)) ∧
        (l.cut = 1 → l.recLost = false → l'.slice < l.z → ∀ t,
          let write := (launchWith n (fun _ => l') s).writeCtx l.ctx (l.cutAddr + 16 * (l.chosen.length + 1))
            (leBytes 8 (e + if tail then 8 else 0) ++ leBytes 8 l.nextIdx)
          (write = .ok () t → exec (.chooseBand n) s = .next t) ∧
          (write = .waits → exec (.chooseBand n) s = .next s) ∧
          (write = .fails → exec (.chooseBand n) s = .next (launchWith n (fun m => { m with recLost := true }) (launchWith n (fun _ => l') s))))

/-- 16 R259, R260, 06 R120, 04 R75 to R79: the next piece of a launch whose teams find room starts them: each with its body, its piece and all of
its groups, fresh, in a slot and blocks that no other team holds, their lane-private regions all zero, so that nothing of an earlier team can be
read (15 R249); else nothing happens.
Choices of the model: log entries 22, 25, 40, 55. -/
def Obligations.PieceDispatch : Prop :=
  (∀ (n : Nat) (s : State), (s.findLaunch? n = none ∨ ∃ l, s.findLaunch? n = some l ∧ (s.ready? l = none ∨ s.goesFirst l = true)) →
    exec (.pieceDispatch n) s = .next s) ∧
  (∀ (n : Nat) (s : State) (l : Launch) (x : Piece) (c : Nat) (ps : List Spot), s.findLaunch? n = some l → s.ready? l = some (x, c, ps) →
    s.goesFirst l = false → (∀ b ∈ l.bodies, b.2.length ≤ 16) → ∃ (t : State) (ts : List Team) (gs : List (List Group)),
      exec (.pieceDispatch n) s = .next t ∧ t.teams = s.teams ++ ts ∧ t.groups = s.groups ++ gs.flatten ∧ gs.length = l.dispatch.length ∧
      t.grp = s.grp ∧ t.team = s.team ∧ ts.length = l.dispatch.length ∧
      (∀ m ∈ t.launches, m.id = n → ∃ o ∈ s.launches, m = { o with
        cutq := o.cutq.drop 1, running := o.running ++ if o.harness then List.range l.dispatch.length else [x.idx] }) ∧
      (∀ (j : Nat) (y : Team) (d : Body × List W64 × Nat) (p : Spot), ts[j]? = some y → l.dispatch[j]? = some d → ps[j]? = some p →
        y.live = true ∧ y.core = c + d.2.2 ∧ y.slot = p.slot ∧ y.body = d.1 ∧ y.launch = l.id ∧ y.ctx = l.ctx ∧ y.gcnt = d.1.gcnt x.points ∧
        y.seed = l.seed ∧ y.det = l.det ∧ y.shared = l.shared ∧ y.rclk = 0 ∧ y.icnt = 0 ∧ y.acnt = 0 ∧ y.lcnt = 0 ∧ y.bars = [] ∧ y.rings = [] ∧
        y.aNow = d.1.ag ∧ y.agBase = d.1.ag ∧ y.wAll = d.1.wg ∧ y.dAll = d.1.dg ∧ y.wbuf = [] ∧ y.abuf = [] ∧ y.dbuf = [] ∧
        y.harness = l.harness ∧ y.piece = (if l.harness then { x with idx := j } else x)) ∧
      (∀ (j : Nat) (g : List Group) (d : Body × List W64 × Nat) (p : Spot), gs[j]? = some g → l.dispatch[j]? = some d → ps[j]? = some p →
        FreshTeam d.1 x.points d.2.1 (c + d.2.2) p.slot 0 g ∧ ∀ z ∈ g, z.pend = []) ∧
      (let private_ := fun a : Nat => ∃ (j : Nat) (g : List Group) (d : Body × List W64 × Nat), gs[j]? = some g ∧ l.dispatch[j]? = some d ∧
          d.1.priv ≠ 0 ∧ ∃ z ∈ g, z.privBase ≤ a ∧ a < z.privBase + 32 * d.1.priv
       ∀ a, (private_ a → t.mem.byte a = 0) ∧ (¬ private_ a → t.mem.byte a = s.mem.byte a))) ∧
  (∀ (s : State) (b : Body) (points c : Nat) (p : Spot), s.spot? b points c = some p →
    p.slot < 32 ∧ (∀ t ∈ s.allTeams, t.live = true → t.core = c → t.slot ≠ p.slot) ∧
    (∀ (buf : Buf) (need at_ cap : Nat), (buf, need, at_, cap) ∈ [(Buf.w, b.wg, p.w, 64), (.a, b.ag, p.a, 32), (.d, b.dg, p.d, 16)] → need ≠ 0 →
      at_ % buddy need = 0 ∧ at_ + buddy need ≤ cap ∧
      ∀ u ∈ s.blocksOf c buf, u.2 ≠ 0 → at_ + buddy need ≤ u.1 ∨ u.1 + buddy u.2 ≤ at_))

/-- 06 R134 to R137, 22 R369: the oldest finished piece commits, once what it sent at issue after an overflow has performed (R135): its held bytes
reach memory in commit order, so that of two writes of one byte the later in that order stays, and then its children are created in that order; the
launch counts it once each has found room in the cell. A stalled group of the oldest piece has the bytes applied before; its records of children
stay until the commit. Neither does anything where the home of a held add or stitch has to wait for its line (12 R214), and the second only where
the instruction in hand would issue but for the room.
Choices of the model: log entry 41. -/
def Obligations.Commit : Prop :=
  (∀ hs, (commitOrder hs).Perm hs ∧ (commitOrder hs).Pairwise fun a b =>
    a.1 % 2 < b.1 % 2 ∨ (a.1 % 2 = b.1 % 2 ∧ (a.2.2.chain < b.2.2.chain ∨ (a.2.2.chain = b.2.2.chain ∧ (a.2.2.gid < b.2.2.gid ∨
      (a.2.2.gid = b.2.2.gid ∧ (a.2.2.seq < b.2.2.seq ∨ (a.2.2.seq = b.2.2.seq ∧ a.2.2.lane ≤ b.2.2.lane)))))))) ∧
  (∀ (n : Nat) (s : State) (l : Launch) (r : Retired), s.findLaunch? n = some l → l.retired.find? (fun r => r.idx == l.committed) = some r →
    r.idx ∉ l.running → (∀ f, l.faultIdx = some f → r.idx < f) → s.commitHeld l = false →
    s.commitServed r.held = true →
    ((∃ t ∈ s.allTeams, t.live = true ∧ t.launch = n ∧ t.piece.idx = r.idx ∧ t.through = true ∧ s.teamBusy t = true) →
      exec (.pieceCommit n) s = .next s) ∧
    ((∀ t ∈ s.allTeams, t.live = true → t.launch = n → t.piece.idx = r.idx → t.through = true → s.teamBusy t = false) →
    (s.applyAll l r.idx r.held = none → exec (.pieceCommit n) s = .next s) ∧
    (s.applyAll l r.idx r.held ≠ none →
    let kids := if l.ends then 0 else r.held.countP fun h => h.2.2.isChild
    ∃ t, exec (.pieceCommit n) s = .next t ∧
      (∀ cells : List (List Host.Cell), ((commitOrder r.held).filter fun h => !h.2.2.isChild).map (fun h => h.2.2.kind) = cells.map HeldKind.bytes →
        (∀ cs ∈ cells, ∀ c ∈ cs, s.poisoned.contains (c.1 / 128) = false) →
        ∀ a, t.mem.byte a = ((cells.flatten.reverse.find? fun c => c.1 == a).map (·.2)).getD (s.mem.byte a)) ∧
      (s.cellChildren l.cell + kids ≤ 256 →
        (∀ m ∈ t.launches, m.id = n → m.retired.all (fun x => x.idx != r.idx) = true) ∧
        (∃ m, t.findLaunch? n = some m ∧ m.committed = l.committed + 1) ∧
        ∃ new, t.children = s.children ++ new ∧ new.length = kids ∧ ∀ (j : Nat) (c : Child), new[j]? = some c →
          c.id = s.nextLaunch + j ∧ c.k = r.idx ∧ c.i = l.born + j ∧ c.parent = l.id ∧ c.queue = l.queue ∧ c.ctx = l.ctx ∧ c.cell = l.cell) ∧
      (s.cellChildren l.cell ≤ 256 → 256 < s.cellChildren l.cell + kids → ∃ m, t.findLaunch? n = some m ∧ m.committed = l.committed ∧
        t.cellChildren l.cell = 256 ∧ ∃ q ∈ m.retired, q.idx = r.idx ∧ ∀ h ∈ q.held, h.2.2.isChild = true)))) ∧
  (∀ (c k i : Nat) (s x : State) (ins : Instr) (l : Launch), InFocus c k i s x → x.grp.susp = .ready → x.inHand? = some ins →
    x.findLaunch? x.team.launch = some l → x.overflows (x.slotNeed ins) = true → x.oldest = true → x.ending = false → x.commitHeld l = false →
    let held := x.pieceTeams.flatMap (fun t => t.held.map fun h => (t.core, t.slot, h)) ++
      (l.retired.filter fun r => r.idx == x.team.piece.idx).flatMap (·.held)
    let records := fun hs : List Held => (hs.filter fun h => h.isChild).map fun h => { h with slots := 0 }
    x.commitServed held = true → x.team.live = true → x.holds ins = false → Instr.isNever ins = false → x.grp.bounds ins = none →
    (x.applyAll l x.team.piece.idx held = none → exec (.commitOverflow c k i) s = .next s) ∧
    (x.applyAll l x.team.piece.idx held ≠ none →
    ∃ y, exec (.commitOverflow c k i) s = .next (back s x y) ∧ y.team.held = records x.team.held ∧ y.team.through = true ∧ y.grp = x.grp ∧
      y.children = x.children ∧
      (∀ t ∈ y.teams, t.live = true → t.launch = x.team.launch → t.piece.idx = x.team.piece.idx →
        (∀ h ∈ t.held, h.isChild = true ∧ h.slots = 0) ∧ t.through = true) ∧
      ∀ cells : List (List Host.Cell), ((commitOrder held).filter fun h => !h.2.2.isChild).map (fun h => h.2.2.kind) = cells.map HeldKind.bytes →
        (∀ cs ∈ cells, ∀ c ∈ cs, x.poisoned.contains (c.1 / 128) = false) →
        ∀ a, y.mem.byte a = ((cells.flatten.reverse.find? fun c => c.1 == a).map (·.2)).getD (x.mem.byte a)))

namespace Sys2Proof.Slice0

/-- The status word of a launch (16 Table 16-3). -/
def statusOf (l : Launch) : Nat :=
  match l.status with
  | some c => c
  | none => match l.fault with
    | some k => 6 + 256 * k
    | none => if l.recLost then 7 else 0

end Sys2Proof.Slice0

/-- 06 R137, 22 R368, R369, 16 R256, R264: the first waiting child of a queue becomes a launch whose parent is named, once its piece has committed
or that commit waits for room, and never where a parent under DET is ending (17 R275); one whose dependence is lost fails. A launch that is done
writes its status word, for which it waits where a stitch holds the line, and is gone, its queue halted where STOP is set and the status is not OK.
Choices of the model: log entry 45; that a child may start while its piece still waits for room to commit, where its cell holds 256 children, is log
entry 41 (06 R137 says: once the piece has committed). -/
def Obligations.LaunchBoundaries : Prop :=
  (∀ (n : Nat) (s : State) (c : Child) (k : CellSt), s.children.find? (fun c => c.id == n) = some c →
    (s.children.find? fun x => x.queue == c.queue).map (·.id) = some n → s.findCell? c.cell = some k → s.mayRun k c.ctx = true → s.childDue c = true →
    (leNat (c.bytes.take 8) / 2 ^ 17 % 2 = 1 → c.lost = false → ∀ l ∈ s.launches, l.queue = c.queue → n ≤ l.id) → (∀ l ∈ s.launches, l.id ≠ n) →
    let s1 := if leNat (c.bytes.take 8) / 2 ^ 16 % 2 = 1 then s.dropIcache c.cell else s
    let s2 := cellWith c.cell (fun k => { k with ctx := some c.ctx })
      (State.bindCtx c.ctx { s1 with children := s.children.filter fun x => x.id != n })
    let accepted := acceptRecord n c.queue c.ctx c.cell (some (c.parent, c.k, c.i)) none c.bytes s2
    (accepted = none → exec (.childLaunchStart n) s = .next s) ∧
    (accepted ≠ none →
    ∃ t, exec (.childLaunchStart n) s = .next t ∧ t.children = s.children.filter (fun x => x.id != n) ∧ t.grp = s.grp ∧
      t.nextAccept = s.nextAccept + 1 ∧
      ∃ m, t.launches = s.launches ++ [m] ∧ m.id = n ∧ m.queue = c.queue ∧ m.ctx = c.ctx ∧ m.cell = c.cell ∧ m.seq = s.nextAccept ∧
        m.parent = some (c.parent, c.k, c.i) ∧ (c.lost = true → m.status ≠ none))) ∧
  (∀ (s : State) (c : Child), s.childDue c = true ↔ ((256 ≤ s.cellChildren c.cell ∨
    ∀ l, s.findLaunch? c.parent = some l → l.det = true → c.k < l.committed) ∧
    ∀ l, s.findLaunch? c.parent = some l → l.det = true → l.ends = false)) ∧
  (∀ (n : Nat) (s : State) (l : Launch), s.findLaunch? n = some l → s.launchDone l = true →
    let gone := fun s : State => { s with launches := s.launches.filter fun x => x.id != l.id }
    let finish := fun s : State => if l.stop = true ∧ statusOf l ≠ 0 then (gone s).haltQueue l.queue 3 else gone s
    let write := s.writeCtx l.ctx l.signal (leBytes 8 (statusOf l))
    (s.qcbServed l.queue = false → exec (.completionSignal n) s = .next s) ∧
    (s.qcbServed l.queue = true →
      (l.signal = 0 → exec (.completionSignal n) s = .next (finish s)) ∧
      (∀ s1, l.signal ≠ 0 → write = .ok () s1 → exec (.completionSignal n) s = .next (finish s1)) ∧
      (l.signal ≠ 0 → write = .waits → exec (.completionSignal n) s = .next s) ∧
      (l.signal ≠ 0 → write = .fails → exec (.completionSignal n) s = .next (finish (s.haltQueue l.queue 6)))))

/-! ## The queue front end (16 R250 to R258, R263 to R265) -/

namespace Sys2Proof.Slice0

/-- A queue through a function. -/
def queueWith (n : Nat) (f : Queue → Queue) (s : State) : State :=
  { s with queues := s.queues.map fun q => if q.num == n then f q else q }

/-- No slot of the cell with a higher effective priority, or the same and a lower number, has a packet that can go on (16 R258). -/
def InTurn (slot : Nat) (s : State) : Prop := ∃ x, s.slotOf? slot = some x ∧ ∀ y ∈ s.slotsBefore x, s.slotReady y.idx = false

/-- The front end may look at a slot's packet: it is the slot's turn, and neither the cell, the clock mode, a child of the queue nor a stitch that
holds the QCB's line keeps it off. -/
def Looks (slot : Nat) (q : Queue) (s : State) : Prop :=
  s.slotQueue? slot = some q ∧ InTurn slot s ∧ q.halt = false ∧ q.rd + 8 ≤ q.wr ∧ (∃ k, s.findCell? q.cell = some k ∧ k.halting = false) ∧
  s.dev.lockWanted = none ∧ (∀ c ∈ s.children, c.queue ≠ q.num) ∧ s.served q.qcb = true

/-- The packet of a type stands at the head of a slot's queue and may be taken: its header of 8 bytes has been read, and at a HARNESS the word after
it, which has NT; bs are its bytes, s2 the state after they have been read (16 R252). With BAR the queue's earlier launches have completed, or that
dependence was lost (16 R264). -/
def Offered (slot ty : Nat) (q : Queue) (bs : List Byte) (s s2 : State) : Prop :=
  Looks slot q s ∧
  ∃ hd s0 s1, s.readCtx q.ctx (q.ring + q.rd % 2 ^ q.log2) 8 = .ok hd s0 ∧
    let h := leNat (hd.take 8)
    let n := 16 * (h / 2 ^ 8 % 2 ^ 8)
    h < 2 ^ 19 ∧ h % 2 ^ 8 = ty ∧ lenOk ty (h / 2 ^ 8 % 2 ^ 8) = true ∧
    (ty ≠ 2 → s1 = s0) ∧
    (ty = 2 → ∃ w, s0.readCtx q.ctx (q.ring + q.rd % 2 ^ q.log2 + 8) 8 = .ok w s1 ∧ leNat (w.take 8) % 16 = (h / 2 ^ 8 % 2 ^ 8 - 2) / 9) ∧
    (ty ≠ 7 → q.rd % 2 ^ q.log2 + n ≤ 2 ^ q.log2) ∧ n ≤ 2 ^ q.log2 ∧ q.rd + n ≤ q.wr ∧
    (h / 2 ^ 17 % 2 = 1 → (∃ x, q.deplost = some x ∧ q.rd = x.1) ∨ s.queueBusy q.num = false) ∧
    s1.readCtx q.ctx (q.ring + q.rd % 2 ^ q.log2) (if ty = 7 then 8 else n) = .ok bs s2 ∧ s2.findQueue? q.num = some q

/-- Acceptance: with IC the cell's instruction caches are emptied, then RD moves, in the queue and in its QCB (16 R252, 03 R73). -/
def accepted (q : Queue) (bs : List Byte) (rd : Nat) (s : State) : State :=
  let drop := fun c : Core => match s.findCell? q.cell with
    | some k => if leNat (bs.take 8) / 2 ^ 16 % 2 = 1 ∧ k.clusters.contains (c.id / 8) = true then { c with icache := [] } else c
    | none => c
  queueWith q.num (fun p => { p with rd := rd, padded := decide (q.wr < rd) })
    (State.qcbPut (q.qcb + 0x18) rd { s with core := drop s.core, cores := s.cores.map drop })

/-- A packet that changes nothing, once read, is left as it stands. -/
def taken (s s2 t : State) : State := if t = s2 then s else t

/-- The i-th 8-byte word of a packet. -/
def packetWord (bs : List Byte) (i : Nat) : Nat := leNat ((bs.drop (8 * i)).take 8)

/-- A comparison of WAIT (16 R255). -/
def Holds (cond v x : Nat) : Prop := (cond = 0 ∧ v = x) ∨ (cond = 1 ∧ v ≠ x) ∨ (cond = 2 ∧ x ≤ v) ∨ (cond = 3 ∧ v < x)

end Sys2Proof.Slice0

/-- 16 R251 to R254, R258, R264: a SPACE or HARNESS packet is accepted in its slot's turn where its cell may run the context, and becomes the launch
of the next number, or one that has failed its checks or whose dependence was lost. A header that breaks its rules, or one that cannot be read,
halts the queue, with reason FORMAT, STRADDLE or ACCESS: only its 8 bytes are read, and for a HARNESS the word with NT where it stands in the ring.
Choices of the model: log entries 27, 32, 54, 72. -/
def Sys2Proof.Slice0.LaunchPackets : Prop :=
  (∀ (ev : Instr) (slot ty : Nat) (q : Queue) (bs : List Byte) (s s2 : State) (k : CellSt),
    ((ev = .spacePacket slot ∧ ty = 1) ∨ (ev = .harnessPacket slot ∧ ty = 2)) → Offered slot ty q bs s s2 → bs.length = 16 * (leNat (bs.take 8) / 2 ^ 8 % 2 ^ 8) →
    leNat (bs.take 8) % 2 ^ 8 = ty → s2.findCell? q.cell = some k →
    (∀ m ∈ s2.launches, m.id ≠ s2.nextLaunch) →
    let s3 := cellWith q.cell (fun k => { k with ctx := some q.ctx })
      (State.bindCtx q.ctx { accepted q bs (q.rd + bs.length) s2 with nextLaunch := s2.nextLaunch + 1 })
    let made := acceptRecord s2.nextLaunch q.num q.ctx q.cell none q.cutload bs s3
    (packetWord bs (if ty = 1 then 10 else 2) % 8 = 0 → s2.mayRun k q.ctx = true → made = none → exec ev s = .next s) ∧
    (packetWord bs (if ty = 1 then 10 else 2) % 8 = 0 → s2.mayRun k q.ctx = true → made ≠ none → ∃ t l, exec ev s = .next t ∧
      t.launches = s2.launches ++ [l] ∧ t.nextLaunch = s2.nextLaunch + 1 ∧ l.id = s2.nextLaunch ∧ l.queue = q.num ∧ l.ctx = q.ctx ∧
      l.cell = q.cell ∧ l.signal = packetWord bs (if ty = 1 then 10 else 2) ∧ l.parent = none ∧ l.seq = s2.nextAccept ∧
      (∀ x, q.deplost = some x → q.rd < x.2 → l.status.isSome = true) ∧
      (∃ q', t.findQueue? q.num = some q' ∧ q'.rd = q.rd + bs.length ∧ q'.cutload = if ty = 1 then none else q.cutload) ∧ t.grp = s2.grp) ∧
    (packetWord bs (if ty = 1 then 10 else 2) % 8 = 0 → s2.mayRun k q.ctx = false → exec ev s = .next s) ∧
    (packetWord bs (if ty = 1 then 10 else 2) % 8 ≠ 0 → exec ev s = .next (taken s s2 (s2.haltQueue q.num 2)))) ∧
  (∀ (ev : Instr) (slot : Nat) (q : Queue) (s : State),
    ev ∈ [.spacePacket slot, .harnessPacket slot, .waitPacket slot, .signalPacket slot, .cutloadPacket slot, .stdefPacket slot,
      .padPacket slot] →
    Looks slot q s →
    let off := q.rd % 2 ^ q.log2
    let header := s.readCtx q.ctx (q.ring + off) 8
    (header = .waits → exec ev s = .next s) ∧ (header = .fails → exec ev s = .next (s.haltQueue q.num 6)) ∧
    ∀ hd s1, header = .ok hd s1 →
    let h := leNat (hd.take 8)
    let n := 16 * (h / 2 ^ 8 % 2 ^ 8)
    let good := h < 2 ^ 19 ∧ lenOk (h % 2 ^ 8) (h / 2 ^ 8 % 2 ^ 8) = true
    let straddles := (h % 2 ^ 8 ≠ 7 ∧ 2 ^ q.log2 < off + n) ∨ 2 ^ q.log2 < n
    (¬ good → exec ev s = .next (s1.haltQueue q.num 2)) ∧
    (good → (h % 2 ^ 8 ≠ 2 ∨ 2 ^ q.log2 < off + 16) → straddles → exec ev s = .next (s1.haltQueue q.num 1)) ∧
    (good → h % 2 ^ 8 = 2 → off + 16 ≤ 2 ^ q.log2 →
      (q.wr < q.rd + 16 → exec ev s = .next s) ∧
      (q.rd + 16 ≤ q.wr →
        let nt := s1.readCtx q.ctx (q.ring + off + 8) 8
        (nt = .waits → exec ev s = .next s) ∧ (nt = .fails → exec ev s = .next (s1.haltQueue q.num 6)) ∧
        ∀ w s2, nt = .ok w s2 →
          (leNat (w.take 8) % 16 ≠ (h / 2 ^ 8 % 2 ^ 8 - 2) / 9 → exec ev s = .next (s2.haltQueue q.num 2)) ∧
          (leNat (w.take 8) % 16 = (h / 2 ^ 8 % 2 ^ 8 - 2) / 9 → straddles → exec ev s = .next (s2.haltQueue q.num 1)))))

/-- 16 R252, R253, R255, R264, 12 R217: WAIT is accepted once its comparison holds, reread at each event of its word's memory, or at once where its
dependence was lost; SIGNAL writes or adds; CUTLOAD names the record for the next SPACE; STDEF installs an image and writes its status word; PAD
moves RD to the ring's end. A word whose line a stitch holds is waited for; one that cannot be reached halts the queue.
Choices of the model: log entries 26, 27, 54. -/
def Sys2Proof.Slice0.QueuePackets : Prop :=
  ∀ (slot : Nat) (q : Queue) (bs : List Byte) (s s2 : State),
    let rd := q.rd + bs.length
    (∀ ev, Offered slot 3 q bs s s2 → packetWord bs 1 % 8 = 0 → packetWord bs 3 < 4 →
      (ev = .waitPacket slot ∨ ev = .waitReevaluate slot ∨ ev = .waitRereadTimer slot) →
      let word := s2.reach q.ctx (packetWord bs 1) .r
      (word = .waits → exec ev s = .next s) ∧ (word = .fails → exec ev s = .next (taken s s2 (s2.haltQueue q.num 6))) ∧
      ∀ a s3, word = .ok a s3 →
        (q.freed = true → exec ev s = .next (taken s s2 (accepted q bs rd s3))) ∧
        (q.freed = false → (ev = .waitReevaluate slot → a.key < 2 ^ 52 ∨ 2 ^ 53 ≤ a.key) →
            (ev = .waitRereadTimer slot → 2 ^ 52 ≤ a.key ∧ a.key < 2 ^ 53) →
          (Holds (packetWord bs 3) (s3.mem.word a.key 8) (packetWord bs 2) →
            exec ev s = .next (taken s s2 (accepted q bs rd (s3.askHome q.ctx false [a])))) ∧
          (¬ Holds (packetWord bs 3) (s3.mem.word a.key 8) (packetWord bs 2) → exec ev s = .next s))) ∧
    (Offered slot 4 q bs s s2 → packetWord bs 1 % 8 = 0 → packetWord bs 3 < 2 →
      let word := s2.reach q.ctx (packetWord bs 1) (if packetWord bs 3 = 1 then .rw else .w)
      (word = .waits → exec (.signalPacket slot) s = .next s) ∧
      (word = .fails → exec (.signalPacket slot) s = .next (taken s s2 (s2.haltQueue q.num 6))) ∧
      ∀ a s3, word = .ok a s3 → exec (.signalPacket slot) s = .next (taken s s2 (accepted q bs rd ((s3.askHome q.ctx true [a]).writeMem (leCells a.key 8
        (if packetWord bs 3 = 1 then s3.mem.word a.key 8 + packetWord bs 2 else packetWord bs 2)))))) ∧
    (Offered slot 5 q bs s s2 → packetWord bs 1 % 16 = 0 → exec (.cutloadPacket slot) s =
      .next (taken s s2 (queueWith q.num (fun q => { q with cutload := some (packetWord bs 1) }) (accepted q bs rd s2)))) ∧
    (∀ img s3 s4, Offered slot 6 q bs s s2 → packetWord bs 1 % 8 = 0 → packetWord bs 3 % 8 = 0 → packetWord bs 2 ≤ 255 →
      s2.readImage q.ctx (packetWord bs 1) = .ok img s3 →
      (let r := s3.install q.ctx (packetWord bs 2) img; r.2.2.writeCtx q.ctx (packetWord bs 3) (leBytes 8 (r.1 + 256 * r.2.1))) = .ok () s4 →
      s4.findQueue? q.num = some q → exec (.stdefPacket slot) s = .next (taken s s2 (accepted q bs rd s4))) ∧
    (Offered slot 7 q bs s s2 →
      exec (.padPacket slot) s = .next (taken s s2 (accepted q bs ((q.rd / 2 ^ q.log2 + 1) * 2 ^ q.log2) s2)))

/-- 16 R257, R258, R263 to R265: a kick makes a queue's doorbell pending, has a mapped queue read WR and the word of its WAIT in host memory, and does
nothing to a halted one; firmware serves the doorbell; a pending queue takes a slot by effective priority, which ages; an error halts the queue
and ends its launches; a lost dependence is kept for the launches that depend on it.
Choices of the model: log entries 3, 27. -/
def Sys2Proof.Slice0.QueueEvents : Prop :=
  ∀ (n : Nat) (s : State) (q : Queue), s.findQueue? n = some q →
    (∀ v : W64, v.toNat % 2 ^ 12 = n → q.halt = false → (∀ x ∈ s.slots, x.queue ≠ some n) →
      exec (.kick v) s = .next (queueWith n (fun q => { q with doorbell := true }) s)) ∧
    (∀ v : W64, v.toNat % 2 ^ 12 = n → q.halt = true → exec (.kick v) s = .next s) ∧
    (∀ (v : W64) (x : SlotSt), v.toNat % 2 ^ 12 = n → q.halt = false → s.slots.find? (fun x => x.queue == some n) = some x →
      (s.served q.qcb = false → exec (.kick v) s = .next (queueWith n (fun q => { q with doorbell := true }) s)) ∧
      (s.served q.qcb = true →
        let w := s.mem.word (q.qcb + 0x20) 8
        let read := queueWith n (fun _ => { q with wr := w, padded := q.padded && decide (w < q.rd) }) s
        (q.rd ≤ w → w ≤ q.rd + 2 ^ q.log2 → exec (.kick v) s = exec (.waitRereadTimer x.idx) read) ∧
        (q.rd + 2 ^ q.log2 < w → exec (.kick v) s = exec (.waitRereadTimer x.idx) (read.haltQueue n 2)))) ∧
    (q.doorbell = true → s.served q.qcb = false → exec (.doorbellService n) s = .next s) ∧
    (q.doorbell = true → q.halt = false → s.served q.qcb = true → s.mapped n = false → q.rd < s.mem.word (q.qcb + 0x20) 8 →
      s.mem.word (q.qcb + 0x20) 8 ≤ q.rd + 2 ^ q.log2 → ∃ t q', exec (.doorbellService n) s = .next t ∧ t.findQueue? n = some q' ∧
        q' = { q with doorbell := false, pending := true, wr := s.mem.word (q.qcb + 0x20) 8, padded := false, steps := if q.pending then q.steps else 0 } ∧
        t.slots = s.slots ∧ SameMemory s t) ∧
    (∀ i x, q.pending = true → q.halt = false → s.mapsFirst q = false → s.slotFor q = some i → s.slotOf? i = some x → x.queue = none → s.served q.qcb = true →
      s.mem.firmwareClear q.qcb = true → q.rd ≤ s.mem.word (q.qcb + 0x20) 8 → s.mem.word (q.qcb + 0x20) 8 ≤ q.rd + 2 ^ q.log2 →
      ∃ t q', exec (.queueMap n) s = .next t ∧ t.findQueue? n = some q' ∧
        q' = { q with eff := min q.ceil (q.prio + q.steps), pending := false, steps := 0, wr := s.mem.word (q.qcb + 0x20) 8, padded := false } ∧
        t.cells = s.cells.map (fun k => if k.id == q.cell then { k with ctx := some (k.ctx.getD q.ctx) } else k) ∧
        t.slots = s.slots.map (fun y => if y.idx == i then { y with queue := some n } else y) ∧ SameMemory s t) ∧
    (q.pending = true → (∀ x ∈ s.queues, x.num = n → x = q) →
      exec (.priorityAgeing n) s = .next (queueWith n (fun q => { q with steps := q.steps + 1 }) s)) ∧
    (s.served q.qcb = false → exec (.queueSramError n) s = .next s) ∧
    (s.served q.qcb = true → ∃ t, exec (.queueSramError n) s = .next t ∧ (∃ q', t.findQueue? n = some q' ∧ q'.halt = true ∧ (q.halt = false → q'.hstat = 4)) ∧
      (∀ l ∈ t.launches, l.queue = n → s.isSaved l.id = false → l.ends = true) ∧
      (q.halt = false → (∀ c ∈ leCells q.qcb 8 0, s.poisoned.contains (c.1 / 128) = false) → t.mem = s.mem.putWord q.qcb 8 (putBits (putBits (s.mem.word q.qcb 8) 18 1 1) 24 4 4))) ∧
    ((∀ c ∈ s.children, c.queue ≠ n) → exec (.deplost n) s =
      .next (if s.counterLive q then queueWith n (fun p => { p with deplost := some (p.rd, p.wr) }) s else s)) ∧
    (∀ c, s.children.find? (fun c => c.queue == n) = some c → exec (.deplost n) s = .next (
      if leNat (c.bytes.take 8) / 2 ^ 17 % 2 = 1 ∧ (∃ l ∈ s.launches, l.queue = n ∧ l.id < c.id) then
        { s with children := s.children.map fun x => if x.id == c.id then { x with lost := true } else x }
      else s))

namespace Sys2Proof.Slice0

/-- A mapped queue of a slot that yields it whatever the priorities: it has no launch, and is empty or halted (16 R258). -/
def IdleSlot (s : State) (y : SlotSt) : Prop :=
  ∃ v p, y.queue = some v ∧ s.findQueue? v = some p ∧ s.queueBusy p.num = false ∧ (p.halt = true ∨ p.wr ≤ p.rd)

end Sys2Proof.Slice0

/-- 16 R258: a slot that a pending queue takes is the first free one of its cell; with none free, the first whose queue has no launch and is empty or
halted; with none such, that of the queue of least effective priority, below its own, without a launch. -/
def Sys2Proof.Slice0.SlotChoice : Prop :=
  ∀ (s : State) (q : Queue) (i : Nat), s.slotFor q = some i → ∃ x ∈ s.slots, x.idx = i ∧ x.cell = q.cell ∧
    ((x.queue = none ∧ ∃ pre post, s.slots = pre ++ x :: post ∧ ∀ y ∈ pre, y.cell = q.cell → y.queue ≠ none) ∨
      ((∀ y ∈ s.slots, y.cell = q.cell → y.queue ≠ none) ∧
        ((IdleSlot s x ∧ ∃ pre post, s.slots = pre ++ x :: post ∧ ∀ y ∈ pre, y.cell = q.cell → ¬ IdleSlot s y) ∨
        (∀ y ∈ s.slots, y.cell = q.cell → ¬ IdleSlot s y) ∧ ∃ v, x.queue = some v ∧ s.effOf v < min q.ceil (q.prio + q.steps) ∧ s.queueBusy v = false ∧
          ∀ y ∈ s.slots, y.cell = q.cell → ∀ w, y.queue = some w → s.effOf v < s.effOf w ∨ (s.effOf v = s.effOf w ∧ y.idx ≤ x.idx))))

/-! ## Pre-emption (17 R277 to R282) -/

/-- 17 R277, R279, 01 R24: pre-emption is asked of a cell whose save has room, and the slice clock of its die then stands at 2600 MHz or more; it
reports the halt once nothing of the cell is in flight: no routine, no issued instruction, no RESIZE that waits (08 R160), no line that a team asked
for. An image moves between the shadow ways of its die and the overflow area where there is room.
Choices of the model: log entries 46, 57. -/
def Sys2Proof.Slice0.PreemptionRequests : Prop :=
  (∀ (n : Nat) (s : State) (c : CellSt), s.findCell? n = some c →
    let size := imageSize (s.cellTeams c) (s.cellGroups c) (s.launches.filter fun l => l.cell == n && !s.isSaved l.id).length
    let fits := s.imageBytes c.die false + size ≤ 2 ^ 27 * s.dev.record.shw ∨ s.imageBytes c.die true + size ≤ 2 ^ 32
    (fits → exec (.preemption n) s = .next (cellWith n (fun c => { c with halting := true })
      { s with dev := { s.dev with sliceMhz := s.dev.sliceMhz.mapIdx fun i f => if i = c.die then Nat.max 2600 f else f } })) ∧
    (¬ fits → exec (.preemption n) s = .next s)) ∧
  (∀ (n : Nat) (s : State) (c : CellSt), s.findCell? n = some c → c.halting = true →
    let still := (∀ r, s.run = some r → r.core / 8 ∉ c.clusters) ∧ (∀ g ∈ s.allGroups, g.live = true → g.core / 8 ∈ c.clusters →
      g.pend = [] ∧ (∀ b, g.susp ≠ .sync b) ∧ (∀ j w a, g.susp ≠ .rput j w a) ∧ (g.resizing = true → s.canIssue g = false)) ∧
      ∀ x ∈ s.allTeams, x.live = true → x.core / 8 ∈ c.clusters → ∀ f ∈ s.fills, f.req.tag ≠ some ⟨x.core, x.slot, x.gen⟩
    (still → exec (.haltReported n) s = .next (cellWith n (fun c => { c with reported := true }) s)) ∧
    (¬ still → exec (.haltReported n) s = .next s)) ∧
  (∀ (n : Nat) (out : Bool) (s : State) (m : Image), s.images.find? (fun m => m.num == n) = some m → m.inOverflow ≠ out →
    s.imageBytes m.die out + imageSize m.teams m.groups m.launches.length ≤ (if out then 2 ^ 32 else 2 ^ 27 * s.dev.record.shw) →
    exec (.shadowImageMove n out) s = .next { s with
      images := s.images.map fun m => if m.num == n then { m with inOverflow := out } else m })

/-- 17 R279, R280, Table 17-7: the save takes the teams and groups of a cell, as they are, into an image in the shadow ways, or in the overflow area
where those have no room, and leaves the cell empty; where neither has room, or nothing is resident, the cell goes on as it was, its halt over.
Choices of the model: log entry 57. -/
def Sys2Proof.Slice0.ContextSaved : Prop :=
  ∀ (n : Nat) (s : State) (c : CellSt), s.findCell? n = some c → c.reported = true →
    let ls := s.launches.filter fun l => l.cell == n && !s.isSaved l.id
    let size := imageSize (s.cellTeams c) (s.cellGroups c) ls.length
    let inWays := s.imageBytes c.die false + size ≤ 2 ^ 27 * s.dev.record.shw
    let inArea := s.imageBytes c.die true + size ≤ 2 ^ 32
    ((∃ l ∈ ls, l.ends = true ∨ s.launchDone l = true) → exec (.contextSave n) s = .next s) ∧
    ((∀ l ∈ ls, l.ends = false ∧ s.launchDone l = false) → c.ctx = none ∨ ls = [] ∨ ¬ inWays ∧ ¬ inArea →
      exec (.contextSave n) s = .next (cellWith n (fun c => { c with halting := false, reported := false }) s)) ∧
    ∀ (ctx : Nat), (∀ l ∈ ls, l.ends = false ∧ s.launchDone l = false) → c.ctx = some ctx → ls ≠ [] → inWays ∨ inArea →
    ∃ t m, exec (.contextSave n) s = .next t ∧ t.images = s.images ++ [m] ∧ t.nextImage = s.nextImage + 1 ∧ m.num = s.nextImage ∧ m.ctx = ctx ∧ m.die = c.die ∧
      (m.inOverflow = true ↔ ¬ inWays) ∧
      m.teams = s.allTeams.filter (fun x => x.live && c.clusters.contains (x.core / 8)) ∧
      m.groups = s.allGroups.filter (fun g => g.live && c.clusters.contains (g.core / 8)) ∧
      m.launches = ls.map (·.id) ∧
      (∀ x ∈ t.allTeams, x.live = true → x.core / 8 ∉ c.clusters) ∧ t.launches = s.launches ∧ SameMemory s t ∧
      (∀ y ∈ t.allCores, y.id / 8 ∈ c.clusters → ∀ z ∈ y.lines, z.ctx ≠ ctx) ∧
      ∃ k, t.findCell? n = some k ∧ k.ctx = none ∧ k.halting = false ∧ k.reported = false

namespace Sys2Proof.Slice0

/-- What happens before, at a new core: L1 there stands at epoch e, and nothing of the team is queued. -/
def movedKnow (e : Nat) (k : Know) : Know := { k with epoch := e, upto := 0 }
def movedHand (e : Nat) (h : Hand) : Hand := { h with near := movedKnow e h.near }
def movedRelease (e : Nat) (r : Release) : Release := { r with hand := movedHand e r.hand }
def movedRel (e : Nat) (r : Rel) : Rel := { r with what := movedRelease e r.what }

/-- A restored group is the saved one at another core and team slot. What its acquires know of L1 stands at epoch e of the new core, a convention of
the model (log entry 9), and records that it has still to write name the new place (Table 17-7). -/
def restored (c k e : Nat) (g : Group) : Group :=
  { g with core := c, slot := k, know := movedKnow e g.know, readKnow := movedHand e g.readKnow, fork := movedKnow e g.fork,
           ownRels := g.ownRels.map (movedRel e),
           fenceTeam := g.fenceTeam.map fun m => { m with upto := 0 }, fenceDev := g.fenceDev.map fun m => { m with upto := 0 },
           recs := if g.unwritten then g.recs.map fun r => { r with core := c, team := k } else g.recs }

/-- The same of a team: its allocations stand where the new core has room, its generation is that of the slot. Its held writes have a place o in the
new core's order that no instruction there has. -/
def RestoredTeam (c k e o : Nat) (old new : Team) : Prop :=
  ∃ gen w a d, new = { old with
      core := c, slot := k, gen := gen, wpos := w, apos := a, dpos := d,
      rels := old.rels.map (movedRel e)
      held := old.held.map fun h => { h with rel := h.rel.map (movedRelease e), order := o }
      bars := old.bars.map fun b => (b.1, { b.2 with cur := movedKnow e b.2.cur, done := movedKnow e b.2.done })
      poolKnow := old.poolKnow.map fun b => (b.1, movedKnow e b.2) }

end Sys2Proof.Slice0

/-- 17 R281, 18 R284: a restore brings every team of an image, and every group of each, registers and all, to the cores and slots that firmware
chooses in a cell, and its launches and their waiting children with them; where the places do not hold them, or a slot of higher priority and
another context has a packet that waits, nothing happens. -/
def Sys2Proof.Slice0.ContextRestored : Prop :=
  ∀ (n cell : Nat) (places : List (Nat × Nat)) (s s1 : State) (m : Image) (c : CellSt),
    s.images.find? (fun m => m.num == n) = some m → s.findCell? cell = some c →
    (places.length ≠ m.teams.length ∨ s.mayRun c m.ctx = false ∨ s.outranked cell m = true ∨ placesOk (m.teams.zip places) = false ∨
      (∃ p ∈ places, p.1 / 8 ∉ c.clusters) ∨ (s.raiseSlice c.die).placeAll m (m.teams.zip places) = none →
      exec (.contextRestore n cell places) s = .next s) ∧
    (places.length = m.teams.length → s.mayRun c m.ctx = true → s.outranked cell m = false →
    placesOk (m.teams.zip places) = true → (∀ p ∈ places, p.1 / 8 ∈ c.clusters) → (s.raiseSlice c.die).placeAll m (m.teams.zip places) = some s1 →
    ∃ t, exec (.contextRestore n cell places) s = .next t ∧ t.images = s.images.filter (fun x => x.num != n) ∧ SameMemory s t ∧
      t.grp = s.grp ∧ t.team = s.team ∧
      (∃ (ts : List Team) (gs : List (List Group)), t.teams = s.teams ++ ts ∧ ts.length = m.teams.length ∧ t.groups = s.groups ++ gs.flatten ∧ gs.length = m.teams.length ∧
        ∀ (j : Nat) (a b : Team) (p : Nat × Nat) (g : List Group), m.teams[j]? = some a → ts[j]? = some b → places[j]? = some p → gs[j]? = some g →
          ∃ e o, RestoredTeam p.1 p.2 e o a b ∧ (∀ y, t.findCore? p.1 = some y → o < y.seq) ∧ g = (m.groups.filter fun x => x.core == a.core && x.slot == a.slot).map (restored p.1 p.2 e)) ∧
      t.launches.map (fun l => if l.id ∈ m.launches then { l with cell := 0 } else l) =
        s.launches.map (fun l => if l.id ∈ m.launches then { l with cell := 0 } else l) ∧
      (∀ l ∈ t.launches, l.id ∈ m.launches → l.cell = cell) ∧ (∀ x ∈ t.children, x.parent ∈ m.launches → x.cell = cell) ∧
      (∃ k, t.findCell? cell = some k ∧ k.ctx = some m.ctx) ∧
      ∀ f, t.dev.sliceMhz[c.die]? = some f → 2600 ≤ f)

/-! ## The host's commands (19 R287 to R290, Tables 19-1, 19-2; 16 R265, R266; 01 R25; 08 R154) -/

namespace Sys2Proof.Slice0

/-- The commands, with their codes and the bits of CMDARG that they have (19 Table 19-2). -/
def commandRow : Instr → Option (Nat × Nat)
  | .create => some (1, 2 ^ 64 - 1)
  | .end_ => some (2, 0xFFF)
  | .clock => some (3, 1)
  | .freeze => some (4, 0)
  | .negotiate => some (5, 0xFFFFF)
  | .ctxnew => some (6, 2 ^ 64 - 1)
  | .ctxend => some (7, 0xFFFF)
  | .ctxinv => some (8, 0xFFFF)
  | .resume => some (9, 0x10FFF)
  | .destroy => some (10, 0xFFF)
  | .readout => some (11, 2 ^ 48 - 1)
  | _ => none

def devWith (f : Dev → Dev) (s : State) : State := { s with dev := f s.dev }

/-- A command ends: BUSY falls, RES and VAL hold its result, MSI-X vector 0 goes out (19 R288). Its argument was CMDARG when it started. -/
def answered (code res val : Nat) (s : State) : State :=
  devWith (fun d => { d with cmd := code, busy := false, res := res, val := val % 2 ^ 48, msix := 0 :: d.msix,
                             runArg := if d.busy then d.runArg else d.cmdarg }) s

/-- A command has started and goes on later. -/
def startedCmd (code : Nat) (s : State) : State := devWith (fun d => { d with busy := true, cmd := code, runArg := d.cmdarg }) s

/-- A running device runs a command with an argument: one that starts, with what CMDARG holds, or the one that is under way, with what CMDARG held
when it started (19 R288). -/
def Runs (code n : Nat) (s : State) : Prop :=
  s.dev.state = 2 ∧ s.run = none ∧
    (s.dev.busy = false ∧ s.dev.cmdarg.toNat = n ∨ s.dev.busy = true ∧ s.dev.cmd = code ∧ s.dev.runArg.toNat = n)

/-- CMDARG as a number, and the state in which a command may run: running, no other command under way. -/
def carg (s : State) : Nat := s.dev.cmdarg.toNat
def MayCommand (s : State) : Prop := s.dev.state = 2 ∧ s.dev.busy = false

end Sys2Proof.Slice0

/-- 19 R288, R294, Table 19-2: a command while another is busy is lost; only a running device takes commands, and a frozen one READOUT alone; a
reserved bit of CMDARG answers RES 1. While a stitch holds a line, a command by which firmware reads or writes memory has started and waits (12
R214).
Choices of the model: log entry 28. -/
def Sys2Proof.Slice0.CommandFrame : Prop :=
  ∀ (i : Instr) (code n : Nat), commandRow i = some (code, n) → ∀ s : State,
    (s.dev.busy = true → s.dev.cmd ≠ code → exec i s = .next (devWith (fun d => { d with lost := true }) s)) ∧
    (s.dev.busy = false → (s.dev.state ≠ (if code = 11 then 3 else 2)) → exec i s = .next (answered code 3 0 s)) ∧
    (s.dev.busy = false → s.dev.state = (if code = 11 then 3 else 2) → carg s &&& n ≠ carg s → exec i s = .next (answered code 1 0 s)) ∧
    (s.dev.busy = false → s.dev.state = 2 → carg s &&& n = carg s → s.run.isSome = true → code ∈ [1, 2, 6, 7, 9, 10] →
      exec i s = .next (startedCmd code s))

/-- 16 R250, R265: CREATE makes a queue of the lowest free number from a QCB that keeps its rules and clears firmware's part of it; DESTROY frees a
queue that is halted or has nothing to do, whose launches run on without a queue; RESUME takes a halted queue up again as after a kick, with SKIP
from WR on, and one halted with SRAM as its QCB stands in memory; END halts one for good, ends its launches and halts their cells.
Choices of the model: log entries 3, 26, 56. -/
def Sys2Proof.Slice0.QueueCommands : Prop :=
  (∀ s : State, MayCommand s → s.run = none →
    (∀ n q, carg s % 256 = 0 → carg s + 256 ≤ 2 ^ 39 → n < 4096 → (∀ x ∈ s.queues, x.num ≠ n) → (∀ m < n, ∃ x ∈ s.queues, x.num = m) →
      s.parseQcb n (carg s) = some q → exec .create s = .next (answered 1 0 n
        { s with mem := s.mem.clearFirmware (carg s), queues := s.queues ++ [q] })) ∧
    (carg s % 256 = 0 → carg s + 256 ≤ 2 ^ 39 → (∀ n, s.parseQcb n (carg s) = none) → exec .create s = .next (answered 1 1 0 s)) ∧
    ((carg s % 256 ≠ 0 ∨ 2 ^ 39 < carg s + 256) → exec .create s = .next (answered 1 1 0 s)) ∧
    (∀ q, carg s % 256 = 0 → carg s + 256 ≤ 2 ^ 39 → (∀ n < 4096, ∃ x ∈ s.queues, x.num = n) → s.parseQcb 0 (carg s) = some q →
      exec .create s = .next (answered 1 2 0 s)) ∧
    (∀ q, carg s < 4096 → s.findQueue? (carg s) = some q →
      (q.halt = true ∨ (s.mem.word (q.qcb + 0x20) 8 ≤ q.rd ∧ q.wr ≤ q.rd ∧ s.queueBusy q.num = false)) →
      let n := carg s
      let m := 4096 + s.orphans
      let t := if s.mapped n then { s with
          mem := s.mem.clearFirmware q.qcb, slots := s.slots.map fun x => if x.queue == some n then { x with queue := none } else x } else s
      exec .destroy s = .next (answered 10 0 0 { t with
        queues := s.queues.filter fun x => x.num != n
        launches := s.launches.map fun l => if l.queue == n then { l with queue := m } else l
        children := s.children.map fun c => if c.queue == n then { c with queue := m } else c, orphans := s.orphans + 1 })) ∧
    (∀ q, carg s < 4096 → s.findQueue? (carg s) = some q → q.halt = false →
      (q.rd < s.mem.word (q.qcb + 0x20) 8 ∨ q.rd < q.wr ∨ s.queueBusy q.num = true) → exec .destroy s = .next (answered 10 3 0 s)) ∧
    (∀ q, carg s % 2 ^ 16 < 4096 → carg s / 2 ^ 16 < 2 → s.findQueue? (carg s % 2 ^ 16) = some q → q.halt = true → q.hstat ≠ 5 →
      let n := carg s % 2 ^ 16
      let u := startedCmd 9 s
      let q' := { if q.hstat = 4 then u.rebuilt q else q with halt := false, hstat := 0 }
      let t := queueWith n (fun _ => q') (u.qcbPut q.qcb (putBits (putBits (s.mem.word q.qcb 8) 18 1 0) 24 4 0))
      let wr := s.mem.word (q.qcb + 0x20) 8
      let rd := if q.padded then max q.rd wr else wr
      let skipped := queueWith n (fun _ => { q' with rd := rd, wr := wr, padded := decide (wr < rd) }) (t.qcbPut (q.qcb + 0x18) rd)
      exec .resume s = .next (devWith (fun d => { d with busy := false, res := 0, val := 0, msix := 0 :: d.msix })
        (kickQueue n (if carg s / 2 ^ 16 = 1 then skipped else t)))) ∧
    (∀ q, carg s % 2 ^ 16 < 4096 → carg s / 2 ^ 16 < 2 → s.findQueue? (carg s % 2 ^ 16) = some q → (q.halt = false ∨ q.hstat = 5) →
      exec .resume s = .next (answered 9 3 0 s)) ∧
    (∀ i code, (i, code) ∈ [(Instr.end_, 2), (.resume, 9), (.destroy, 10)] → carg s < 4096 → s.findQueue? (carg s) = none →
      exec i s = .next (answered code 1 0 s))) ∧
  (∀ (s : State) (n : Nat) (q : Queue), Runs 2 n s → n < 4096 → s.findQueue? n = some q → ∃ t, exec .end_ s = .next t ∧
      (∃ q', t.findQueue? n = some q' ∧ q'.halt = true ∧ q'.hstat = 5) ∧ (∀ c ∈ t.children, c.queue ≠ n) ∧
      (∀ l ∈ t.launches, l.queue = n → l.ends = true) ∧ (t.dev.busy = false ↔ t.queueBusy n = false) ∧ t.grp = s.grp ∧
      (∀ l ∈ s.launches, l.queue = n → s.isSaved l.id = false → ∀ c, t.findCell? l.cell = some c → c.halting = true) ∧
      ∀ m ∈ t.images, ∀ l ∈ s.launches, l.queue = n → l.id ∉ m.launches)

/-- 19 R289, 08 R154: CTXNEW makes a context of the lowest free number from its descriptor; CTXINV drops its translations, L1 lines and
instruction-cache lines, and ends once no access that used them is under way; CTXEND ends its queues and all of its launches, those of a queue that
has been destroyed too, and once they are gone everything of it, the tags of its own teams alone.
Choices of the model: log entries 29, 54. -/
def Sys2Proof.Slice0.ContextCommands : Prop :=
  (∀ s : State, MayCommand s → s.run = none →
    (∀ n c, carg s % 64 = 0 → carg s + 64 ≤ 2 ^ 39 → n < 65535 → (∀ x ∈ s.ctxs, x.num ≠ n) → (∀ m < n, ∃ x ∈ s.ctxs, x.num = m) →
      s.parseCtx n (carg s) = some c →
      let table := 2 ^ 39 - 2 ^ 15 * (n + 1)
      (s.dev.tableRoom ≤ s.ctxs.length → exec .ctxnew s = .next (answered 6 2 0 s)) ∧
      (s.ctxs.length < s.dev.tableRoom → ∃ m, exec .ctxnew s = .next (answered 6 0 n { s with ctxs := s.ctxs ++ [{ c with table := table }], mem := m }) ∧
        (∀ a, a < table ∨ table + 2 ^ 15 ≤ a → m.byte a = s.mem.byte a) ∧
        (∀ i < 32, let bs := Machine.imageBytes (standardRoutine i).1 ((standardRoutine i).2.map encode)
          m.bytes (table + 128 * i) bs.length = bs) ∧
        ∀ i < 256, 32 ≤ i → m.word (table + 128 * i) 8 = 0)) ∧
    (carg s % 64 ≠ 0 ∨ 2 ^ 39 < carg s + 64 ∨ (∀ n, s.parseCtx n (carg s) = none) → exec .ctxnew s = .next (answered 6 1 0 s)) ∧
    (∀ c, carg s % 64 = 0 → carg s + 64 ≤ 2 ^ 39 → (∀ n < 65535, ∃ x ∈ s.ctxs, x.num = n) → s.parseCtx 0 (carg s) = some c →
      exec .ctxnew s = .next (answered 6 2 0 s)) ∧
    (∀ n c, s.parseCtx n (carg s) = some c → c.num = n ∧ c.root = s.mem.word (carg s + 8) 8 ∧ c.unkd = s.mem.word (carg s + 16) 8 ∧
      c.dzBase = s.mem.word (carg s + 24) 8 ∧ c.dzPages = s.mem.word (carg s + 32) 8 ∧ c.pool = s.mem.word (carg s + 40) 8 ∧
      c.poolN = s.mem.word (carg s + 48) 8 ∧ c.poolNext = 0 ∧ c.bound = false) ∧
    (∀ i code, (i, code) ∈ [(Instr.ctxend, 7), (.ctxinv, 8)] → carg s < 65536 → s.findCtx? (carg s) = none →
      exec i s = .next (answered code 1 0 s))) ∧
  (∀ (s : State) (n : Nat), Runs 8 n s → n < 65536 → (s.findCtx? n).isSome = true → ∃ t, exec .ctxinv s = .next t ∧
      (∀ e ∈ t.tlb, e.ctx ≠ n) ∧ (∀ c ∈ t.allCores, (∀ x ∈ c.lines, x.ctx ≠ n) ∧ ∀ e ∈ c.icache, e.1.1 ≠ n) ∧
      t.mem = s.mem ∧ t.grp = s.grp ∧ t.groups = s.groups ∧
      (s.inFlight n (fun _ => true) = false ∧ s.heldFor n (fun _ => true) = false → t.dev.busy = false ∧ t.dev.res = 0) ∧
      (s.inFlight n (fun _ => true) = true ∨ s.heldFor n (fun _ => true) = true → t.dev.busy = true)) ∧
  (∀ (s : State) (n : Nat), Runs 7 n s → n < 65536 → (s.findCtx? n).isSome = true →
    ((∀ q ∈ s.queues, q.ctx ≠ n) → (∀ l ∈ s.launches, l.ctx ≠ n) → (∀ c ∈ s.children, c.ctx ≠ n) →
      ∃ t, exec .ctxend s = .next t ∧ t.findCtx? n = none ∧ (∀ m ∈ t.images, m.ctx ≠ n) ∧ (∀ e ∈ t.tlb, e.ctx ≠ n) ∧
        (∀ c ∈ t.cinch, c.ctx ≠ n) ∧ (∀ r ∈ t.routines, r.ctx ≠ n) ∧ (∀ c ∈ t.cells, c.ctx ≠ some n) ∧
        t.dev.busy = false ∧ t.dev.res = 0 ∧ t.mem = s.mem ∧
        ∀ e ∈ s.teamNow, (∀ y ∈ s.allTeams ++ s.images.flatMap (·.teams), y.live = true → y.ctx = n → e.tag ≠ ⟨y.core, y.slot, y.gen⟩) →
          e ∈ t.teamNow) ∧
    ((∃ l ∈ s.launches, l.ctx = n) → ∃ t, exec .ctxend s = .next t ∧ t.dev.busy = true ∧ (t.findCtx? n).isSome = true ∧
      (∀ m q, t.findQueue? m = some q → q.ctx = n → q.halt = true ∧ q.hstat = 5) ∧
      ∀ l ∈ t.launches, l.ctx = n → l.ends = true))

/-- 01 R25, 19 R290, R294, R295: CLOCK changes the clock mode where no launch is resident, and else waits for that; FREEZE stops every clock but the
island's; NEGOTIATE settles the lower of the two highest versions; READOUT gives 256 bytes of a frozen unit.
Choices of the model: log entries 16, 58 (the slice clock of normal mode). -/
def Sys2Proof.Slice0.DeviceCommands : Prop :=
  (∀ s : State, MayCommand s → carg s < 2 →
    let mode := fun (b : Bool) (s : State) => devWith (fun d => { d with
      locked := b, lockWanted := none, arithMhz := List.replicate 4 (if b then 2600 else 3300)
      sliceMhz := List.replicate 4 (if b then 2600 else 3000), frontMhz := 2600 }) s
    ((∀ l ∈ s.launches, s.isSaved l.id = true) → exec .clock s = .next (answered 3 0 0 (mode (carg s == 1) s))) ∧
    ((∃ l ∈ s.launches, s.isSaved l.id = false) → exec .clock s =
      .next (devWith (fun d => { d with lockWanted := some (carg s == 1) }) (startedCmd 3 s))) ∧
    (∀ t b, t.dev.lockWanted = some b → (∀ l ∈ t.launches, t.isSaved l.id = true) → t.dev.busy = true → t.dev.cmd = 3 →
      exec .clockModeChange t = .next (answered 3 0 0 (mode b t)))) ∧
  (∀ s : State, MayCommand s → carg s = 0 → exec .freeze s =
    .next (devWith (fun d => { d with state := 3, frzc := 1, msix := 1 :: d.msix }) (answered 4 0 0 s))) ∧
  (∀ s : State, MayCommand s → carg s < 2 ^ 20 →
    let v := carg s % 2 ^ 16
    (v ≠ 0 → carg s / 2 ^ 16 = 0 → exec .negotiate s =
      .next (answered 5 0 (min v s.dev.mapver) (devWith (fun d => { d with mapver := min v d.mapver }) s))) ∧
    (v ≠ 0 → carg s / 2 ^ 16 = 1 → exec .negotiate s =
      .next (answered 5 0 (min v s.dev.qver) (devWith (fun d => { d with qver := min v d.qver }) s))) ∧
    (v ≠ 0 → carg s / 2 ^ 16 = 2 → exec .negotiate s =
      .next (answered 5 0 (min v s.dev.lverMax) (devWith (fun d => { d with lver := min v d.lverMax }) s))) ∧
    (v ≠ 0 → carg s / 2 ^ 16 = 3 → exec .negotiate s =
      .next (answered 5 0 (min v s.dev.fverMax) (devWith (fun d => { d with fverMax := min v d.fverMax }) s))) ∧
    ((v = 0 ∨ 3 < carg s / 2 ^ 16) → exec .negotiate s = .next (answered 5 1 0 s))) ∧
  (∀ s : State, s.dev.state = 3 → s.dev.busy = false → carg s < 2 ^ 48 →
    let u := carg s % 2 ^ 4
    let i := carg s / 2 ^ 4 % 2 ^ 12
    let off := 256 * (carg s / 2 ^ 16)
    (i < unitCountOf u → off + 256 ≤ unitSpace u → exec .readout s = .next (answered 11 0 (if s.unitPoisoned u i off then 1 else 0)
      (devWith (fun d => { d with rdata := leNat ((List.range 256).map fun k => s.unitByte u i (off + k)) }) s))) ∧
    ((unitCountOf u ≤ i ∨ unitSpace u < off + 256) → exec .readout s = .next (answered 11 1 0 s)))

/-- 19 R287, Table 19-1: the registers of BAR0 that a host can write; BAR2 reaches device memory by physical address in a stack, or through a
context's tables without faults; what cannot be reached performs nothing, and a read of it carries Completer Abort; nothing comes to a line that a
stitch holds (12 R214). Reserved fields and fields that are only written read as zero (00 R6, R7).
Choices of the model: log entries 47, and 28 that an unassigned command code on a device that does not run answers RES 3. -/
def Obligations.HostAccess : Prop :=
  ∀ s : State,
    (∀ v : W64, exec (.registerWrite 0x108 v) s = .next (devWith (fun d => { d with cmdarg := v }) s)) ∧
    (∀ v : W64, exec (.registerWrite 0x110 v) s = .next (devWith (fun d => { d with lost := d.lost && !v.getLsbD 1 }) s)) ∧
    (∀ v : W64, exec (.registerWrite 0x208 v) s = .next (devWith (fun d => { d with winctx := v.toNat % 2 ^ 16 }) s)) ∧
    (∀ v : W64, exec (.registerWrite 0x210 v) s =
      .next (devWith (fun d => { d with winstk := v.toNat % 2 ^ 3, winerr := d.winerr && !v.getLsbD 3 }) s)) ∧
    (∀ v : W64, s.dev.state = 2 → exec (.registerWrite 0x200 v) s = exec (.kick v) s) ∧
    (∀ (v : W64) (i : Instr) (code n : Nat), v.toNat % 2 ^ 8 = code → commandRow i = some (code, n) → s.dev.busy = false →
      exec (.registerWrite 0x100 v) s = exec i s) ∧
    (∀ v : W64, s.dev.busy = true → exec (.registerWrite 0x100 v) s = .next (devWith (fun d => { d with lost := true }) s)) ∧
    (∀ v : W64, s.dev.busy = false → (v.toNat % 2 ^ 8 = 0 ∨ 11 < v.toNat % 2 ^ 8) →
      exec (.registerWrite 0x100 v) s = .next (answered (v.toNat % 2 ^ 8) (if s.dev.state = 2 then 1 else 3) 0 s)) ∧
    (∀ v : W64, s.dev.state ≠ 2 → exec (.registerWrite 0x200 v) s = .next s) ∧
    (∀ (off : Nat) (v : W64), off ∉ [0x100, 0x108, 0x110, 0x200, 0x208, 0x210] → exec (.registerWrite off v) s = .next s) ∧
    (∀ (off n : Nat) (v : W64), s.dev.state = 2 → off + n ≤ 2 ^ 36 → n ≤ 8 → s.dev.winctx = 0xFFFF →
      let key := 2 ^ 36 * s.dev.winstk + off
      s.run = none → (∀ j < n, s.poisoned.contains ((key + j) / 128) = false) →
      (∃ b1 b2 b3 b4, exec (.bar2Access false off n v) s = .next (devWith (fun d => { d with
        barRead := BitVec.ofNat 64 (leNat ((List.range n).map fun j => s.mem.byte (key + j))), barAbort := false })
          { s with access := b1, teamNow := b2, rlines := b3, fills := b4 })) ∧
      ∃ t, exec (.bar2Access true off n v) s = .next t ∧ t.dev = s.dev ∧ t.grp = s.grp ∧ t.groups = s.groups ∧
        ∀ a, t.mem.byte a = if key ≤ a ∧ a < key + n then (v >>> (8 * (a - key))).setWidth 8 else s.mem.byte a) ∧
    (∀ (w : Bool) (off n j : Nat) (v : W64) (r : StitchRun), s.dev.state = 2 → off + n ≤ 2 ^ 36 → n ≤ 8 → s.dev.winctx = 0xFFFF → s.run = some r →
      j < n → (2 ^ 36 * s.dev.winstk + off + j) / 128 = r.key / 128 → exec (.bar2Access w off n v) s = .next s) ∧
    (∀ off : Nat, s.dev.registerRead off = BitVec.ofNat 64 (
      if off = 0x108 then s.dev.cmdarg.toNat
      else if off = 0x110 then (if s.dev.busy then 1 else 0) + (if s.dev.lost then 2 else 0) + s.dev.res % 2 ^ 8 * 2 ^ 8 + s.dev.val % 2 ^ 48 * 2 ^ 16
      else if off = 0x208 then s.dev.winctx % 2 ^ 16
      else if off = 0x210 then s.dev.winstk % 8 + (if s.dev.winerr then 8 else 0)
      else if off = 0 then s.dev.mapver % 2 ^ 16 + s.dev.qver % 2 ^ 16 * 2 ^ 16 + s.dev.lverMax % 2 ^ 16 * 2 ^ 32 + s.dev.fver % 2 ^ 16 * 2 ^ 48
      else if off = 8 then s.dev.devid % 2 ^ 11 + s.dev.state % 2 ^ 3 * 2 ^ 11 + s.dev.frzc % 2 ^ 4 * 2 ^ 14
      else if 0x400 ≤ off ∧ off < 0x500 then s.dev.rdata / 2 ^ (8 * (off - 0x400)) % 2 ^ 64 else 0)) ∧
    (∀ (off : Nat) (v : W64) (l : Leaf), s.dev.state = 2 → off < 2 ^ 36 → s.dev.winctx ≠ 0xFFFF → s.walk s.dev.winctx off = .leaf l →
      let key := l.base + off % 8192
      s.run = none → s.poisoned.contains (key / 128) = false →
      (l.r = true → ∃ t, exec (.bar2Access false off 1 v) s = .next t ∧
        t.dev = { s.dev with barRead := BitVec.ofNat 64 (t.mem.byte key).toNat, barAbort := false }) ∧
      (l.w = true → ∃ t, exec (.bar2Access true off 1 v) s = .next t ∧ t.dev = s.dev ∧ t.mem.byte key = v.setWidth 8)) ∧
    (∀ (w : Bool) (off n : Nat) (v : W64), s.dev.state = 2 → off + n ≤ 2 ^ 36 → 0 < n → n ≤ 8 → s.dev.winctx ≠ 0xFFFF →
      (∀ l, s.walk s.dev.winctx off = .leaf l → (if w then l.w else l.r) = false) → exec (.bar2Access w off n v) s =
        .next (devWith (fun d => { d with barAbort := if w then d.barAbort else true, winerr := true }) s)) ∧
    (∀ (w : Bool) (off n : Nat) (v : W64), (s.dev.state ≠ 2 ∨ 2 ^ 36 < off + n ∨ 8 < n) → exec (.bar2Access w off n v) s =
      .next (devWith (fun d => { d with barAbort := if w then d.barAbort else true }) s))

/-! ## Boot, links, liveness, power (19 R290 to R296, 01 R24, R25) -/

namespace Sys2Proof.Slice0

/-- Watcher w, whose number and key stand in the record, signed a request of a kind (19 R293, R294). -/
def SignedBy (s : State) (what w : Nat) (sig : List Byte) : Prop :=
  ∃ x ∈ s.dev.record.watch.zip s.dev.record.wkeys, x.1 = w ∧ Config.verifies x.2 (leBytes 1 what ++ leBytes 2 w) sig = true

/-- The watchers that have asked, with one more. -/
def askedBy (w : Nat) (l : List Nat) : List Nat := if w ∈ l then l else l ++ [w]

end Sys2Proof.Slice0

/-- 19 R292, Table 19-3: from STATE 0 a record that is well formed and verifies brings the device to STATE 2, with its identity, its cells and its
clock mode; a record that fails brings it to STATE 4; a device in another state does not boot.
Choices of the model: log entries 3, 31, 58 (the slice clock of normal mode). -/
def Obligations.Booting : Prop :=
  ∀ (bytes : List Byte) (s : State),
    let good := recordOk bytes = true ∧ Config.verifies Config.islandKey (bytes.take 0x3E8) (bytes.drop 0x3E8) = true
    (s.dev.state = 0 → good → ∃ t, exec (.boot bytes) s = .next t ∧ t.dev.state = 2 ∧
      t.dev.devid = leNat (bytes.take 8) / 2 ^ 16 % 2 ^ 11 ∧ t.dev.record.unkd = leNat ((bytes.drop 8).take 8) % 2 ^ 20 ∧
      t.dev.record.nw = leNat ((bytes.drop 8).take 8) / 2 ^ 20 % 2 ^ 4 ∧ t.dev.record.shw = leNat ((bytes.drop 8).take 8) / 2 ^ 24 % 2 ^ 4 ∧
      t.dev.locked = (leNat (bytes.take 8)).testBit 27 ∧ t.dev.arithMhz = List.replicate 4 (if t.dev.locked then 2600 else 3300) ∧
      t.dev.sliceMhz = List.replicate 4 (if t.dev.locked then 2600 else 3000) ∧
      (∀ j, j < 24 → ∃ c ∈ t.cells, j ∈ c.clusters ∧ c.id = leNat ((bytes.drop (0x20 + j)).take 1)) ∧
      (∀ c ∈ t.cells, c.clusters ≠ [] ∧ c.ctx = none ∧ c.ring = []) ∧ t.allCores.map (·.id) = List.range 192 ∧ t.slots.length = 64 ∧
      (∀ x ∈ t.slots, x.queue = none ∧ ∃ c ∈ t.cells, c.id = x.cell) ∧ t.mem = s.mem ∧ t.grp = s.grp) ∧
    (s.dev.state = 0 → ¬ good → exec (.boot bytes) s = .next (devWith (fun d => { d with state := 4 }) s)) ∧
    (s.dev.state ≠ 0 → exec (.boot bytes) s = .next s)

/-- 19 R290, R291, 13 Table 13-2, 08 R156, 09 R175, R177: a peer's request comes to its line with the NUD code, cache policy, way class, tag and r
that it carries, and reads, writes or stitches at its home here, a stitch once the line is there, with the routine that the home has cached for the
peer's slot, else the standard one, or the one that the request carries, an MDRAIN line form adding the words of its mask; a held write that commits
carries no tag; a STREL of the peer has every home here drop its copy (12 R218); an access to a peer that has not answered ends its launch with a
machine-check of cause 2 and has no effect, but for a STCH, of which the lanes at that peer alone stop (12 R222, 17 R268); a port comes up at the
lower of two versions; a retry of the link level changes nothing but its count. A stitch that meets a free slot or an error performs nothing (log
entry 18). -/
def Sys2Proof.Slice0.LinkEvents : Prop :=
  (∀ (w st : Bool) (both pa n : Nat) (req : PeerReq) (s : State), s.dev.state = 2 → req.frees = true →
    exec (.linkRequest w st both pa n req) s = .next { s with
      routines := s.routines.filter fun r => !(r.dev == req.dev && r.ctx == both / 256 && r.slot == both % 256) }) ∧
  (∀ (slot pa n : Nat) (req : PeerReq) (s : State), s.dev.state = 2 → req.frees = false → pa < 2 ^ 39 → s.run = none → s.bad pa = false →
    exec (.linkRequest false false slot pa n req) s = .next (s.request {
      key := pa / 128 * 128, die := 4, cp := req.cp, wc := req.wc, ctx := slot / 256,
      tag := if req.tagged then some ⟨req.core, req.slot, req.gen⟩ else none,
      r := req.r, code := some req.nud, due := req.due, dirty := false }) ∧
    (pa % 128 + n ≤ 128 → n ≤ 4 * req.ops.length → ∃ t, exec (.linkRequest true false slot pa n req) s = .next t ∧
      ∀ a, t.mem.byte a =
        if pa ≤ a ∧ a < pa + n then ((req.ops.getD ((a - pa) / 4) 0) >>> (8 * ((a - pa) % 4))).setWidth 8 else s.mem.byte a)) ∧
  (∀ (w : Bool) (both pa n : Nat) (req : PeerReq) (s : State), s.dev.state = 2 → req.frees = false → pa < 2 ^ 39 → s.run = none →
    let ctx := both / 256
    let slot := both % 256
    let asked := s.bring {
      key := pa / 128 * 128, die := 4, cp := req.cp, wc := req.wc, ctx := ctx,
      tag := if req.tagged then some ⟨req.core, req.slot, req.gen⟩ else none,
      r := req.r, code := none, due := req.due, dirty := true }
    (asked = none → exec (.linkRequest w true both pa n req) s = .next s) ∧
    ∀ s1, asked = some s1 →
      let cached := s1.routines.find? fun r => r.unit == homeUnit pa && r.dev == req.dev && r.ctx == ctx && r.slot == slot
      let found : Option (Bool × List Nat) := match cached with
        | some r => some (r.wide, r.words)
        | none => if slot < 32 ∨ req.dev = s1.dev.devid then s1.tableRoutine? ctx slot else req.routine
      let readsBad := cached = none ∧ req.dev = s1.dev.devid ∧ s1.routineErrors.contains (ctx, slot) = true
      ∃ t, exec (.linkRequest w true both pa n req) s = .next t ∧ t.grp = s.grp ∧ t.run = none ∧
        (∀ a, a / 128 ≠ pa / 128 → t.mem.byte a = s.mem.byte a) ∧
        (s1.bad pa = true ∨ found = none ∨ readsBad ∨ pa / 128 ∈ s1.lineErrors → SameMemory s t) ∧
        ∀ wide code, s1.bad pa = false → found = some (wide, code) → ¬ readsBad → pa / 128 ∉ s1.lineErrors →
          (∀ m, req.m0 = some m → t.mem = addCells (slot == 5) ((List.range 32).flatMap fun i =>
            if m.getLsbD i then leCells (pa / 128 * 128 + 4 * i) 4 (req.ops.getD i 0).toNat else []) s.mem) ∧
          (req.m0 = none →
            let r := (startRun s.mem 0 0 0 0 0 0 pa wide code req.ops).ofSlot slot
            ((r.result (decodeAll r.code)).1 = none → SameMemory s t) ∧
            ∀ line, (r.result (decodeAll r.code)).1 = some line → line.length = 32 → ∀ a, a / 128 = pa / 128 →
                t.mem.byte a = ((line.getD (a % 128 / 4) 0) >>> (8 * (a % 4))).setWidth 8)) ∧
  (∀ (dev c k i : Nat) (s s1 x : State) (p : Pend) (key : Nat),
    s1 = devWith (fun d => { d with unreachable := if d.unreachable.contains dev then d.unreachable else d.unreachable ++ [dev] }) s →
    InFocus c k i s1 x → x.grp.pend.find? (fun p => (p.kind.peerKey dev).isSome) = some p → p.kind.peerKey dev = some key →
    ((∀ sl sc rv zero lanes, p.kind ≠ .stch sl sc rv zero lanes) → exec (.peerTimeout dev c k i) s = .next (back s1 x (
      let written := match p.kind with
        | .store _ ls => ls.map fun z => z.1.key / 128
        | _ => []
      let y := (x.onCore (Core.l1Drop written)).faultAt p { kind := 17, cause := 2, d0 := BitVec.ofNat 64 (if key < 2 ^ 52 then key else 0) }
      State.reap { y with grp := y.grp.dropPend p.seq }))) ∧
    (∀ sl sc rv zero lanes, p.kind = .stch sl sc rv zero lanes → x.grp.findPend? p.seq = some p → (∀ z ∈ lanes, z.1.lane < 32) →
      let stopped := fun l => lanes.any fun z => atPeer dev z.1.key && z.1.lane == l
      ∃ y q, exec (.peerTimeout dev c k i) s = .next (back s1 x y) ∧ y.grp.susp = .stopped ∧ y.mem = x.mem ∧
        y.grp.findPend? p.seq = some q ∧ q.kind = .stch sl sc rv zero (lanes.filter fun z => !stopped z.1.lane) ∧
        ∀ r l, l < 32 → (stopped l = false ∨ r < rv.val ∨ rv.val + 4 ≤ r) → y.grp.V r l = x.grp.V r l)) ∧
  (∀ (port version lowest : Nat) (s : State), port < 18 → exec (.linkPortTraining port version lowest) s = .next (devWith (fun d => { d with
    ports := d.ports.filter (fun p => p.num != port) ++
      [⟨port, decide (1 ≤ min version d.lver ∧ lowest ≤ min version d.lver), min version d.lver, 0⟩] }) s)) ∧
  (∀ (port : Nat) (s : State), exec (.linkLevelRetry port) s = .next (devWith (fun d => { d with
    ports := d.ports.map fun p => if p.num == port && p.up then { p with retries := p.retries + 1 } else p }) s))

/-- 19 R293, R294: a running device sends its heartbeats, and asks for a reset of a device that has missed three in a row; the signed requests of a
majority of its watchers reset it, and those of a majority, or one signed with a freeze key, freeze it.
Choices of the model: log entries 3, 15, 30. -/
def Sys2Proof.Slice0.Liveness : Prop :=
  ∀ s : State,
    (s.dev.state = 2 → exec .heartbeat s = .next (devWith (fun d => { d with beatsSent := d.beatsSent + d.record.nw }) s)) ∧
    (s.dev.state ≠ 2 → exec .heartbeat s = .next s) ∧
    (∀ d, exec (.heartbeatSilence d) s =
      .next (if s.dev.state = 2 then devWith (fun x => { x with resetSent := d :: x.resetSent }) s else s)) ∧
    (∀ w sig, s.dev.state ≠ 0 → SignedBy s 0 w sig →
      (2 * (askedBy w s.dev.resetReqs).length ≤ s.dev.record.nw → exec (.resetRequest w sig) s =
        .next (devWith (fun d => { d with resetReqs := askedBy w d.resetReqs }) s)) ∧
      (s.dev.record.nw < 2 * (askedBy w s.dev.resetReqs).length → ∃ t, exec (.resetRequest w sig) s = .next t ∧ t.dev.state = 0 ∧
        t.grp = {} ∧ t.groups = [] ∧ t.teams = [] ∧ t.queues = [] ∧ t.launches = [] ∧ t.ctxs = [] ∧ t.cells = [] ∧ t.tlb = [] ∧
        t.dev.record = s.dev.record ∧ t.dev.resetReqs = [] ∧ t.mem = s.mem ∧ t.agenda = s.agenda)) ∧
    (∀ w sig, ¬ SignedBy s 0 w sig → exec (.resetRequest w sig) s = .next s) ∧
    (∀ key w sig, s.dev.state ≠ 2 → exec (.freezeRequest key w sig) s = .next s) ∧
    (∀ key w sig, s.dev.state = 2 →
      let frozen := fun d : Dev => { d with state := 3, frzc := 3, msix := 1 :: d.msix }
      (∀ k, s.dev.record.fkeys[key]? = some k →
        (Config.verifies k [1] sig = true → exec (.freezeRequest key w sig) s = .next (devWith frozen s)) ∧
        (Config.verifies k [1] sig = false → exec (.freezeRequest key w sig) s = .next s)) ∧
      (s.dev.record.fkeys[key]? = none → SignedBy s 1 w sig →
        exec (.freezeRequest key w sig) s = .next (
          let t := devWith (fun d => { d with freezeReqs := askedBy w d.freezeReqs }) s
          if s.dev.record.nw < 2 * (askedBy w s.dev.freezeReqs).length then devWith frozen t else t)))

/-- 01 R24, R25, 19 R294: a limit freezes a device in locked-clock mode, and else lowers its adjustable clocks, the slice clock not below 2,600 MHz
on a die whose cell is saved; the power manager changes clocks only outside that mode and within Table 1-4. How far a thermal trip lowers them is a
free value (log entry 7). -/
def Sys2Proof.Slice0.PowerEvents : Prop :=
  ∀ s : State, s.dev.state = 2 →
    (s.dev.locked = true → ∀ i, i = .thermalTrip ∨ (∃ a b, i = .powerLimit a b) → ∃ t, exec i s = .next t ∧
      t.dev.state = 3 ∧ t.dev.frzc = 2 ∧ t.dev.msix = 1 :: s.dev.msix ∧ t.mem = s.mem ∧ t.grp = s.grp) ∧
    (s.dev.locked = false → ∀ i a b, (i = .thermalTrip ∧ a = Config.tripMhz s.free ∧ b = Config.tripMhz (s.free + 1)) ∨ i = .powerLimit a b →
      ∃ t, exec i s = .next t ∧ t.dev.state = 2 ∧ t.dev.frontMhz = s.dev.frontMhz ∧
        (∀ j : Nat, t.dev.arithMhz[j]? = (s.dev.arithMhz[j]?).map (min a)) ∧
        (∀ (j : Nat) x, s.dev.sliceMhz[j]? = some x → ∃ y, t.dev.sliceMhz[j]? = some y ∧ y ≤ x ∧
          (y = min b x ∨ ((∃ c ∈ s.cells, c.die = j ∧ c.halting = true) ∧ y = min x (max b 2600) ∧ min b x ≤ y)))) ∧
    (s.dev.locked = true → ∀ d j m, exec (.clockChange d j m) s = .next s) ∧
    (s.dev.locked = false → ∀ j m, m ≤ 3300 → exec (.clockChange .arith j m) s =
      .next (devWith (fun d => { d with arithMhz := d.arithMhz.set j m }) s)) ∧
    (s.dev.locked = false → ∀ j m, m ≤ 3000 → (2600 ≤ m ∨ ∀ c ∈ s.cells, c.halting = true → c.die ≠ j) → exec (.clockChange .slice j m) s =
      .next (devWith (fun d => { d with sliceMhz := d.sliceMhz.set j m }) s)) ∧
    (∀ j m, exec (.clockChange .front j m) s = .next s)

/-- 19 R290, 16 R264: a live update of the firmware makes the standby complex the active one, at the version that both speak. -/
def Sys2Proof.Slice0.LiveUpdate : Prop :=
  ∀ (v : Nat) (s : State),
    (v ≠ 0 → exec (.firmwareLiveUpdate v) s = .next (devWith (fun d => { d with complex := 1 - d.complex, fver := min v d.fverMax }) s)) ∧
    (v = 0 → exec (.firmwareLiveUpdate v) s = .next s)

/-! ## Issue, decoding, the step, reset (03 R57 to R70; 04 R77; 19 R292, R294) -/

namespace Sys2Proof.Slice0

/-- The opcode of a 64-bit instruction (03 Table 3-3). -/
def opcodeOf (i : Instr) : Nat := encode i / 2 ^ 56

/-- An instruction of class M or C in a group of the role, in a clause of the class (03 R54); any other instruction. -/
def MayStand (i : Instr) (s : State) : Prop :=
  match opClass (opcodeOf i) with
  | .g => True
  | .m => InRole .mat .m s
  | .c => InRole .cpy .c s

/-- An instruction depends on one that has not completed (03 R59): it reads what that one writes, or writes what that one reads or writes. -/
def Depends (i : Instr) (p : Pend) : Prop :=
  (∃ k ∈ (Instr.uses i).allReads, k ∈ p.writes) ∨ ∃ k ∈ (Instr.uses i).allWrites, k ∈ p.reads ∨ k ∈ p.writes

/-- A control instruction (03 R58). -/
def Controls (i : Instr) : Prop := 0x01 ≤ opcodeOf i ∧ opcodeOf i ≤ 0x09

/-- An instruction that accesses memory through L1, or the A-buffer (08 R160). -/
def UsesWays : Instr → Prop
  | .ld _ _ _ _ sp _ _ _ _ _ _ | .st _ _ sp _ _ _ _ _ _ | .sld _ _ _ sp _ _ _ _ _ _ | .sst _ sp _ _ _ _ _ _ =>
    sp = .glob ∨ sp = .priv ∨ sp = .a
  | .cpy _ _ _ b _ _ _ _ _ | .cpyToGlobal _ _ _ b _ _ _ _ _ => b = .a
  | .mldb _ _ fromA _ _ _ => fromA = true
  | _ => False

/-- An access of the group that has a line at a peer and has still to perform (log entry 68). -/
def AtPeer (p : Pend) : Prop :=
  let peer := fun a : LaneAcc => peerBase ≤ a.key ∧ a.key < bufBase .w
  match p.kind with
  | .load as _ _ _ _ _ => ∃ a ∈ as, peer a
  | .store _ ls => ∃ z ∈ ls, peer z.1
  | .copy _ _ _ _ _ _ xs => ∃ z ∈ xs, peer z.1
  | .mdrain _ _ _ ls _ => ∃ z ∈ ls, peer z.1
  | _ => False

/-- A violation of 03 R60, not counted before: a dependent instruction in an open window. A control instruction cuts the window instead
(03 R58). -/
def Violates (i : Instr) (s : State) : Prop :=
  Instr.isNever i = false ∧ ¬ Controls i ∧ s.grp.held = false ∧ ∃ p ∈ s.grp.pend, p.window = true ∧ p.left ≠ 0 ∧ Depends i p

/-- A register lies at or beyond its cap; S1022 and S1023 lie beyond none (04 R77). -/
def beyond (g : Group) : Reg → Bool
  | .v n => decide (g.vcap ≤ n)
  | .s n => decide (g.scap ≤ n) && n != 1022 && n != 1023

/-- The register-bounds fault of a register (17 Table 17-1, 17-3). -/
def beyondTrap (g : Group) : Reg → Trap
  | .v n => { kind := 12, cause := 0, d0 := BitVec.ofNat 64 n, d1 := BitVec.ofNat 32 g.vcap }
  | .s n => { kind := 12, cause := 1, d0 := BitVec.ofNat 64 n, d1 := BitVec.ofNat 32 g.scap }

end Sys2Proof.Slice0

/-- 03 R57 to R60, 08 R160, 13 R229, R234: an instruction is held at the end of a window, at a control instruction behind any window, where it
depends on what has not completed, where it accesses memory behind an acquire, where it accesses L1 or the A-buffer while a RESIZE of its team
waits, and, an EXIT or EXIT.NEXT, behind a BARARR of its group that has still to arrive (log entry 50, which reads 20 R327 so). Behind an access to
a peer every instruction is held, so that a machine-check of it has no effect (17 R268; log entry 68). It stays where it is; a violation counts
once, or raises a breakpoint fault of cause 1 in strict-lookahead mode; none is a control instruction's, which cuts every window (R58).
Choices of the model: log entries 9, 33, 50, 68. -/
def Obligations.HeldInstructions : Prop :=
  ∀ (i : Instr) (s : State), Instr.bits i = 64 →
    (s.holds i = true ↔ (∃ p ∈ s.grp.pend, p.window = true ∧ (p.left = 0 ∨ Controls i)) ∨
      (Instr.isNever i = false ∧ ∃ p ∈ s.grp.pend, Depends i p) ∨
      (Instr.isMemory i = true ∧ Instr.isNever i = false ∧ ∃ p ∈ s.grp.pend,
        ((∃ as w sx home sc d, p.kind = .load as w sx home (some sc) d) ∨ ∃ n sc rv z ls, p.kind = .stch n sc rv z ls)) ∨
      (Instr.isNever i = false ∧ UsesWays i ∧ ∃ g ∈ s.teamGroups, g.resizing = true) ∨
      (Instr.isNever i = false ∧ opcodeOf i = 0x06 ∧ ∃ p ∈ s.grp.pend, ∃ b token k, p.kind = .arrive b token k) ∨
      ∃ p ∈ s.grp.pend, AtPeer p) ∧
    (MayStand i s → s.holds i = true →
      (¬ Violates i s → exec i s = .next s) ∧
      (Violates i s → s.team.strict = false →
        exec i s = .next { s with core := { s.core with viol := s.core.viol + 1 }, grp := { s.grp with held := true } }) ∧
      (Violates i s → s.team.strict = true → exec i s = .next (s.takeFault (opcodeOf i) { kind := 19, cause := 1 })))

/-- 04 R77, 03 R54, R70, 00 R9: an instruction that names a register at or beyond its cap takes a register-bounds fault that names the first of them
in the order of log entry 11; one of class M or C outside its role or its class of clause takes a role fault; one whose guard never holds issues and
does nothing else. -/
def Obligations.RegisterCaps : Prop :=
  ∀ (i : Instr) (s : State), Instr.bits i = 64 →
    (MayStand i s → s.holds i = false → Instr.isNever i = true → exec i s = .next (issued 0 s)) ∧
    (∀ r rs, MayStand i s → s.holds i = false → Instr.isNever i = false → s.run = none →
      ((Instr.uses i).dst ++ (Instr.uses i).src).filter (beyond s.grp) = r :: rs →
      exec i s = .next (s.takeFault (opcodeOf i) (beyondTrap s.grp r))) ∧
    (¬ MayStand i s → s.grp.windowShut i = false → exec i s = .next (s.takeFault (opcodeOf i) { kind := 6 }))

/-- 03 R52 to R73: with no event on the agenda, a running device, and a group in focus that may issue with a header in hand, a step fetches the word
at its position and runs the instruction that it decodes to; a word that decodes to none, a word that cannot be fetched, a header that comes next,
an operation of a routine that holds a line, an event of the agenda, and clocks that stand (19 R294) are the other cases. After an instruction that
has waited an event has its turn (log entry 6). -/
def Obligations.StepRunsDecodedWord : Prop :=
  ∀ s : State,
    let ran := fun (i : Instr) (s1 : State) => match exec i s1 with
      | .next t => if s1.moved t = true then (if i = .clauseHeaderIssue then serveDue t else .next t.handOver) else serveRotate t
      | o => o
    (∀ i rest, s.agenda = i :: rest → (s.dev.state = 2 ∧ s.run = none ∨ s.dev.state ≠ 2 ∧ ofIsland i = true) → step s = exec i { s with agenda := rest }) ∧
    (∀ i rest, s.agenda = i :: rest → s.dev.state ≠ 2 → ofIsland i = false → step s = .fault .clocksStopped) ∧
    (s.agenda = [] → s.dev.state ≠ 2 → step s = .fault .clocksStopped) ∧
    (∀ r w i, s.dev.state = 2 → s.run = some r → r.code[r.pc]? = some w → decode32 w = some i → step s = ran i s) ∧
    (s.agenda = [] → s.dev.state = 2 →
      (s.run = none → s.canIssue s.grp = false → step s = serveRotate s) ∧
      (s.run = none → s.canIssue s.grp = true → s.grp.hdr = none → step s = ran .clauseHeaderIssue s) ∧
      (s.run = none → s.canIssue s.grp = true → s.grp.hdr ≠ none →
        let va := s.grp.base + 8 + 8 * s.grp.pslot
        (∀ w s1 i, s.fetch va = (.word w, s1) → decode64 w.toNat = .ok i → step s = ran i s1) ∧
        (∀ w s1 e, s.fetch va = (.word w, s1) → decode64 w.toNat = .error e → step s = ran (.nonInstructionWord w) s1) ∧
        (∀ kind cause s1, s.fetch va = (.page kind cause, s1) → step s = .next (s.park 0xFF false 0xFFFFFFFF#32 none
          [{ kind := kind, cause := cause, va := va, lane := 0, lanes := 0xFFFFFFFF#32 }])) ∧
        (∀ key s1, s.fetch va = (.machineCheck key, s1) → step s = .next (s.takeFault 0xFF
          { kind := 17, cause := 2, d0 := BitVec.ofNat 64 (if key < 2 ^ 52 then key else 0) }))))

/-- 03 Tables 3-3 to 3-7, 12 Table 12-2: words that the spec works out decode to the instructions that they stand for; an unassigned opcode and a word
that sets a field its instruction does not use decode to none. -/
def Obligations.DecodeWords : Prop :=
  decode64 0x0201000002000014 = .ok (.brd ⟨false, 2⟩ 8 20) ∧
  decode64 0x1907A08020802200 = .ok (.scmp .i64 .ne 1 16 17) ∧
  decode64 0x2007E800C0202000 = .ok (.iadd Guard.always .i8x4 true 3 (.v 1) (.v 2)) ∧
  decode64 0x4207920280428022 = .ok (.ffma Guard.always .f32 .rtz false 10 (.v 2) (.s 40) (.v 4)) ∧
  decode64 0x500798818080004D = .ok (.cvt Guard.always .bf16 .f32 (.sr 9) 6 4) ∧
  decode64 0x6301800581000000 = .ok (.v2s ⟨false, 3⟩ .zx 22 8) ∧
  decode64 0x7027A000200E042D = .ok (.ld Guard.always 2 .b4 false .glob false .group 8 7 4 45) ∧
  decode64 0x800180A080380018 = .ok (.stch ⟨false, 3⟩ 0 1 .device 16 14 0 24) ∧
  decode64 0x9007800000400000 = .ok (.mgang 8) ∧
  decode64 0xA107860500000000 = .ok (.wrsr 0x0C 40) ∧
  decode64 0x0C07800000000000 = .error .opcode ∧ decode64 0x0007800000000001 = .error .field ∧
  decodeHeader 0xF821FF0F00000000 = some ⟨3, .m, 15, 15, 0, 15⟩ ∧
  decode32 0x00168001 = some (.wmov 0 1 13 1) ∧ decode32 0xAA418400 = some (.wsel 2 4 3 1 0) ∧ decode32 0xF0360000 = some (.commit 3 12 0) ∧
  decode32 0xB8000000 = none

/-- 03 R62 to R68, 12 R208: the word of every well-formed instruction decodes to that instruction, with every operand at every value. -/
def Obligations.RoundTrip : Prop :=
  (∀ i : Instr, Instr.bits i = 64 → Instr.wf i = true → encode i < 2 ^ 64 ∧ decode64 (encode i) = .ok i) ∧
  (∀ i : Instr, Instr.bits i = 32 → encode i < 2 ^ 32 ∧ decode32 (encode i) = some i) ∧
  (∀ i : Instr, Instr.wf i = true → Instr.bits i ≠ 0 → decodeTableWord (Instr.bits i) (encode i) = some i)

/-- 03 R69, R70: a word that decodes to an instruction is the word of that instruction, which keeps the limits of its entry: no bit of a word goes
unread. -/
def Obligations.DecodeReadsEveryBit : Prop :=
  (∀ (w : Nat) (i : Instr), w < 2 ^ 64 → decode64 w = .ok i → Instr.wf i = true ∧ Instr.bits i = 64 ∧ encode i = w) ∧
  (∀ (w : Nat) (i : Instr), w < 2 ^ 32 → decode32 w = some i → Instr.bits i = 32 ∧ encode i = w)

/-- The model's own forms: memory stays in its canonical form, in which equal memories are equal lists, and STATE and FRZC hold values of 19 Table
19-1, frozen with a reason and only then, over every step from every such state. -/
def Obligations.StepKeepsForm : Prop :=
  ∀ s t : State, s.MemOk → s.DevOk → step s = .next t → t.MemOk ∧ t.DevOk

/-- 17 R267 to R276: no instruction and no event is refused, and none stops the machine: every one but a stitch operation answers a next state, in
every state; a stitch operation stops only by the name of log entry 21. A step stops only where the clocks stand or on such a word. -/
def Obligations.NothingStops : Prop :=
  (∀ (i : Instr) (s : State), Instr.bits i ≠ 32 → ∃ t, exec i s = .next t) ∧
  (∀ (i : Instr) (s : State), Instr.bits i = 32 → (∃ t, exec i s = .next t) ∨ exec i s = .fault .stitchWordInvalid) ∧
  (∀ s : State, s.dev.state = 2 → s.run = none → (∀ i ∈ s.agenda, Instr.bits i ≠ 32) → ∃ t, step s = .next t)

/-- 19 R292, Table 19-1: after reset the island alone runs: STATE and FRZC are 0, the registers of BAR0 hold their reset values, no cell is built,
no queue, context, launch or team is there, and the forms of the model hold. FVER 1 is the model's choice (log entry 3), and so is that every byte
of memory reads as 0 (log entry 1). -/
def Obligations.ResetState : Prop :=
  let s := State.reset
  s.dev.state = 0 ∧ s.dev.frzc = 0 ∧ s.dev.mapver = 1 ∧ s.dev.qver = 1 ∧ s.dev.lver = 1 ∧ s.dev.fver = 1 ∧ s.dev.cmdarg = 0 ∧
  s.dev.busy = false ∧ s.dev.lost = false ∧ s.dev.res = 0 ∧ s.dev.val = 0 ∧ s.dev.winctx = 0 ∧ s.dev.winstk = 0 ∧ s.dev.winerr = false ∧
  s.dev.rdata = 0 ∧ s.cells = [] ∧ s.queues = [] ∧ s.ctxs = [] ∧ s.launches = [] ∧ s.team.live = false ∧ s.grp.live = false ∧ s.teams = [] ∧ s.groups = [] ∧
  (∀ a, s.mem.byte a = 0) ∧ s.MemOk ∧ s.DevOk ∧ step s = .fault .clocksStopped

/-! ## The statements that have several parts -/

/-- Scalar instructions, PIECE and BARQ write S[D], SCMP writes P[D], and nothing else changes. -/
def Obligations.ScalarInstructions : Prop := Sys2Proof.Slice0.ScalarResults ∧ Sys2Proof.Slice0.ScalarCompare

/-- RDSR reads every special register; WRSR writes XM, DCNT and FPCR; other numbers fault. -/
def Obligations.SpecialRegisters : Prop := Sys2Proof.Slice0.SpecialRead ∧ Sys2Proof.Slice0.SpecialWrite

/-- FADD, FSUB, FMUL, FFMA, FMIN, FMAX, FLDEX, CVT and BSCAL write values rounded once and accumulate the flags of active lanes. -/
def Obligations.FloatResults : Prop := Sys2Proof.Slice0.FloatResults ∧ Sys2Proof.Slice0.ExactRounding

/-- CVTI scales by 2^n between F32 and integers; LXDEC writes the eight weights of an LX2 index times the scale. -/
def Obligations.Conversions : Prop := Sys2Proof.Slice0.ScaledConversion ∧ Sys2Proof.Slice0.WeightDecode

/-- ICMP, PAND, POR, PXOR, VOTE, FCMP and UNPACKP write predicate bits of active lanes; P15 takes none. -/
def Obligations.PredicateInstructions : Prop := Sys2Proof.Slice0.PredicateResults ∧ Sys2Proof.Slice0.FloatCompare ∧ Sys2Proof.Slice0.UnpackPredicates

/-- V2S moves the lowest active lane to S[D]; RAND writes the mixed number of each lane's key and counts in DCNT. -/
def Obligations.LaneReads : Prop := Sys2Proof.Slice0.LaneToScalar ∧ Sys2Proof.Slice0.RandomResult

/-- Division, root, exponential, logarithm and sine instructions issue and leave their results to be written. -/
def Obligations.LongLatencyDivision : Prop := Sys2Proof.Slice0.LongLatencyIssue ∧ Sys2Proof.Slice0.RootsAndSpecialValues ∧ Sys2Proof.Slice0.ScalarDivisionIssue

/-- REDUX gives the root of the fixed tree over the active lanes, PFX the prefix built from its nodes. -/
def Obligations.LaneTrees : Prop := Sys2Proof.Slice0.PrefixIssue ∧ Sys2Proof.Slice0.ReductionIssue ∧ Sys2Proof.Slice0.ExactSums

/-- NOP; uniform guards; BRD pushes its entry and splits the group; JOIN switches to the pending lanes or pops. -/
def Obligations.UniformControl : Prop := Sys2Proof.Slice0.NoOperation ∧ Sys2Proof.Slice0.UniformGuards ∧ Sys2Proof.Slice0.Divergence ∧ Sys2Proof.Slice0.Reconvergence

/-- BRA, CALL and RET go on at the clause they name; a bad control target faults at the naming instruction. -/
def Obligations.Transfers : Prop := Sys2Proof.Slice0.Transfers ∧ Sys2Proof.Slice0.ControlTargets

/-- Fetch changes caches only; a header is checked and waits for its counts; words that are no instruction fault. -/
def Obligations.FetchedWords : Prop := Sys2Proof.Slice0.FetchKeeps ∧ Sys2Proof.Slice0.HeadersAndWords

/-- EXIT and EXIT.NEXT end the group; the last group retires the team or starts its successor on the same buffers. -/
def Obligations.GroupExit : Prop := Sys2Proof.Slice0.GroupExit ∧ Sys2Proof.Slice0.SuccessorStart

/-- YIELD waits for a phase; TRAP and BKPT take their faults; STKA moves the stack pointer within its limits. -/
def Obligations.YieldTrapsStack : Prop := Sys2Proof.Slice0.YieldWaits ∧ Sys2Proof.Slice0.SoftwareTraps ∧ Sys2Proof.Slice0.StackAllocate

/-- PFCH asks for lines and never faults on a page; FENCE waits and orders; RESIZE moves ways between A and L1. -/
def Obligations.PrefetchFenceResize : Prop := Sys2Proof.Slice0.PrefetchAndFence ∧ Sys2Proof.Slice0.BufferResize

/-- CPY forks a copy thread; its completion moves all of its bytes, leaves the count and makes its arrival. -/
def Obligations.Copies : Prop := Sys2Proof.Slice0.CopyIssue ∧ Sys2Proof.Slice0.CopyCompletes

/-- An invocation holds its line and starts its routine; STDEF verifies and installs; STREL frees a slot. -/
def Obligations.StitchEventsAndDefinition : Prop := Sys2Proof.Slice0.StitchEvents ∧ Sys2Proof.Slice0.StitchDefinition

/-- BARINIT, BARKILL, BARARR, BARWAIT and BARSYNC at issue: their statuses, effects and waits. -/
def Obligations.BarrierIssue : Prop := Sys2Proof.Slice0.BarrierOperations ∧ Sys2Proof.Slice0.BarrierWaits

/-- RNGA, RFREE, RPUT and RGET and the events that complete waiting ones follow the ring pseudocode. -/
def Obligations.Rings : Prop := Sys2Proof.Slice0.RingAllocation ∧ Sys2Proof.Slice0.RingTransfers ∧ Sys2Proof.Slice0.RingWaiters

/-- A complete gang set issues its MMA in every member; results are written when operations complete. -/
def Obligations.MatrixRendezvousAndResults : Prop := Sys2Proof.Slice0.MatrixRendezvous ∧ Sys2Proof.Slice0.ResultsWritten

/-- MDRAIN issues with its elements read; it writes its tile to D or its lines to memory, indivisibly as R204 says. -/
def Obligations.Drains : Prop := Sys2Proof.Slice0.DrainIssue ∧ Sys2Proof.Slice0.DrainCompletes

/-- A fill brings its line into a free way, or its victim's, with the state of its request; k of the cinch follows the counts. -/
def Obligations.LineFillsAndCinch : Prop := Sys2Proof.Slice0.LineFills ∧ Sys2Proof.Slice0.CinchSteps

/-- The next ready group of a quadrant comes into focus in turn; a pending queue takes a free, idle or lower slot. -/
def Obligations.GroupAndSlotChoice : Prop := Sys2Proof.Slice0.IssueSelection ∧ Sys2Proof.Slice0.SlotChoice

/-- The compactor moves an allocation with a forwarding entry; a team of a privileged queue parks and returns. -/
def Obligations.CompactionAndParking : Prop := Sys2Proof.Slice0.Compaction ∧ Sys2Proof.Slice0.TeamParking

/-- SPACE, HARNESS, WAIT, SIGNAL, CUTLOAD, STDEF and PAD packets are accepted as their rules say; bad ones halt the queue. -/
def Obligations.Packets : Prop := Sys2Proof.Slice0.LaunchPackets ∧ Sys2Proof.Slice0.QueuePackets

/-- Kicks, doorbells, mapping, ageing, storage errors and lost dependences of queues; a live firmware update. -/
def Obligations.QueueEventsAndUpdate : Prop := Sys2Proof.Slice0.QueueEvents ∧ Sys2Proof.Slice0.LiveUpdate

/-- Pre-emption: asked, halted, saved whole, restored whole elsewhere. -/
def Obligations.PreemptionSavesRestores : Prop := Sys2Proof.Slice0.PreemptionRequests ∧ Sys2Proof.Slice0.ContextSaved ∧ Sys2Proof.Slice0.ContextRestored

/-- The frame of host commands; CLOCK, FREEZE, NEGOTIATE and READOUT. -/
def Obligations.DeviceCommands : Prop := Sys2Proof.Slice0.CommandFrame ∧ Sys2Proof.Slice0.DeviceCommands

/-- CREATE, DESTROY, RESUME, END, CTXNEW, CTXINV and CTXEND. -/
def Obligations.QueueAndContextCommands : Prop := Sys2Proof.Slice0.QueueCommands ∧ Sys2Proof.Slice0.ContextCommands

/-- Links and peers, heartbeats, reset and freeze requests, power and clock events. -/
def Obligations.LinksLivenessPower : Prop := Sys2Proof.Slice0.LinkEvents ∧ Sys2Proof.Slice0.Liveness ∧ Sys2Proof.Slice0.PowerEvents
end

