-- ==== Sys2Proof/Laws/Maps.lean ====
section
/-! SUPPORT. Laws/Maps.lean: reads after writes of the sparse maps, of memory and of the registers, and the canonical form. -/

namespace Sys2Proof.Machine

/-! ## Maps -/

theorem mapGet_mapIns_same {β : Type} (d : β) (m : Map β) (k : Nat) (b : β) (h : ∀ e ∈ m, e.1 ≠ k) :
    mapGet d (mapIns m k b) k = b := by
  induction m with
  | nil => simp [mapIns, mapGet]
  | cons e m ih =>
    obtain ⟨j, c⟩ := e
    have hj : j ≠ k := h (j, c) (by simp)
    simp only [mapIns]
    split
    · simp [mapGet]
    · simp only [mapGet, if_neg hj]
      exact ih fun e he => h e (by simp [he])

theorem mapGet_mapIns_other {β : Type} (d : β) (m : Map β) (k k' : Nat) (b : β) (h : k' ≠ k) :
    mapGet d (mapIns m k b) k' = mapGet d m k' := by
  induction m with
  | nil => simp [mapIns, mapGet, Ne.symm h]
  | cons e m ih =>
    obtain ⟨j, c⟩ := e
    simp only [mapIns]
    split
    · rw [mapGet, if_neg (Ne.symm h)]
    · simp only [mapGet, ih]

theorem mapGet_filter_same {β : Type} (d : β) (m : Map β) (k : Nat) :
    mapGet d (m.filter fun e => e.1 != k) k = d := by
  induction m with
  | nil => rfl
  | cons e m ih =>
    by_cases h : e.1 = k
    · simpa [List.filter_cons, h] using ih
    · rw [List.filter_cons_of_pos (by simpa using h)]
      simpa [mapGet, h] using ih

theorem mapGet_filter_other {β : Type} (d : β) (m : Map β) (k k' : Nat) (h : k' ≠ k) :
    mapGet d (m.filter fun e => e.1 != k) k' = mapGet d m k' := by
  induction m with
  | nil => rfl
  | cons e m ih =>
    obtain ⟨j, c⟩ := e
    by_cases hj : j = k
    · have hk : ¬ j = k' := fun x => h (x.symm.trans hj)
      simp only [List.filter_cons, hj, bne_self_eq_false, Bool.false_eq_true, if_false, mapGet]
      rw [ih, if_neg (fun x => h (x.symm))]
    · rw [List.filter_cons_of_pos (by simpa using hj)]
      simp only [mapGet, ih]

/-- A read after a write to the same key gives what was written. -/
theorem mapGet_mapSet_same {β : Type} [DecidableEq β] (d : β) (m : Map β) (k : Nat) (b : β) :
    mapGet d (mapSet d m k b) k = b := by
  simp only [mapSet]
  split
  · rename_i h; rw [mapGet_filter_same, h]
  · exact mapGet_mapIns_same d _ k b (by simp)

/-- A write leaves every other key alone. -/
theorem mapGet_mapSet_other {β : Type} [DecidableEq β] (d : β) (m : Map β) (k k' : Nat) (b : β) (h : k' ≠ k) :
    mapGet d (mapSet d m k b) k' = mapGet d m k' := by
  simp only [mapSet]
  split
  · exact mapGet_filter_other d m k k' h
  · rw [mapGet_mapIns_other d _ k k' b h, mapGet_filter_other d m k k' h]

theorem mapGet_mapSet {β : Type} [DecidableEq β] (d : β) (m : Map β) (k k' : Nat) (b : β) :
    mapGet d (mapSet d m k b) k' = if k' = k then b else mapGet d m k' := by
  split
  · rename_i h; rw [h, mapGet_mapSet_same]
  · rename_i h; exact mapGet_mapSet_other d m k k' b h

/-! ## The canonical form -/

theorem mapOkFrom_lower {β : Type} [DecidableEq β] (d : β) {lo lo' : Nat} {m : Map β} (h : mapOkFrom d lo m = true) (hl : lo' ≤ lo) :
    mapOkFrom d lo' m = true := by
  cases m with
  | nil => rfl
  | cons e m =>
    obtain ⟨j, c⟩ := e
    simp only [mapOkFrom, Bool.and_eq_true, decide_eq_true_eq] at h ⊢
    exact ⟨⟨by omega, h.1.2⟩, h.2⟩

theorem mapOkFrom_filter {β : Type} [DecidableEq β] (d : β) (p : Nat × β → Bool) {lo : Nat} {m : Map β} (h : mapOkFrom d lo m = true) :
    mapOkFrom d lo (m.filter p) = true := by
  induction m generalizing lo with
  | nil => rfl
  | cons e m ih =>
    obtain ⟨j, c⟩ := e
    simp only [mapOkFrom, Bool.and_eq_true, decide_eq_true_eq] at h
    by_cases hp : p (j, c)
    · rw [List.filter_cons_of_pos hp]
      simp only [mapOkFrom, Bool.and_eq_true, decide_eq_true_eq]
      exact ⟨h.1, ih h.2⟩
    · rw [List.filter_cons_of_neg hp]
      exact mapOkFrom_lower d (ih h.2) (by omega)

theorem mapOkFrom_mapIns {β : Type} [DecidableEq β] (d : β) {lo : Nat} {m : Map β} {k : Nat} {b : β} (h : mapOkFrom d lo m = true)
    (hk : lo ≤ k) (hb : b ≠ d) (hm : ∀ e ∈ m, e.1 ≠ k) : mapOkFrom d lo (mapIns m k b) = true := by
  induction m generalizing lo with
  | nil => simp [mapIns, mapOkFrom, hk, hb]
  | cons e m ih =>
    obtain ⟨j, c⟩ := e
    have hj : j ≠ k := hm (j, c) (by simp)
    simp only [mapOkFrom, Bool.and_eq_true, decide_eq_true_eq] at h
    simp only [mapIns]
    split
    · simp only [mapOkFrom, Bool.and_eq_true, decide_eq_true_eq]
      exact ⟨⟨hk, hb⟩, ⟨by omega, h.1.2⟩, h.2⟩
    · simp only [mapOkFrom, Bool.and_eq_true, decide_eq_true_eq]
      exact ⟨h.1, ih h.2 (by omega) fun e he => hm e (by simp [he])⟩

/-- A write keeps the canonical form. -/
theorem mapOkFrom_mapSet {β : Type} [DecidableEq β] (d : β) (m : Map β) (k : Nat) (b : β) (h : mapOkFrom d 0 m = true) :
    mapOkFrom d 0 (mapSet d m k b) = true := by
  simp only [mapSet]
  split
  · exact mapOkFrom_filter d _ h
  · rename_i hb
    exact mapOkFrom_mapIns d (mapOkFrom_filter d _ h) (by omega) hb (by simp)

/-! ## Memory -/

@[simp] theorem Memory.wf_put (m : Memory) (k : Nat) (b : Byte) (h : m.wf = true) : (m.put k b).wf = true :=
  mapOkFrom_mapSet _ m k b h

theorem Memory.wf_puts (cs : List Host.Cell) (m : Memory) (h : m.wf = true) : (m.puts cs).wf = true := by
  induction cs generalizing m with
  | nil => exact h
  | cons c cs ih => exact ih _ (Memory.wf_put m c.1 c.2 h)

theorem Memory.wf_putWord (m : Memory) (k n x : Nat) (h : m.wf = true) : (m.putWord k n x).wf = true := Memory.wf_puts _ m h

theorem Memory.wf_filter (p : Host.Cell → Bool) (m : Memory) (h : m.wf = true) : Memory.wf (List.filter p m) = true :=
  mapOkFrom_filter _ p h

@[simp] theorem Memory.byte_put (m : Memory) (k a : Nat) (b : Byte) : (m.put k b).byte a = if a = k then b else m.byte a :=
  mapGet_mapSet _ m k a b

/-- Bytes outside the cells that are stored read as before. -/
theorem Memory.byte_puts_other (cs : List Host.Cell) (m : Memory) (a : Nat) (h : ∀ c ∈ cs, c.1 ≠ a) :
    (m.puts cs).byte a = m.byte a := by
  induction cs generalizing m with
  | nil => rfl
  | cons c cs ih =>
    have h1 : (m.put c.1 c.2).byte a = m.byte a := by
      rw [Memory.byte_put, if_neg (Ne.symm (h c (by simp)))]
    exact (ih _ fun e he => h e (by simp [he])).trans h1

/-! ## Registers -/

@[simp] theorem Group.S_setS (g : Group) (r q : Nat) (x : W64) : (g.setS r x).S q = if q = r then x else g.S q :=
  mapGet_mapSet _ _ _ _ _

@[simp] theorem Group.V_setV (g : Group) (r l q k : Nat) (x : W32) :
    (g.setV r l x).V q k = if 32 * q + k = 32 * r + l then x else g.V q k :=
  mapGet_mapSet _ _ _ _ _

/-- P15 reads as 1 in every lane and ignores writes; every other predicate reads as it was written. -/
theorem Group.P_setP (g : Group) (p q : Nat) (x : W32) :
    (g.setP p x).P q = if q = 15 then 0xFFFFFFFF#32 else if q = p then x else g.P q := by
  by_cases hp : p = 15
  · subst hp
    simp only [Group.setP, if_true, Group.P]
    split <;> rfl
  · simp only [Group.setP, if_neg hp, Group.P, mapGet_mapSet]
    split
    · rfl
    · split <;> simp_all

@[simp] theorem Group.S_setV (g : Group) (r l q : Nat) (x : W32) : (g.setV r l x).S q = g.S q := rfl
@[simp] theorem Group.P_setV (g : Group) (r l q : Nat) (x : W32) : (g.setV r l x).P q = g.P q := rfl
@[simp] theorem Group.V_setS (g : Group) (r q k : Nat) (x : W64) : (g.setS r x).V q k = g.V q k := rfl
@[simp] theorem Group.P_setS (g : Group) (r q : Nat) (x : W64) : (g.setS r x).P q = g.P q := rfl
@[simp] theorem Group.V_setP (g : Group) (p q k : Nat) (x : W32) : (g.setP p x).V q k = g.V q k := by
  simp only [Group.setP]; split <;> rfl
@[simp] theorem Group.S_setP (g : Group) (p q : Nat) (x : W32) : (g.setP p x).S q = g.S q := by
  simp only [Group.setP]; split <;> rfl

end Sys2Proof.Machine
end

