-- ==== Sys2Proof/Laws/Lanes.lean ====
section
/-! SUPPORT. Laws/Lanes.lean: what the writes of results lane by lane leave, and what issue leaves. -/

namespace Sys2Proof.Machine

/-! ## Lanes of a mask -/

theorem mem_lanesOf {m : W32} {l : Nat} : l ∈ lanesOf m ↔ l < 32 ∧ m.getLsbD l = true := by
  simp [lanesOf, allLanes]

@[simp] theorem lanesOf_zero : lanesOf 0#32 = [] := by decide

/-! ## One lane -/

theorem Group.V_putV (g : Group) (dbl : Bool) (d l x r k : Nat) (hl : l < 32) (hk : k < 32) :
    (g.putV dbl d l x).V r k =
      if k = l ∧ r = d then BitVec.ofNat 32 x
      else if k = l ∧ dbl = true ∧ r = d + 1 then ((BitVec.ofNat 64 x) >>> 32).setWidth 32
      else g.V r k := by
  have e (a : Nat) : (32 * r + k = 32 * a + l) ↔ (k = l ∧ r = a) := by omega
  cases dbl
  · simp [Group.putV, e]
  · simp only [Group.putV, if_true, Group.setV64, Group.V_setV, e]
    by_cases h1 : k = l <;> by_cases h2 : r = d <;> by_cases h3 : r = d + 1
    all_goals simp_all

theorem Group.putV_eq (g : Group) (dbl : Bool) (d l x : Nat) : g.putV dbl d l x = { g with v := (g.putV dbl d l x).v } := by
  cases dbl <;> rfl

/-! ## All lanes of a list -/

/-- What a write of a result in a list of lanes leaves in a register. -/
theorem putV_lanes (dbl : Bool) (d : Nat) (f : Nat → Nat) (ls : List Nat) (h : ∀ l ∈ ls, l < 32) (g : Group) (r k : Nat) (hk : k < 32) :
    (ls.foldl (fun g l => g.putV dbl d l (f l)) g).V r k =
      if k ∈ ls ∧ r = d then BitVec.ofNat 32 (f k)
      else if k ∈ ls ∧ dbl = true ∧ r = d + 1 then ((BitVec.ofNat 64 (f k)) >>> 32).setWidth 32
      else g.V r k := by
  induction ls generalizing g with
  | nil => simp
  | cons l ls ih =>
    rw [List.foldl_cons, ih (fun x hx => h x (by simp [hx])), Group.V_putV _ _ _ _ _ _ _ (h l (by simp)) hk]
    by_cases h1 : k ∈ ls <;> by_cases h2 : k = l <;> by_cases h3 : r = d <;> by_cases h4 : dbl = true ∧ r = d + 1
    all_goals simp_all

theorem putV_lanes_eq (dbl : Bool) (d : Nat) (f : Nat → Nat) (ls : List Nat) (g : Group) :
    ls.foldl (fun g l => g.putV dbl d l (f l)) g = { g with v := (ls.foldl (fun g l => g.putV dbl d l (f l)) g).v } := by
  induction ls generalizing g with
  | nil => rfl
  | cons l ls ih =>
    rw [List.foldl_cons, ih, Group.putV_eq]

/-- Results in the active lanes: the destination, or the pair, and nothing else. -/
theorem mapLanes_V (dbl : Bool) (d : VReg) (f : Group → Nat → Nat) (act : W32) (s : State) (r k : Nat) (hk : k < 32) :
    (mapLanes dbl d f act s).grp.V r k =
      if act.getLsbD k = true ∧ r = d.val then BitVec.ofNat 32 (f s.grp k)
      else if act.getLsbD k = true ∧ dbl = true ∧ r = d.val + 1 then ((BitVec.ofNat 64 (f s.grp k)) >>> 32).setWidth 32
      else s.grp.V r k := by
  have h := putV_lanes dbl d.val (f s.grp) (lanesOf act) (fun l hl => (mem_lanesOf.1 hl).1) s.grp r k hk
  simp only [mem_lanesOf, hk, true_and] at h
  exact h

theorem mapLanes_eq (dbl : Bool) (d : VReg) (f : Group → Nat → Nat) (act : W32) (s : State) :
    mapLanes dbl d f act s = { s with grp := { s.grp with v := (mapLanes dbl d f act s).grp.v } } := by
  have h := putV_lanes_eq dbl d.val (f s.grp) (lanesOf act) s.grp
  simp only [mapLanes] at *
  rw [h]

/-! ## Lanes with flags -/

theorem putVF_lanes_fst (dbl : Bool) (d : Nat) (f : Nat → Nat × Nat) (ls : List Nat) (g : Group) :
    (ls.foldl (fun g l => { g.putV dbl d l (f l).1 with fpcr := g.fpcr ||| BitVec.ofNat 5 (f l).2 }) g) =
      { ls.foldl (fun g l => g.putV dbl d l (f l).1) g with
        fpcr := ls.foldl (fun m l => m ||| BitVec.ofNat 5 (f l).2) g.fpcr } := by
  induction ls generalizing g with
  | nil => rfl
  | cons l ls ih =>
    rw [List.foldl_cons, ih, List.foldl_cons, List.foldl_cons]
    have h : ∀ (ls : List Nat) (g : Group) (x : BitVec 5),
        (ls.foldl (fun g l => g.putV dbl d l (f l).1) { g with fpcr := x }) =
          { ls.foldl (fun g l => g.putV dbl d l (f l).1) g with fpcr := x } := by
      intro ls
      induction ls with
      | nil => intros; rfl
      | cons l ls ih =>
        intro g x
        rw [List.foldl_cons, List.foldl_cons, ← ih]
        congr 1
        cases dbl <;> rfl
    rw [h]

theorem mapLanesF_eq (dbl : Bool) (d : VReg) (f : Group → Nat → Nat × Nat) (act : W32) (s : State) :
    mapLanesF dbl d f act s =
      { s with grp := { (mapLanes dbl d (fun g l => (f g l).1) act s).grp with
          fpcr := (lanesOf act).foldl (fun m l => m ||| BitVec.ofNat 5 (f s.grp l).2) s.grp.fpcr } } := by
  simp only [mapLanesF, mapLanes]
  rw [putVF_lanes_fst]

theorem mapLanes_eq_mapLanesF (dbl : Bool) (d : VReg) (f : Group → Nat → Nat) (act : W32) (s : State) :
    mapLanes dbl d f act s = mapLanesF dbl d (fun g l => (f g l, 0)) act s := by
  rw [mapLanesF_eq, mapLanes_eq]
  have h : ∀ (ls : List Nat) (x : BitVec 5), ls.foldl (fun m _ => m ||| BitVec.ofNat 5 0) x = x := by
    intro ls; induction ls with
    | nil => intro x; rfl
    | cons l ls ih => intro x; rw [List.foldl_cons, ih]; simp
  simp only [h]

/-- The flags of all lanes accumulate (05 R108). -/
theorem flags_fold (f : Nat → Nat) (ls : List Nat) (x : BitVec 5) (b : Nat) (hb : b < 5) :
    (ls.foldl (fun m l => m ||| BitVec.ofNat 5 (f l)) x).getLsbD b = true ↔
      x.getLsbD b = true ∨ ∃ l ∈ ls, (f l).testBit b = true := by
  induction ls generalizing x with
  | nil => simp
  | cons l ls ih =>
    rw [List.foldl_cons, ih]
    simp only [BitVec.getLsbD_or, Bool.or_eq_true, BitVec.getLsbD_ofNat, hb, decide_true, Bool.true_and, List.mem_cons, exists_eq_or_imp, or_assoc]

theorem or_fold (f : Nat → Nat) (ls : List Nat) (x b : Nat) :
    (ls.foldl (fun m e => m ||| f e) x).testBit b = true ↔ x.testBit b = true ∨ ∃ e ∈ ls, (f e).testBit b = true := by
  induction ls generalizing x with
  | nil => simp
  | cons l ls ih =>
    rw [List.foldl_cons, ih]
    simp [or_assoc]

/-- A source that is D reads what the active lanes wrote. -/
theorem mapLanes_src (dbl : Bool) (d : VReg) (f : Group → Nat → Nat) (act : W32) (s : State) (l : Nat) (hl : l < 32)
    (ha : act.getLsbD l = true) :
    (mapLanes dbl d f act s).grp.srcNat dbl l (.v d) = f s.grp l % 2 ^ (if dbl then 64 else 32) := by
  cases dbl
  · simp only [Group.srcNat, Group.src32, Bool.false_eq_true, if_false]
    rw [mapLanes_V _ _ _ _ _ _ _ hl]; simp [ha]
  · simp only [Group.srcNat, Group.src64, Group.V64, if_true]
    rw [mapLanes_V _ _ _ _ _ _ _ hl, mapLanes_V _ _ _ _ _ _ _ hl]
    simp only [ha, true_and, if_true]
    have : ¬ (d.val + 1 = d.val) := by omega
    simp only [this, if_false]
    have h : (BitVec.setWidth 32 ((BitVec.ofNat 64 (f s.grp l)) >>> 32) ++ BitVec.ofNat 32 (f s.grp l)) = BitVec.ofNat 64 (f s.grp l) := by
      apply BitVec.eq_of_getLsbD_eq
      intro i hi
      simp only [BitVec.getLsbD_append, BitVec.getLsbD_setWidth, BitVec.getLsbD_ushiftRight, BitVec.getLsbD_ofNat]
      by_cases h : i < 32
      · simp [h, hi]
      · have e : i - 32 < 32 := by omega
        have e2 : 32 + (i - 32) = i := by omega
        simp [h, e, e2, hi]
    rw [h, BitVec.toNat_ofNat]

/-! ## Predicates -/

theorem getLsbD_setBit (x : W32) (l k : Nat) (hl : l < 32) (b : Bool) :
    (if b then x ||| (1#32 <<< l) else x &&& ~~~(1#32 <<< l)).getLsbD k = if k = l then b else x.getLsbD k := by
  cases b
  · by_cases h : k = l
    · subst h; simp [hl]
    · simp only [Bool.false_eq_true, if_false, BitVec.getLsbD_and, BitVec.getLsbD_not, BitVec.getLsbD_shiftLeft, if_neg h]
      by_cases hk : k < 32
      · have : (BitVec.getLsbD 1#32 (k - l)) = decide (k - l = 0) := by
          rw [show (1#32 : BitVec 32) = BitVec.ofNat 32 1 from rfl]; simp [BitVec.getLsbD_one]
        by_cases h2 : k < l
        · simp [hk, h2]
        · have : k - l ≠ 0 := by omega
          simp [hk, h2, BitVec.getLsbD_one, this]
      · simp [hk, BitVec.getLsbD_of_ge x k (by omega)]
  · by_cases h : k = l
    · subst h; simp [hl]
    · simp only [if_true, BitVec.getLsbD_or, BitVec.getLsbD_shiftLeft, if_neg h]
      by_cases hk : k < 32
      · by_cases h2 : k < l
        · simp [h2]
        · have : k - l ≠ 0 := by omega
          simp [BitVec.getLsbD_one, this]
      · simp [hk]

theorem Group.P_setPbit (g : Group) (p l q k : Nat) (b : Bool) (hl : l < 32) :
    ((g.setPbit p l b).P q).getLsbD k =
      if q = p ∧ p ≠ 15 ∧ k = l then b else (g.P q).getLsbD k := by
  simp only [Group.setPbit, Group.P_setP]
  by_cases hq : q = 15
  · subst hq
    by_cases hp : p = 15
    · simp [hp, Group.P]
    · have : ¬ (15 = p) := fun h => hp h.symm
      simp [this, Group.P]
  · by_cases hp : q = p
    · subst hp
      simp only [if_neg hq, if_true, getLsbD_setBit _ _ _ hl]
      simp [hq]
    · simp [hq, hp]

theorem Group.setPbit_eq (g : Group) (p l : Nat) (b : Bool) : g.setPbit p l b = { g with p := (g.setPbit p l b).p } := by
  simp only [Group.setPbit, Group.setP]
  split <;> rfl

theorem setP_lanes (p : Nat) (f : Nat → Bool) (ls : List Nat) (h : ∀ l ∈ ls, l < 32) (g : Group) (q k : Nat) (hk : k < 32) :
    ((ls.foldl (fun g l => g.setPbit p l (f l)) g).P q).getLsbD k =
      if q = p ∧ p ≠ 15 ∧ k ∈ ls then f k else (g.P q).getLsbD k := by
  induction ls generalizing g with
  | nil => simp
  | cons l ls ih =>
    rw [List.foldl_cons, ih (fun x hx => h x (by simp [hx])), Group.P_setPbit _ _ _ _ _ _ (h l (by simp))]
    by_cases h1 : k ∈ ls <;> by_cases h2 : k = l <;> by_cases h3 : q = p ∧ p ≠ 15
    all_goals simp_all

theorem setP_lanes_eq (p : Nat) (f : Nat → Bool) (ls : List Nat) (g : Group) :
    ls.foldl (fun g l => g.setPbit p l (f l)) g = { g with p := (ls.foldl (fun g l => g.setPbit p l (f l)) g).p } := by
  induction ls generalizing g with
  | nil => rfl
  | cons l ls ih => rw [List.foldl_cons, ih, Group.setPbit_eq]

theorem mapPred_P (p : PReg) (f : Group → Nat → Bool) (act : W32) (s : State) (q k : Nat) (hk : k < 32) :
    ((mapPred p f act s).grp.P q).getLsbD k =
      if q = p.val ∧ p.val ≠ 15 ∧ act.getLsbD k = true then f s.grp k else (s.grp.P q).getLsbD k := by
  have h := setP_lanes p.val (f s.grp) (lanesOf act) (fun l hl => (mem_lanesOf.1 hl).1) s.grp q k hk
  simp only [mem_lanesOf, hk, true_and] at h
  exact h

theorem mapPred_eq (p : PReg) (f : Group → Nat → Bool) (act : W32) (s : State) :
    mapPred p f act s = { s with grp := { s.grp with p := (mapPred p f act s).grp.p } } := by
  have h := setP_lanes_eq p.val (f s.grp) (lanesOf act) s.grp
  simp only [mapPred] at *
  rw [h]

/-! ## Issue -/

/-- What issue changes besides the instruction's own effect: the core's count and turn, I and A of the piece, the position, and one
place of every open window (03 R52, R57, R72; 06 R124; 16 R262). -/
theorem State.finish_eq (act : W32) (s : State) :
    s.finish act =
      { s with
        core := { s.core with issued := s.core.issued + 1, lastQuad := mapSet 0 s.core.lastQuad (s.grp.gid % 4) (1 + 32 * s.grp.slot + s.grp.gid) },
        team := if s.grp.replay.isNone then { s.team with icnt := s.team.icnt + 1, acnt := s.team.acnt + popcount 32 (act &&& s.pointLanes).toNat } else s.team,
        grp := s.grp.tick.step } := rfl

/-- The three ways in which an instruction that acts per lane leaves its turn. -/
theorem perLane_cases (opc : Nat) (i : Instr) (g : Guard) (body : W32 → State → State) (s : State) :
    (s.holds i = true ∧ perLane opc i g body s = .next (s.stay opc i)) ∨
    (s.holds i = false ∧ g.isNever = true ∧ perLane opc i g body s = .next (s.finish 0)) ∨
    (s.holds i = false ∧ g.isNever = false ∧ ∃ t, s.grp.bounds i = some t ∧ perLane opc i g body s = .next (s.takeFault opc t)) ∨
    (s.holds i = false ∧ g.isNever = false ∧ s.grp.bounds i = none ∧
      perLane opc i g body s = .next ((body (s.lanes g) s).finish (s.lanes g))) := by
  unfold perLane
  by_cases h : s.holds i = true
  · simp [h]
  · by_cases hn : g.isNever = true
    · simp [h, hn]
    · cases hb : s.grp.bounds i <;> simp [h, hn]

theorem onceOp_cases (opc : Nat) (i : Instr) (body : State → State) (s : State) :
    (s.holds i = true ∧ onceOp opc i body s = .next (s.stay opc i)) ∨
    (s.holds i = false ∧ ∃ t, s.grp.bounds i = some t ∧ onceOp opc i body s = .next (s.takeFault opc t)) ∨
    (s.holds i = false ∧ s.grp.bounds i = none ∧ onceOp opc i body s = .next ((body s).finish s.grp.xm)) := by
  unfold onceOp
  by_cases h : s.holds i = true
  · simp [h]
  · cases hb : s.grp.bounds i <;> simp [h]

end Sys2Proof.Machine
end

