-- ==== Sys2Proof/Laws/Access.lean ====
section
/-! SUPPORT. Laws/Access.lean: what the shared steps of a memory instruction may change: translations, the L1, requests at the homes, and
the typed buffers. -/

namespace Sys2Proof.Machine

theorem State.setAD_changes (ctx va : Nat) (l : Leaf) (w : Bool) (s : State) : ∃ m t, s.setAD ctx va l w = { s with mem := m, tlb := t } := by
  unfold State.setAD
  simp only []
  split <;> split <;> exact ⟨_, _, rfl⟩

theorem State.used_changes (w : Bool) (as : List LaneAcc) (s : State) : ∃ m t, s.used w as = { s with mem := m, tlb := t } := by
  unfold State.used
  induction as generalizing s with
  | nil => exact ⟨s.mem, s.tlb, rfl⟩
  | cons a as ih =>
    rw [List.foldl_cons]
    split
    · exact ih s
    · have : ∃ t, s.tlbKeep s.cluster s.team.ctx a.va a.leaf = { s with tlb := t } := by
        unfold State.tlbKeep; split
        · exact ⟨s.tlb, rfl⟩
        · exact ⟨_, rfl⟩
      obtain ⟨t1, h1⟩ := this
      obtain ⟨m2, t2, h2⟩ := State.setAD_changes s.team.ctx a.va a.leaf w (s.tlbKeep s.cluster s.team.ctx a.va a.leaf)
      obtain ⟨m, t, h⟩ := ih ((s.tlbKeep s.cluster s.team.ctx a.va a.leaf).setAD s.team.ctx a.va a.leaf w)
      exact ⟨m, t, by rw [h, h2, h1]⟩

/-- What translating for the instruction in hand changes: the uses of the pages, and the wait that follows it (03 R56). -/
theorem State.translated_changes (w : Bool) (as : List LaneAcc) (s : State) :
    ∃ m t gp, s.translated w as = { s with mem := m, tlb := t, grp := { s.grp with gap := gp } } := by
  obtain ⟨m, t, h⟩ := State.used_changes w as s
  unfold State.translated
  rw [h]
  exact ⟨m, t, _, rfl⟩

theorem State.teamUpdate_changes (u : Nat) (q : Req) (s : State) : ∃ b, s.teamUpdate u q = { s with teamNow := b } := by
  unfold State.teamUpdate; split
  · exact ⟨s.teamNow, rfl⟩
  · exact ⟨_, rfl⟩

theorem State.keepOld_changes (key : Nat) (old : Option Memory) (s : State) : ∃ c, s.keepOld key old = { s with rlines := c } := by
  unfold State.keepOld; split
  · exact ⟨s.rlines, rfl⟩
  · exact ⟨_, rfl⟩

theorem State.request_changes (q : Req) (s : State) : ∃ a b c d, s.request q = { s with access := a, teamNow := b, rlines := c, fills := d } := by
  unfold State.request
  split
  · exact ⟨s.access, s.teamNow, s.rlines, s.fills, rfl⟩
  · simp only []
    generalize ha : mapSet 0 s.access (accessKey q.key q.die) (mapGet 0 s.access (accessKey q.key q.die) + 1) = a
    obtain ⟨b, hb⟩ := State.teamUpdate_changes (homeUnit q.key) q { s with access := a }
    rw [hb]
    split
    · obtain ⟨b2, hb2⟩ := State.teamUpdate_changes (mscUnit q.key) q { s with access := a, teamNow := b }
      rw [hb2]; exact ⟨_, _, s.rlines, s.fills, rfl⟩
    · split
      · have hk : ∃ c, (if q.dirty = true then State.keepOld q.key (some (s.mem.lineCells q.key)) { s with access := a, teamNow := b }
            else { s with access := a, teamNow := b }) = { s with access := a, teamNow := b, rlines := c } := by
          split
          · obtain ⟨c, hc⟩ := State.keepOld_changes q.key (some (s.mem.lineCells q.key)) { s with access := a, teamNow := b }
            exact ⟨c, hc⟩
          · exact ⟨s.rlines, rfl⟩
        obtain ⟨c, hc⟩ := hk
        rw [hc]; exact ⟨_, _, _, s.fills, rfl⟩
      · exact ⟨_, _, s.rlines, _, rfl⟩

/-- Any number of requests. -/
theorem requestFold_changes {α : Type} (g : State → α → State) (hg : ∀ s x, ∃ q, g s x = s.request q) (as : List α) (s : State) :
    ∃ a b c d, as.foldl g s = { s with access := a, teamNow := b, rlines := c, fills := d } := by
  induction as generalizing s with
  | nil => exact ⟨s.access, s.teamNow, s.rlines, s.fills, rfl⟩
  | cons x as ih =>
    rw [List.foldl_cons]
    obtain ⟨q, hq⟩ := hg s x
    obtain ⟨a1, b1, c1, d1, h1⟩ := State.request_changes q s
    rw [hq, h1]
    obtain ⟨a2, b2, c2, d2, h2⟩ := ih { s with access := a1, teamNow := b1, rlines := c1, fills := d1 }
    exact ⟨a2, b2, c2, d2, h2⟩

theorem State.requests_changes (r g : Nat) (code : Option Nat) (dirty : Bool) (as : List LaneAcc) (s : State) :
    ∃ a b c d, s.requests r g code dirty as = { s with access := a, teamNow := b, rlines := c, fills := d } :=
  requestFold_changes _ (fun _ _ => ⟨_, rfl⟩) (onePerLine as) s

theorem State.l1Fill_changes (ctx : Nat) (a : LaneAcc) (al : Bool) (s : State) : ∃ c cs, s.l1Fill ctx a al = { s with core := c, cores := cs } := by
  unfold State.l1Fill
  simp only []
  split
  · exact ⟨_, _, rfl⟩
  · exact ⟨_, _, rfl⟩

theorem Group.learnAt_eq (n : Nat) (k : Know) (g : Group) :
    ∃ kn fk ps, g.learnAt n k = { g with know := kn, fork := fk, pend := ps } := ⟨_, _, _, rfl⟩

/-- An acquire changes what the group knows, itself and for the threads it starts, the arrivals it has still to make, and the core's fill
epoch. -/
theorem State.acquireMem_changes (n : Nat) (sc : Scope) (h : Hand) (s : State) : ∃ kn fk ps e,
    s.acquireMem n sc h = { s with grp := { s.grp with know := kn, fork := fk, pend := ps }, core := { s.core with epoch := e } } := by
  have hg : ∀ (k : Know) (s : State), ∃ kn fk ps,
      s.onGrp (Group.learnAt n k) = { s with grp := { s.grp with know := kn, fork := fk, pend := ps } } := by
    intro k s
    obtain ⟨kn, fk, ps, h⟩ := Group.learnAt_eq n k s.grp
    exact ⟨kn, fk, ps, by unfold State.onGrp; rw [h]⟩
  unfold State.acquireMem
  by_cases h1 : sc.rank = 0
  · rw [if_pos h1, if_neg (by omega)]; exact ⟨s.grp.know, s.grp.fork, s.grp.pend, s.core.epoch, rfl⟩
  · obtain ⟨kn, fk, ps, hk⟩ := hg h.near s
    rw [if_neg h1, hk]
    by_cases h2 : 2 ≤ sc.rank
    · rw [if_pos h2]
      obtain ⟨kn2, fk2, ps2, h3⟩ := hg { epoch := s.core.epoch + 1, seen := h.far }
        ({ s with grp := { s.grp with know := kn, fork := fk, pend := ps } }.onCore fun c => { c with epoch := c.epoch + 1 })
      exact ⟨kn2, fk2, ps2, s.core.epoch + 1, h3⟩
    · rw [if_neg h2]; exact ⟨kn, fk, ps, s.core.epoch, rfl⟩

theorem State.privRead_changes (p : Pend) (l : Nat) (s : State) :
    ∃ c cs a1 b1 c1 d1, s.privRead p l = { s with core := c, cores := cs, access := a1, teamNow := b1, rlines := c1, fills := d1 } := by
  unfold State.privRead
  split
  · exact ⟨_, s.cores, s.access, s.teamNow, s.rlines, s.fills, rfl⟩
  · obtain ⟨c, cs, h1⟩ := State.l1Fill_changes s.team.ctx (s.grp.privAcc l) (decide (p.nud ≠ 0)) s
    obtain ⟨a1, b1, c1, d1, h⟩ := State.requests_changes p.stamp p.gcnt (some p.nud) false [s.grp.privAcc l]
      (s.l1Fill s.team.ctx (s.grp.privAcc l) (decide (p.nud ≠ 0)))
    rw [h, h1]; exact ⟨_, _, _, _, _, _, rfl⟩

theorem privReads_changes (p : Pend) (ls : List Nat) (s : State) : ∃ c cs a1 b1 c1 d1,
    ls.foldl (fun s l => s.privRead p l) s = { s with core := c, cores := cs, access := a1, teamNow := b1, rlines := c1, fills := d1 } := by
  induction ls generalizing s with
  | nil => exact ⟨s.core, s.cores, s.access, s.teamNow, s.rlines, s.fills, rfl⟩
  | cons l ls ih =>
    rw [List.foldl_cons]
    obtain ⟨c, cs, a1, b1, c1, d1, h⟩ := State.privRead_changes p l s
    obtain ⟨c', cs', a2, b2, c2, d2, h2⟩ := ih (s.privRead p l)
    rw [h2, h]; exact ⟨_, _, _, _, _, _, rfl⟩

theorem State.privAsk_changes (r : Nat) (nud : BitVec 8) (w : Nat) (ls : List (Nat × Nat)) (s : State) :
    ∃ a b c d, s.privAsk r nud w ls = { s with access := a, teamNow := b, rlines := c, fills := d } := by
  unfold State.privAsk
  generalize uniq (ls.flatMap fun x => privLines x.2 w) = xs
  induction xs generalizing s with
  | nil => exact ⟨s.access, s.teamNow, s.rlines, s.fills, rfl⟩
  | cons l xs ih =>
    rw [List.foldl_cons]
    obtain ⟨a, b, c, d, h⟩ := State.requests_changes r s.team.gcnt (some nud.toNat) true [s.grp.privAcc l] s
    obtain ⟨a2, b2, c2, d2, h2⟩ := ih (s.requests r s.team.gcnt (some nud.toNat) true [s.grp.privAcc l])
    rw [h2, h]; exact ⟨_, _, _, _, rfl⟩

/-- What a lane of a load reads, and all that its binding changes. -/
theorem State.bindLane_spec (p : Pend) (w : Nat) (home : Bool) (a : LaneAcc) (s : State) :
    (s.bindLane p w home a).1 = (if keySpace a.key = .priv then (List.range w).map fun i => s.privByte p a.lane (a.va + i)
      else if keySpace a.key ≠ .glob then s.localBytes (keySpace a.key) a.lane a.va w
      else match s.hitLine? p home a with
        | some line => (line.data.drop (a.key % 128)).take w
        | none => (s.seenBy p.know a.va).bytes a.key w) ∧
    ∃ c cs a1 b1 c1 d1, (s.bindLane p w home a).2 = { s with core := c, cores := cs, access := a1, teamNow := b1, rlines := c1, fills := d1 } := by
  unfold State.bindLane
  cases hk : keySpace a.key
  case glob =>
    simp only [reduceCtorEq, ne_eq, not_true_eq_false, if_false]
    cases hh : s.hitLine? p home a with
    | some x => exact ⟨rfl, _, s.cores, s.access, s.teamNow, s.rlines, s.fills, rfl⟩
    | none =>
      refine ⟨rfl, ?_⟩
      simp only []
      obtain ⟨c, cs, h1⟩ := State.l1Fill_changes s.team.ctx a (decide (a.leaf.cp ≠ 3) && decide (p.nud ≠ 0)) s
      obtain ⟨a1, b1, c1, d1, h2⟩ := State.requests_changes p.stamp p.gcnt (some p.nud) false [a]
        (s.l1Fill s.team.ctx a (decide (a.leaf.cp ≠ 3) && decide (p.nud ≠ 0)))
      rw [h2, h1]
      exact ⟨_, _, _, _, _, _, rfl⟩
  case priv => exact ⟨by simp, privReads_changes p (privLines a.va w) s⟩
  all_goals exact ⟨by simp, s.core, s.cores, s.access, s.teamNow, s.rlines, s.fills, rfl⟩

/-! ## Bytes of the typed buffers and of the lanes -/

theorem putLocal_eq (sp : Space) (l off : Nat) (b : Byte) (s : State) :
    ∃ m m1 m2 m3, s.putLocal sp l off b = { s with mem := m, team := { s.team with wbuf := m1, abuf := m2, dbuf := m3 } } := by
  cases sp
  · exact ⟨s.mem, s.team.wbuf, s.team.abuf, s.team.dbuf, rfl⟩
  · exact ⟨s.mem, _, s.team.abuf, s.team.dbuf, rfl⟩
  · exact ⟨s.mem, s.team.wbuf, _, s.team.dbuf, rfl⟩
  · exact ⟨s.mem, s.team.wbuf, s.team.abuf, _, rfl⟩
  · exact ⟨_, s.team.wbuf, s.team.abuf, s.team.dbuf, rfl⟩

theorem placed_inj {l a l' a' : Nat} (h : l < 32) (h' : l' < 32) : placed l a = placed l' a' ↔ l = l' ∧ a = a' := by
  unfold placed; omega

theorem wrote_eq (k : Option Release) (sp : Space) (off n : Nat) (t : Team) : ∃ r, t.wrote k sp off n = { t with rels := r } := by
  unfold Team.wrote; split
  · exact ⟨t.rels, rfl⟩
  · exact ⟨_, rfl⟩

theorem localByte_wrote (k : Option Release) (sp' : Space) (a n : Nat) (sp : Space) (l off : Nat) (s : State) :
    (s.onTeam (Team.wrote k sp' a n)).localByte sp l off = s.localByte sp l off := by
  obtain ⟨r, h⟩ := wrote_eq k sp' a n s.team
  unfold State.onTeam; rw [h]; cases sp <;> rfl

theorem localByte_put (sp sp' : Space) (l l' off off' : Nat) (b : Byte) (s : State) (hsp : sp ≠ .glob) (hl : l < 32) (hl' : l' < 32) :
    (s.putLocal sp l off b).localByte sp' l' off' = if sp' = sp ∧ off' = off ∧ (sp = .priv → l' = l) then b else s.localByte sp' l' off' := by
  cases sp <;> cases sp' <;> first | contradiction | rfl | simp [State.putLocal, State.localByte, State.onTeam, mapGet_mapSet, Group.privKey, Memory.byte_put, placed_inj hl' hl, and_comm]

theorem localByte_puts (k : Option Release) (sp sp' : Space) (l l' off off' : Nat) (bs : List Byte) (s : State) (hsp : sp ≠ .glob) (hl : l < 32) (hl' : l' < 32) :
    (s.putLocals k sp l off bs).localByte sp' l' off' =
      if sp' = sp ∧ off ≤ off' ∧ off' < off + bs.length ∧ (sp = .priv → l' = l) then bs.getD (off' - off) 0 else s.localByte sp' l' off' := by
  unfold State.putLocals
  rw [localByte_wrote]
  suffices H : ∀ (n : Nat) (s : State), ((bs.zipIdx n).foldl (fun s x => s.putLocal sp l (off + x.2) x.1) s).localByte sp' l' off' =
      if sp' = sp ∧ off + n ≤ off' ∧ off' < off + n + bs.length ∧ (sp = .priv → l' = l) then bs.getD (off' - (off + n)) 0 else s.localByte sp' l' off' by
    have := H 0 s; simpa using this
  induction bs with
  | nil => intro n s; simp; omega
  | cons b bs ih =>
    intro n s
    simp only [List.zipIdx_cons, List.foldl_cons]
    rw [ih (n + 1), localByte_put _ _ _ _ _ _ _ _ hsp hl hl']
    by_cases h1 : sp' = sp ∧ (sp = .priv → l' = l)
    · by_cases h2 : off' = off + n
      · subst h2
        rw [if_neg (by omega), if_pos ⟨h1.1, rfl, h1.2⟩, if_pos ⟨h1.1, by omega, by simp, h1.2⟩]; simp
      · simp only [h1.1, true_and, List.length_cons, h2, false_and, if_false]
        by_cases h3 : off + n ≤ off' ∧ off' < off + n + (bs.length + 1)
        · have e : off' - (off + n) = off' - (off + (n + 1)) + 1 := by omega
          rw [if_pos ⟨by omega, by omega, h1.2⟩, if_pos ⟨h3.1, h3.2, h1.2⟩, e, List.getD_cons_succ]
        · rw [if_neg (by omega), if_neg (by omega)]
    · rw [if_neg (fun h => h1 ⟨h.1, h.2.2.2⟩), if_neg (fun h => h1 ⟨h.1, h.2.2⟩), if_neg (fun h => h1 ⟨h.1, h.2.2.2⟩)]

theorem putLocals_eq (k : Option Release) (sp : Space) (l off : Nat) (bs : List Byte) (s : State) :
    ∃ m m1 m2 m3 r, s.putLocals k sp l off bs =
      { s with mem := m, team := { s.team with wbuf := m1, abuf := m2, dbuf := m3, rels := r } } := by
  have : ∀ (z : List (Byte × Nat)) (s : State), ∃ m m1 m2 m3, z.foldl (fun s x => s.putLocal sp l (off + x.2) x.1) s =
      { s with mem := m, team := { s.team with wbuf := m1, abuf := m2, dbuf := m3 } } := by
    intro z
    induction z with
    | nil => intro s; exact ⟨s.mem, s.team.wbuf, s.team.abuf, s.team.dbuf, rfl⟩
    | cons x z ih =>
      intro s
      rw [List.foldl_cons]
      obtain ⟨m, m1, m2, m3, h⟩ := putLocal_eq sp l (off + x.2) x.1 s
      obtain ⟨a, a1, a2, a3, h2⟩ := ih (s.putLocal sp l (off + x.2) x.1)
      rw [h2, h]; exact ⟨_, _, _, _, rfl⟩
  obtain ⟨m, m1, m2, m3, h⟩ := this bs.zipIdx s
  unfold State.putLocals State.onTeam
  obtain ⟨r, hr⟩ := wrote_eq k sp off bs.length (bs.zipIdx.foldl (fun s x => s.putLocal sp l (off + x.2) x.1) s).team
  rw [hr, h]; exact ⟨_, _, _, _, _, rfl⟩

/-- One lane's bytes of a store to a buffer or to lane-private space, and what their values hand on. -/
def storeLane (k : Option Release) (sp : Space) (data : Nat → List Byte) (s : State) (x : Nat × Nat) : State :=
  s.putLocals k sp x.1 x.2 (data x.1)

theorem storeLanes_eq (k : Option Release) (sp : Space) (data : Nat → List Byte) (ls : List (Nat × Nat)) (s : State) :
    ∃ m m1 m2 m3 r, ls.foldl (storeLane k sp data) s =
      { s with mem := m, team := { s.team with wbuf := m1, abuf := m2, dbuf := m3, rels := r } } := by
  induction ls generalizing s with
  | nil => exact ⟨s.mem, s.team.wbuf, s.team.abuf, s.team.dbuf, s.team.rels, rfl⟩
  | cons x z ih =>
    rw [List.foldl_cons]
    obtain ⟨a, a1, a2, a3, r2, h2⟩ := ih (storeLane k sp data s x)
    obtain ⟨m, m1, m2, m3, r, h⟩ := putLocals_eq k sp x.1 x.2 (data x.1) s
    rw [h2, storeLane, h]; exact ⟨_, _, _, _, _, rfl⟩

theorem storeLanes_frame (k : Option Release) (sp sp' : Space) (w : Nat) (data : Nat → List Byte) (hd : ∀ l, (data l).length = w) (hsp : sp ≠ .glob) (l off : Nat) (hl : l < 32)
    (ls : List (Nat × Nat)) (h32 : ∀ z ∈ ls, z.1 < 32) (h : sp' = sp → ∀ z ∈ ls, off < z.2 ∨ z.2 + w ≤ off ∨ (sp' = .priv ∧ z.1 ≠ l)) (s : State) :
    (ls.foldl (storeLane k sp data) s).localByte sp' l off = s.localByte sp' l off := by
  induction ls generalizing s with
  | nil => rfl
  | cons x z ih =>
    rw [List.foldl_cons, ih (fun y hy => h32 y (by simp [hy])) (fun e y hy => h e y (by simp [hy])), storeLane, localByte_puts _ _ _ _ _ _ _ _ _ hsp (h32 x (by simp)) hl, if_neg]
    rintro ⟨e, h1, h2, h3⟩
    rw [hd] at h2
    rcases h e x (by simp) with h4 | h4 | ⟨h4, h5⟩
    · omega
    · omega
    · exact h5 (h3 (e ▸ h4)).symm

theorem storeLanes_val (k : Option Release) (sp : Space) (w : Nat) (data : Nat → List Byte) (hd : ∀ l, (data l).length = w) (hsp : sp ≠ .glob)
    (ls : List (Nat × Nat)) (h32 : ∀ z ∈ ls, z.1 < 32) (hord : ls.Pairwise (fun a b => a.1 < b.1)) (x : Nat × Nat) (hx : x ∈ ls)
    (h : ∀ z ∈ ls, x.1 < z.1 → sp ≠ .priv → z.2 + w ≤ x.2 ∨ x.2 + w ≤ z.2) (s : State) :
    (ls.foldl (storeLane k sp data) s).localBytes sp x.1 x.2 w = data x.1 := by
  induction ls generalizing s with
  | nil => simp at hx
  | cons y z ih =>
    rw [List.foldl_cons]
    have hp := List.pairwise_cons.1 hord
    rcases List.mem_cons.1 hx with rfl | hx
    · apply List.ext_getElem
      · simp [State.localBytes, hd]
      · intro j h1 h2
        have hj : j < w := by simpa [State.localBytes] using h1
        simp only [State.localBytes, List.getElem_map, List.getElem_range]
        rw [storeLanes_frame k sp sp w data hd hsp _ _ (h32 x (by simp)) z (fun y hy => h32 y (by simp [hy])), storeLane, localByte_puts _ _ _ _ _ _ _ _ _ hsp (h32 x (by simp)) (h32 x (by simp))]
        · rw [if_pos ⟨rfl, by omega, by rw [hd]; omega, fun _ => rfl⟩]
          simp [h2]
        · intro _ y hy
          have hlt := hp.1 y hy
          by_cases hpr : sp = .priv
          · exact .inr (.inr ⟨hpr, by omega⟩)
          · rcases h y (by simp [hy]) hlt hpr with h3 | h3
            · right; left; omega
            · left; omega
    · exact ih (fun y hy => h32 y (by simp [hy])) hp.2 hx (fun y hy => h y (by simp [hy])) _

end Sys2Proof.Machine
end

