-- ==== Sys2Proof/Laws/Frames.lean ====
section
/-! SUPPORT. Laws/Frames.lean: how an instruction of each format issues, stays where it is, or faults (03 R57 to R60, R62, R63, R70; 04 R77,
R80). -/

namespace Sys2Proof.Machine

theorem windowShut_of_not_held {i : Instr} {s : State} (h : s.holds i = false) : s.grp.windowShut i = false := by
  simp only [State.holds, Bool.or_eq_false_iff] at h
  exact h.1.1.1.1.1

theorem perLane_acts (opc : Nat) (i : Instr) (g : Guard) (body : W32 → State → State) (s : State) (hn : g.isNever = false) (hh : s.holds i = false)
    (hb : s.grp.bounds i = none) : perLane opc i g body s = .next ((body (s.lanes g) s).finish (s.lanes g)) := by
  simp [perLane, hh, hb, hn]

theorem onceOp_acts (opc : Nat) (i : Instr) (body : State → State) (s : State) (hh : s.holds i = false) (hb : s.grp.bounds i = none) :
    onceOp opc i body s = .next ((body s).finish s.grp.xm) := by
  simp [onceOp, hh, hb]

/-- The three ways of an instruction that may fault in its body. -/
theorem onceTry_cases (opc : Nat) (i : Instr) (body : State → Except Trap State) (s : State) :
    (s.holds i = true ∧ onceTry opc i body s = .next (s.stay opc i)) ∨
    (s.holds i = false ∧ ∃ t, (s.grp.bounds i = some t ∨ (s.grp.bounds i = none ∧ body s = .error t)) ∧
      onceTry opc i body s = .next (s.takeFault opc t)) ∨
    (s.holds i = false ∧ s.grp.bounds i = none ∧ ∃ t, body s = .ok t ∧ onceTry opc i body s = .next (t.finish s.grp.xm)) := by
  unfold onceTry
  by_cases h : s.holds i = true
  · simp [h]
  · cases hb : s.grp.bounds i with
    | some t => simp [h]
    | none => cases he : body s <;> simp [h]

/-- The ways of a control instruction whose guard is uniform (04 R80). -/
theorem uniformOp_cases (opc : Nat) (i : Instr) (g : Guard) (body : State → State) (s : State) :
    (s.holds i = true ∧ uniformOp opc i g body s = .next (s.stay opc i)) ∨
    (s.holds i = false ∧ g.isNever = true ∧ uniformOp opc i g body s = .next (s.finish 0)) ∨
    (s.holds i = false ∧ g.isNever = false ∧ ∃ t, (s.grp.bounds i = some t ∨
        (s.grp.bounds i = none ∧ s.grp.uniform g = .diverges ∧ t = s.grp.divergence g 0)) ∧ uniformOp opc i g body s = .next (s.takeFault opc t)) ∨
    (s.holds i = false ∧ g.isNever = false ∧ s.grp.bounds i = none ∧ s.grp.uniform g = .nothing ∧
      uniformOp opc i g body s = .next (s.finish (s.grp.active g))) ∨
    (s.holds i = false ∧ g.isNever = false ∧ s.grp.bounds i = none ∧ s.grp.uniform g = .acts ∧ uniformOp opc i g body s = .next (body s)) := by
  unfold uniformOp
  by_cases h : s.holds i = true
  · simp [h]
  · by_cases hn : g.isNever = true
    · simp [h, hn]
    · cases hb : s.grp.bounds i with
      | some t => simp [h, hn]
      | none => cases hu : s.grp.uniform g <;> simp [h, hn]

theorem waitOp_acts (opc : Nat) (i : Instr) (body : State → State) (s : State) (hh : s.holds i = false) (hb : s.grp.bounds i = none) :
    waitOp opc i body s = .next (body s) := by
  simp [waitOp, hh, hb]

/-- The ways of an instruction of class M or C. -/
theorem classOp_cases (opc : Nat) (i : Instr) (kind : RoleKind) (k : ClauseClass) (body : State → State) (s : State) :
    (s.holds i = true ∧ (s.grp.windowShut i = true ∨ s.grp.roleFault kind k = false) ∧ classOp opc i kind k body s = .next (s.stay opc i)) ∨
    (s.grp.windowShut i = false ∧ s.grp.roleFault kind k = true ∧ classOp opc i kind k body s = .next (s.takeFault opc { kind := 6 })) ∨
    (s.holds i = false ∧ s.grp.roleFault kind k = false ∧ classOp opc i kind k body s = .next (body s)) := by
  unfold classOp
  by_cases hw : s.grp.windowShut i = true
  · simp [hw, State.holds]
  · by_cases hr : s.grp.roleFault kind k = true
    · simp [hw, hr]
    · by_cases hh : s.holds i = true <;> simp [hw, hr, hh]

/-- What an instruction that is held leaves: itself, or its violation counted, or the breakpoint of strict-lookahead mode (03 R60). -/
theorem State.stay_cases (s : State) (opc : Nat) (i : Instr) :
    s.stay opc i = s ∨ (s.team.strict = false ∧ s.grp.held = false ∧
      s.stay opc i = { s with core := { s.core with viol := s.core.viol + 1 }, grp := { s.grp with held := true } }) ∨
    (s.team.strict = true ∧ s.grp.held = false ∧ s.stay opc i = s.takeFault opc { kind := 19, cause := 1 }) := by
  unfold State.stay State.stayOn
  cases hn : Instr.isNever i || Instr.isControl i
  · cases hv : s.grp.pend.any (fun p => p.window && p.left != 0 && dependsOn (Instr.uses i).allReads (Instr.uses i).allWrites p)
    · simp
    · cases hh : s.grp.held <;> cases ht : s.team.strict <;> simp
  · simp

/-! ## The focus -/

theorem State.withFocus_here (c k i : Nat) (f : State → State) (s : State) (h : ((s.focus c k i).grp.live && (s.focus c k i).grp.is c k i) = true) :
    s.withFocus c k i f = if f (s.focus c k i) = s.focus c k i then s else (f (s.focus c k i)).focus s.grp.core s.grp.slot s.grp.gid := by
  simp only [State.withFocus, h, if_true]

theorem State.withFocus_gone (c k i : Nat) (f : State → State) (s : State) (h : ((s.focus c k i).grp.live && (s.focus c k i).grp.is c k i) = false) :
    s.withFocus c k i f = s := by
  simp only [State.withFocus, h, Bool.false_eq_true, if_false]

/-! ## Pending operations -/

theorem Group.updPend_find (g : Group) (seq : Nat) (f : Pend → Pend) (p : Pend) (h : g.findPend? seq = some p) (hf : ∀ p, (f p).seq = p.seq) :
    (g.updPend seq f).findPend? seq = some (f p) := by
  unfold Group.findPend? Group.updPend upd at *
  simp only []
  generalize g.pend = l at h
  induction l with
  | nil => simp at h
  | cons q l ih =>
    rw [List.map_cons, List.find?_cons]
    rw [List.find?_cons] at h
    by_cases hq : (q.seq == seq) = true
    · rw [hq] at h; simp only [Option.some.injEq] at h; subst h
      rw [if_pos hq, hf, hq]
    · rw [if_neg hq]
      have hq' : (q.seq == seq) = false := by simpa using hq
      rw [hq'] at h ⊢; exact ih h
theorem Group.dropPend_find (g : Group) (seq : Nat) : (g.dropPend seq).findPend? seq = none := by
  unfold Group.findPend? Group.dropPend
  simp only []
  rw [List.find?_eq_none]
  intro p hp
  simp only [List.mem_filter] at hp
  simpa using hp.2

/-! ## Results -/

theorem putV_vres (dbl : Bool) (d l x : Nat) (g : Group) : (vres dbl d l x).foldl (fun g x => { g with v := mapSet 0 g.v x.1 x.2 }) g = g.putV dbl d l x := by
  cases dbl
  · rfl
  · show ({ g with v := _ } : Group) = _
    simp only [Group.putV, if_true, Group.setV64, Group.setV]
    congr 2
    · congr 1
      ext i hi; simp
    · apply BitVec.eq_of_toNat_eq
      simp only [BitVec.toNat_ofNat, BitVec.toNat_setWidth, BitVec.toNat_ushiftRight, Nat.shiftRight_eq_div_pow]
      omega

theorem apply_lane (dbl : Bool) (d : VReg) (f : Group → Nat → Nat × Nat) (act : W32) (s : State) (fl : Nat) (h : Group) :
    h.apply { laneResults dbl d f act s with flags := fl } =
      { (lanesOf act).foldl (fun g l => g.putV dbl d.val l (f s.grp l).1) h with fpcr := h.fpcr ||| BitVec.ofNat 5 fl } := by
  simp only [Group.apply, laneResults, List.foldl_nil]
  rw [List.flatMap_map, List.foldl_flatMap]
  simp only [putV_vres]
  rw [putV_lanes_eq dbl d.val (fun l => (f s.grp l).1)]

theorem setV_fold (d n l : Nat) (hl : l < 32) (w : Nat → W32) (g : Group) (q k : Nat) (hk : k < 32) :
    ((List.range n).foldl (fun g j => g.setV (d + j) l (w j)) g).V q k = if k = l ∧ d ≤ q ∧ q < d + n then w (q - d) else g.V q k := by
  induction n with
  | zero => rw [if_neg (by omega)]; rfl
  | succ n ih =>
    rw [List.range_succ, List.foldl_append, List.foldl_cons, List.foldl_nil, Group.V_setV, ih]
    by_cases h1 : 32 * q + k = 32 * (d + n) + l
    · have e1 : q = d + n := by omega
      have e2 : k = l := by omega
      subst e1 e2; simp
    · rw [if_neg h1]
      have : (k = l ∧ d ≤ q ∧ q < d + n) = (k = l ∧ d ≤ q ∧ q < d + (n+1)) := by simp only [eq_iff_iff]; omega
      simp only [this]
theorem setV_lanes (d n : Nat) (w : Nat → Nat → W32) (ls : List Nat) (h : ∀ l ∈ ls, l < 32) (g : Group) (q k : Nat) (hk : k < 32) :
    (ls.foldl (fun g l => (List.range n).foldl (fun g j => g.setV (d + j) l (w l j)) g) g).V q k = if k ∈ ls ∧ d ≤ q ∧ q < d + n then w k (q - d) else g.V q k := by
  induction ls generalizing g with
  | nil => simp
  | cons l ls ih =>
    rw [List.foldl_cons, ih (fun x hx => h x (by simp [hx])), setV_fold _ _ _ (h l (by simp)) _ _ _ _ hk]
    by_cases h1 : k ∈ ls <;> by_cases h2 : k = l <;> by_cases h3 : d ≤ q ∧ q < d + n
    all_goals simp_all
theorem setV_lanes_eq (d n : Nat) (w : Nat → Nat → W32) (ls : List Nat) (g : Group) :
    ∃ m, (ls.foldl (fun g l => (List.range n).foldl (fun g j => g.setV (d + j) l (w l j)) g) g) = { g with v := m } := by
  have h1 : ∀ (n l : Nat) (g : Group), ∃ m, ((List.range n).foldl (fun g j => g.setV (d + j) l (w l j)) g) = { g with v := m } := by
    intro n l g
    induction n with
    | zero => exact ⟨g.v, rfl⟩
    | succ n ih =>
      obtain ⟨m, hm⟩ := ih
      rw [List.range_succ, List.foldl_append, List.foldl_cons, List.foldl_nil, hm]
      exact ⟨_, rfl⟩
  induction ls generalizing g with
  | nil => exact ⟨g.v, rfl⟩
  | cons l ls ih =>
    obtain ⟨m, hm⟩ := h1 n l g
    rw [List.foldl_cons, hm]
    obtain ⟨m2, hm2⟩ := ih { g with v := m }
    exact ⟨m2, hm2⟩

end Sys2Proof.Machine
end

