-- ==== Sys2Proof/Laws/Ints.lean ====
section
/-! SUPPORT. Laws/Ints.lean: shifts by any count, reduction of exact integers, bits and elements of patterns. -/

namespace Sys2Proof.Machine

theorem bitAt_eq (x i : Nat) : bitAt x i = x.testBit i := by
  rw [bitAt, Nat.testBit_eq_decide_div_mod_eq, Bool.eq_iff_iff]
  simp

theorem popcount_mod (w x : Nat) : popcount w x = (List.range w).countP fun i => (x % 2 ^ w).testBit i := by
  unfold popcount
  apply List.countP_congr
  intro i hi
  rw [bitAt_eq, Nat.testBit_mod_two_pow]
  simp [List.mem_range.1 hi]

theorem two_pow_pos (w : Nat) : (0 : Int) < 2 ^ w := Int.pow_pos (by decide)

theorem wrap_nat (w x : Nat) (h : x < 2 ^ w) : wrap w (x : Int) = x := by
  unfold wrap
  have h2 : ((2 : Int) ^ w) = ((2 ^ w : Nat) : Int) := by simp
  rw [h2, ← Int.natCast_emod, Int.toNat_natCast, Nat.mod_eq_of_lt h]

theorem wrap_lt (w : Nat) (v : Int) : wrap w v < 2 ^ w := by
  unfold wrap
  have h := Int.emod_lt_of_pos v (two_pow_pos w)
  have h2 := Int.emod_nonneg v (Int.ne_of_gt (two_pow_pos w))
  have h3 : ((2 : Int) ^ w) = ((2 ^ w : Nat) : Int) := by simp
  omega

theorem reduce_lt (sg sat : Bool) (w : Nat) (v : Int) : reduce sg sat w v < 2 ^ w := wrap_lt w _

/-- A multiple of 2^w wraps to zero. -/
theorem wrap_shl (w : Nat) (x : Int) (s : Nat) (h : w ≤ s) : wrap w (x * 2 ^ s) = 0 := by
  unfold wrap
  obtain ⟨k, rfl⟩ := Nat.exists_eq_add_of_le h
  have : (x * 2 ^ (w + k)) % (2 : Int) ^ w = 0 := by
    rw [Int.pow_add, ← Int.mul_assoc, Int.mul_right_comm, Int.mul_emod_left]
  rw [this]; rfl

theorem clampInt_of_le {lo hi v : Int} (h : v < lo) : clampInt lo hi v = lo := by simp [clampInt, h]
theorem clampInt_of_ge {lo hi v : Int} (h : lo ≤ hi) (h2 : hi < v) : clampInt lo hi v = hi := by
  have : ¬ v < lo := by omega
  simp [clampInt, this, h2]

theorem mul_two_pow_ge (x : Int) (s : Nat) (h : 0 < x) : (2 : Int) ^ s ≤ x * 2 ^ s := by
  have := Int.mul_le_mul_of_nonneg_right (show (1 : Int) ≤ x from h) (Int.le_of_lt (two_pow_pos s))
  omega

theorem mul_two_pow_le (x : Int) (s : Nat) (h : x < 0) : x * 2 ^ s ≤ -(2 ^ s) := by
  have := Int.mul_le_mul_of_nonneg_right (show x ≤ -1 by omega) (Int.le_of_lt (two_pow_pos s))
  omega

theorem two_pow_le_two_pow (a b : Nat) (h : a ≤ b) : (2 : Int) ^ a ≤ 2 ^ b := by
  have : (2 : Nat) ^ a ≤ 2 ^ b := Nat.pow_le_pow_right (by decide) h
  exact_mod_cast this

theorem intMax_lt (sg : Bool) (w : Nat) : intMax sg w < 2 ^ w := by
  have h := two_pow_le_two_pow (w - 1) w (by omega)
  cases sg <;> simp only [intMax] <;> (try simp only [if_true]) <;> omega

theorem intMin_ge (sg : Bool) (w : Nat) : -(2 ^ w : Int) ≤ intMin sg w := by
  have h := two_pow_le_two_pow (w - 1) w (by omega)
  have h2 := two_pow_pos w
  cases sg <;> simp only [intMin] <;> (try simp only [if_true]) <;> omega

theorem intMin_le_intMax (sg : Bool) (w : Nat) : intMin sg w ≤ intMax sg w := by
  have h := two_pow_pos (w - 1)
  have h2 := two_pow_pos w
  cases sg <;> simp only [intMin, intMax] <;> (try simp only [if_true]) <;> omega

/-- A shift by twice the width or more reduces like the exact product. -/
theorem reduce_shlInt (sg sat : Bool) (w : Nat) (x : Int) (s : Nat) (hw : 0 < w) :
    reduce sg sat w (shlInt w x s) = reduce sg sat w (x * 2 ^ s) := by
  unfold shlInt
  by_cases h : s ≤ 2 * w
  · rw [Nat.min_eq_left h]
  · rw [Nat.min_eq_right (by omega)]
    unfold reduce
    cases sat
    · simp only [Bool.false_eq_true, if_false]
      rw [wrap_shl w x (2 * w) (by omega), wrap_shl w x s (by omega)]
    · simp only [if_true]
      congr 1
      rcases Int.lt_trichotomy x 0 with h1 | h1 | h1
      · have a := mul_two_pow_le x (2 * w) h1
        have b := mul_two_pow_le x s h1
        have c := two_pow_le_two_pow w (2 * w) (by omega)
        have d := two_pow_le_two_pow w s (by omega)
        have e := intMin_ge sg w
        have g : (2 : Int) ^ w < 2 ^ (2 * w) := by
          have : (2 : Nat) ^ w < 2 ^ (2 * w) := Nat.pow_lt_pow_right (by decide) (by omega)
          exact_mod_cast this
        have i : (2 : Int) ^ w < 2 ^ s := by
          have : (2 : Nat) ^ w < 2 ^ s := Nat.pow_lt_pow_right (by decide) (by omega)
          exact_mod_cast this
        rw [clampInt_of_le (by omega), clampInt_of_le (by omega)]
      · subst h1; simp
      · have a := mul_two_pow_ge x (2 * w) h1
        have b := mul_two_pow_ge x s h1
        have c := two_pow_le_two_pow w (2 * w) (by omega)
        have d := two_pow_le_two_pow w s (by omega)
        have e := intMax_lt sg w
        rw [clampInt_of_ge (intMin_le_intMax sg w) (by omega), clampInt_of_ge (intMin_le_intMax sg w) (by omega)]

theorem shrNat_eq (w x s : Nat) : shrNat w x s = ((x % 2 ^ w / 2 ^ s : Nat) : Int) := by
  unfold shrNat
  by_cases h : s ≤ w
  · rw [Nat.min_eq_left h]
  · rw [Nat.min_eq_right (by omega)]
    have hlt : x % 2 ^ w < 2 ^ w := Nat.mod_lt _ (Nat.pow_pos (by decide))
    have : x % 2 ^ w < 2 ^ s := Nat.lt_trans hlt (Nat.pow_lt_pow_right (by decide) (by omega))
    rw [Nat.div_eq_of_lt hlt, Nat.div_eq_of_lt this]

theorem sext_lt (w x : Nat) : sext w x < 2 ^ w := by
  have h : x % 2 ^ w < 2 ^ w := Nat.mod_lt _ (Nat.pow_pos (by decide))
  have h3 : ((2 : Int) ^ w) = ((2 ^ w : Nat) : Int) := by simp
  unfold sext
  split <;> omega

theorem sext_ge (w x : Nat) : -(2 ^ w : Int) ≤ sext w x := by
  have h3 : ((2 : Int) ^ w) = ((2 ^ w : Nat) : Int) := by simp
  unfold sext
  split <;> omega

theorem sarInt_eq (w x s : Nat) : sarInt w x s = sext w x / (2 : Int) ^ s := by
  unfold sarInt
  by_cases h : s ≤ w
  · rw [Nat.min_eq_left h]
  · rw [Nat.min_eq_right (by omega)]
    have a := sext_lt w x
    have b := sext_ge w x
    have c := two_pow_pos w
    have d := two_pow_le_two_pow w s (by omega)
    by_cases hn : 0 ≤ sext w x
    · rw [Int.ediv_eq_zero_of_lt hn a, Int.ediv_eq_zero_of_lt hn (by omega)]
    · have e : ∀ m : Int, 0 < m → -m ≤ sext w x → sext w x / m = -1 := by
        intro m hm hle
        rw [Int.ediv_eq_iff_of_pos hm]; omega
      rw [e _ c b, e _ (by omega) (by omega)]

@[simp] theorem sext_mod (w x : Nat) : sext w (x % 2 ^ w) = sext w x := by simp [sext]

theorem extend_lt (t : SType) (x : Nat) (h : x < 2 ^ SType.w t) : SType.result t false (x : Int) = SType.extend t x := by
  unfold SType.result reduce
  simp only [Bool.false_eq_true, if_false]
  rw [wrap_nat _ _ h]

/-! ## Elements -/

theorem packElems_lt (w : Nat) (f : Nat → Nat) (n : Nat) : packElems w f n < 2 ^ (w * n) := by
  induction n with
  | zero => simp [packElems]
  | succ n ih =>
    simp only [packElems]
    have h : f n % 2 ^ w < 2 ^ w := Nat.mod_lt _ (Nat.pow_pos (by decide))
    have h2 : f n % 2 ^ w * 2 ^ (w * n) ≤ (2 ^ w - 1) * 2 ^ (w * n) := Nat.mul_le_mul_right _ (by omega)
    have h3 : 2 ^ (w * (n + 1)) = 2 ^ w * 2 ^ (w * n) := by rw [Nat.mul_succ, Nat.pow_add, Nat.mul_comm]
    have h4 : (2 ^ w - 1) * 2 ^ (w * n) = 2 ^ w * 2 ^ (w * n) - 2 ^ (w * n) := by rw [Nat.sub_mul, Nat.one_mul]
    have h5 : 2 ^ (w * n) ≤ 2 ^ w * 2 ^ (w * n) := Nat.le_mul_of_pos_left _ (Nat.pow_pos (by decide))
    omega

/-- Element e of a packed value. -/
theorem packElems_elem (w : Nat) (f : Nat → Nat) (n e : Nat) (h : e < n) : packElems w f n / 2 ^ (w * e) % 2 ^ w = f e % 2 ^ w := by
  induction n with
  | zero => omega
  | succ n ih =>
    simp only [packElems]
    by_cases he : e = n
    · subst he
      have h1 := packElems_lt w f e
      rw [Nat.add_mul_div_right _ _ (Nat.pow_pos (by decide)), Nat.div_eq_of_lt h1, Nat.zero_add, Nat.mod_mod]
    · have hlt : e < n := by omega
      obtain ⟨k, hk⟩ := Nat.exists_eq_add_of_lt hlt
      have h2 : 2 ^ (w * n) = 2 ^ w * 2 ^ (w * k) * 2 ^ (w * e) := by
        rw [hk, ← Nat.pow_add, ← Nat.pow_add]; congr 1; rw [Nat.mul_add, Nat.mul_add]; omega
      rw [h2, ← Nat.mul_assoc, Nat.add_mul_div_right _ _ (Nat.pow_pos (by decide)), Nat.mul_left_comm, Nat.add_mul_mod_self_left]
      exact ih hlt

end Sys2Proof.Machine
end

