-- ==== Sys2Proof/Laws/Memory.lean ====
section
/-! SUPPORT. Laws/Memory.lean: every operation of the machine on memory keeps its canonical form. -/

namespace Sys2Proof.Machine

theorem State.reset_memory_wf : State.reset.mem.wf = true := rfl

theorem wf_foldl {α : Type} (f : Memory → α → Memory) (hf : ∀ m a, m.wf = true → (f m a).wf = true) (l : List α) (m : Memory) (h : m.wf = true) :
    Memory.wf (l.foldl f m) = true := by
  induction l generalizing m with
  | nil => exact h
  | cons a l ih => exact ih _ (hf m a h)

theorem Memory.wf_zeroBytes (m : Memory) (base n : Nat) (h : m.wf = true) : (m.zeroBytes base n).wf = true :=
  wf_foldl _ (fun m _ h => Memory.wf_put m _ 0 h) _ m h

theorem Memory.wf_clearBytes (m : Memory) (base n : Nat) (h : m.wf = true) : (m.clearBytes base n).wf = true := by
  unfold Memory.clearBytes
  split
  · exact Memory.wf_filter _ m h
  · exact Memory.wf_zeroBytes m base n h

theorem Memory.wf_clearPage (m : Memory) (base : Nat) (h : m.wf = true) : (m.clearPage base).wf = true := Memory.wf_clearBytes m base 8192 h

theorem wf_clearPriv (priv : Nat) (gs : List Group) (m : Memory) (h : m.wf = true) : (clearPriv priv gs m).wf = true := by
  unfold clearPriv
  split
  · exact h
  · exact wf_foldl _ (fun m _ h => Memory.wf_clearBytes m _ _ h) _ m h

theorem wf_links (va : Nat) (ls : List Nat) (x : Nat × Nat × Memory) (h : x.2.2.wf = true) : (ls.foldl (linkTable va) x).2.2.wf = true := by
  induction ls generalizing x with
  | nil => exact h
  | cons l ls ih => exact ih _ (Memory.wf_putWord _ _ _ _ (Memory.wf_clearPage _ _ h))

theorem wf_buildWalk (dev va leafFrame n table next : Nat) (m : Memory) (h : m.wf = true) : (buildWalk dev va leafFrame n table next m).wf = true :=
  Memory.wf_putWord _ _ _ _ (wf_links va _ (table, next, m) h)

theorem Memory.wf_copyBytes (m : Memory) (src dst n : Nat) (h : m.wf = true) : (m.copyBytes src dst n).wf = true :=
  wf_foldl _ (fun m c h => Memory.wf_put m _ c.2 h) _ _ (Memory.wf_filter _ m h)

theorem wf_addCells (dbl : Bool) (cells : List Host.Cell) (m : Memory) (h : m.wf = true) : (addCells dbl cells m).wf = true :=
  wf_foldl _ (fun m _ h => Memory.wf_putWord m _ _ _ h) _ m h

theorem Memory.wf_clearFirmware (m : Memory) (qcb : Nat) (h : m.wf = true) : (m.clearFirmware qcb).wf = true :=
  wf_foldl _ (fun m _ h => Memory.wf_putWord m _ 8 0 h) _ m h

/-! ## Cleared pages read as zero, and everything else as before: the fast form and the plain one agree. -/

theorem mapGet_filter {β : Type} (d : β) (p : Nat → Bool) (m : Map β) (k : Nat) :
    mapGet d (m.filter fun e => p e.1) k = if p k then mapGet d m k else d := by
  induction m with
  | nil => simp [mapGet]
  | cons e m ih =>
    obtain ⟨j, b⟩ := e
    by_cases hp : p j = true
    · rw [List.filter_cons_of_pos (by simpa using hp)]
      by_cases hj : j = k
      · subst hj; simp [mapGet, hp]
      · simp only [mapGet, hj, if_false, ih]
    · rw [List.filter_cons_of_neg (by simpa using hp), ih]
      by_cases hj : j = k
      · subst hj; simp [hp]
      · simp only [mapGet, hj, if_false]

theorem byte_putZeros (base n : Nat) (m : Memory) (a : Nat) :
    Memory.byte ((List.range n).foldl (fun m i => m.put (base + i) 0) m) a = if base ≤ a ∧ a < base + n then 0 else m.byte a := by
  induction n with
  | zero => rw [if_neg (by omega)]; rfl
  | succ n ih =>
    rw [List.range_succ, List.foldl_append, List.foldl_cons, List.foldl_nil, Memory.byte_put, ih]
    by_cases h : a = base + n
    · rw [if_pos h, if_pos (by omega)]
    · rw [if_neg h]
      by_cases h2 : base ≤ a ∧ a < base + n
      · rw [if_pos h2, if_pos (by omega)]
      · rw [if_neg h2, if_neg (by omega)]

theorem Memory.byte_zeroBytes (m : Memory) (base n a : Nat) : (m.zeroBytes base n).byte a = if base ≤ a ∧ a < base + n then 0 else m.byte a :=
  byte_putZeros base n m a

theorem Memory.byte_clearBytes (m : Memory) (base n a : Nat) : (m.clearBytes base n).byte a = if base ≤ a ∧ a < base + n then 0 else m.byte a := by
  unfold Memory.clearBytes
  split
  · rename_i h0
    have e := mapGet_filter Config.blankByte (fun k => decide (k < base ∨ base + n ≤ k)) m a
    refine Eq.trans e ?_
    by_cases h : base ≤ a ∧ a < base + n
    · rw [if_pos h, if_neg (by simp only [decide_eq_true_eq]; omega), h0]
    · rw [if_neg h, if_pos (by simp only [decide_eq_true_eq]; omega)]; rfl
  · exact Memory.byte_zeroBytes m base n a

theorem Memory.byte_clearPage (m : Memory) (base a : Nat) : (m.clearPage base).byte a = if base ≤ a ∧ a < base + 8192 then 0 else m.byte a :=
  Memory.byte_clearBytes m base 8192 a

/-! ## Operations of the state -/

/-- What a write of cells leaves in memory: poisoned lines keep what they had (12 R222). -/
@[simp] theorem State.mem_writeMem (cells : List Host.Cell) (s : State) :
    (s.writeMem cells).mem = s.mem.puts (cells.filter fun c => !s.poisoned.contains (c.1 / 128)) := rfl

theorem State.wf_writeMem (cells : List Host.Cell) (s : State) (h : s.mem.wf = true) : (s.writeMem cells).mem.wf = true := Memory.wf_puts _ _ h

theorem State.wf_putLocal (sp : Space) (l off : Nat) (b : Byte) (s : State) (h : s.mem.wf = true) : (s.putLocal sp l off b).mem.wf = true := by
  cases sp <;> first | exact h | exact Memory.wf_put _ _ _ h

/-- A store to a buffer, or to the group's lane-private region in memory. -/
theorem State.wf_putLocals (w : Option Release) (sp : Space) (l off : Nat) (bs : List Byte) (s : State) (h : s.mem.wf = true) :
    (s.putLocals w sp l off bs).mem.wf = true := by
  unfold State.putLocals
  suffices H : ∀ (z : List (Byte × Nat)) (s : State), s.mem.wf = true →
      (z.foldl (fun s x => s.putLocal sp l (off + x.2) x.1) s).mem.wf = true from H _ s h
  intro z
  induction z with
  | nil => exact fun _ h => h
  | cons x z ih => exact fun s h => ih _ (State.wf_putLocal _ _ _ _ _ h)

theorem State.wf_newTable (table : Nat) (s : State) (h : s.mem.wf = true) : (s.newTable table).mem.wf = true := by
  unfold State.newTable
  simp only []
  generalize List.range 32 = ls
  exact wf_foldl (fun m i => m.puts (tableCells table i (Machine.imageBytes (standardRoutine i).1 ((standardRoutine i).2.map encode))))
    (fun m _ h => Memory.wf_puts _ m h) ls _ (Memory.wf_filter _ _ h)

theorem State.wf_setAD (ctx va : Nat) (l : Leaf) (w : Bool) (s : State) (h : s.mem.wf = true) : (s.setAD ctx va l w).mem.wf = true := by
  unfold State.setAD
  simp only []
  split <;> split <;> first | exact h | exact Memory.wf_put _ _ _ h

theorem State.wf_tlbKeep (cluster ctx va : Nat) (l : Leaf) (s : State) (h : s.mem.wf = true) : (s.tlbKeep cluster ctx va l).mem.wf = true := by
  unfold State.tlbKeep
  split <;> exact h

theorem State.wf_used (w : Bool) (as : List LaneAcc) (s : State) (h : s.mem.wf = true) : (s.used w as).mem.wf = true := by
  unfold State.used
  induction as generalizing s with
  | nil => exact h
  | cons a as ih =>
    rw [List.foldl_cons]
    apply ih
    split
    · exact h
    · exact State.wf_setAD _ _ _ _ _ (State.wf_tlbKeep _ _ _ _ s h)

theorem State.wf_backPage (ctx va : Nat) (s t : State) (h : s.mem.wf = true) (ht : s.backPage ctx va = some t) : t.mem.wf = true := by
  unfold State.backPage at ht
  split at ht
  · cases ht
  · simp only [] at ht
    split at ht
    · cases ht
    · split at ht
      · cases ht
      · split at ht
        · cases ht
        · cases ht
          exact wf_buildWalk _ _ _ _ _ _ _ (Memory.wf_clearPage _ _ h)

/-- The state in which the front end and firmware walk: a page of the demand range is backed first. -/
theorem State.wf_backed (ctx va : Nat) (s : State) (h : s.mem.wf = true) : (s.backed ctx va).mem.wf = true := by
  unfold State.backed
  split
  · cases hp : s.backPage ctx va with
    | none => exact h
    | some u => exact State.wf_backPage ctx va s u h hp
  · exact h

@[simp] theorem State.request_mem (q : Req) (s : State) : (s.request q).mem = s.mem := by
  obtain ⟨a, b, c, d, h⟩ := State.request_changes q s
  rw [h]

@[simp] theorem State.requests_mem (r g : Nat) (code : Option Nat) (dirty : Bool) (as : List LaneAcc) (s : State) :
    (s.requests r g code dirty as).mem = s.mem := by
  obtain ⟨a, b, c, d, h⟩ := State.requests_changes r g code dirty as s
  rw [h]

/-! ## Accesses of firmware, the Skiver and the front end -/

theorem State.askHome_changes (ctx : Nat) (dirty : Bool) (as : List LaneAcc) (s : State) :
    ∃ a b c d, s.askHome ctx dirty as = { s with access := a, teamNow := b, rlines := c, fills := d } :=
  requestFold_changes _ (fun _ _ => ⟨_, rfl⟩) (onePerLine as) s

@[simp] theorem State.askHome_mem (ctx : Nat) (dirty : Bool) (as : List LaneAcc) (s : State) : (s.askHome ctx dirty as).mem = s.mem := by
  obtain ⟨a, b, c, d, h⟩ := State.askHome_changes ctx dirty as s
  rw [h]

/-- What reaching a byte did, where it is done: the page had a leaf, or was backed first; the leaf grants the access, no stitch holds the
line, and a read finds no poison. -/
theorem State.reach_ok (ctx va : Nat) (n : Need) (s t : State) (a : LaneAcc) (ht : s.reach ctx va n = .ok a t) :
    ∃ l, (s.backed ctx va).walk ctx va = .leaf l ∧ l.grants n = true ∧ s.served (l.base + va % 8192) = true ∧
      (n = .w ∨ s.bad (l.base + va % 8192) = false) ∧ a = { lane := 0, va := va, key := l.base + va % 8192, leaf := l } ∧
      t = (s.backed ctx va).setAD ctx va l n.writes := by
  unfold State.reach at ht
  split at ht
  · cases ht
  · cases hl : (s.backed ctx va).walk ctx va with
    | leaf l =>
      rw [hl] at ht
      simp only [] at ht
      split at ht
      · split at ht <;> cases ht
      · rename_i hg
        split at ht
        · cases ht
        · rename_i hs
          split at ht
          · cases ht
          · rename_i hb
            cases ht
            refine ⟨l, rfl, by simpa using hg, by simpa using hs, ?_, rfl, rfl⟩
            cases n <;> simp_all
    | notMapped => rw [hl] at ht; cases ht
    | format => rw [hl] at ht; cases ht

theorem State.wf_reach (ctx va : Nat) (n : Need) (s t : State) (a : LaneAcc) (h : s.mem.wf = true) (ht : s.reach ctx va n = .ok a t) :
    t.mem.wf = true := by
  obtain ⟨l, -, -, -, -, -, rfl⟩ := State.reach_ok ctx va n s t a ht
  exact State.wf_setAD _ _ _ _ _ (State.wf_backed ctx va s h)

/-- What a bound access did, where it is done: both parts. -/
theorem Reach.bind_ok {α β : Type} {r : Reach α} {k : α → State → Reach β} {b : β} {t : State} (h : r.bind k = .ok b t) :
    ∃ a u, r = .ok a u ∧ k a u = .ok b t := by
  cases r with
  | ok a u => exact ⟨a, u, rfl, h⟩
  | waits => cases h
  | fails => cases h

theorem State.wf_reachAll (ctx : Nat) (n : Need) (vas : List Nat) (s t : State) (as : List LaneAcc) (h : s.mem.wf = true)
    (ht : s.reachAll ctx n vas = .ok as t) : t.mem.wf = true := by
  induction vas generalizing s as with
  | nil => cases ht; exact h
  | cons va vas ih =>
    obtain ⟨a, u, h1, h2⟩ := Reach.bind_ok ht
    obtain ⟨bs, v, h3, h4⟩ := Reach.bind_ok h2
    cases h4
    exact ih u bs (State.wf_reach ctx va n s u a h h1) h3

theorem State.wf_readCtx (ctx va n : Nat) (s t : State) (bs : List Byte) (h : s.mem.wf = true) (ht : s.readCtx ctx va n = .ok bs t) :
    t.mem.wf = true := by
  obtain ⟨as, u, h1, h2⟩ := Reach.bind_ok ht
  cases h2
  rw [State.askHome_mem]
  exact State.wf_reachAll ctx .r _ s u as h h1

theorem State.wf_writeCtx (ctx va : Nat) (bs : List Byte) (s t : State) (x : Unit) (h : s.mem.wf = true)
    (ht : s.writeCtx ctx va bs = .ok x t) : t.mem.wf = true := by
  obtain ⟨as, u, h1, h2⟩ := Reach.bind_ok ht
  cases h2
  exact State.wf_writeMem _ _ ((State.askHome_mem ctx true as u).symm ▸ State.wf_reachAll ctx .w _ s u as h h1)

theorem State.wf_qcbPut (pa x : Nat) (s : State) (h : s.mem.wf = true) : (s.qcbPut pa x).mem.wf = true := by
  exact State.wf_writeMem _ _ ((State.request_mem _ s).symm ▸ h)

end Sys2Proof.Machine
end

