-- ==== Sys2Proof/Laws/State.lean ====
section
/-! SUPPORT. Laws/State.lean: what each update of the state leaves in each field; all by definition. -/

namespace Sys2Proof.Machine

/-! ## onGrp -/

@[simp] theorem State.onGrp_grp (s : State) (f : Group → Group) : (s.onGrp f).grp = f s.grp := rfl
@[simp] theorem State.onGrp_team (s : State) (f : Group → Group) : (s.onGrp f).team = s.team := rfl
@[simp] theorem State.onGrp_core (s : State) (f : Group → Group) : (s.onGrp f).core = s.core := rfl
@[simp] theorem State.onGrp_groups (s : State) (f : Group → Group) : (s.onGrp f).groups = s.groups := rfl
@[simp] theorem State.onGrp_teams (s : State) (f : Group → Group) : (s.onGrp f).teams = s.teams := rfl
@[simp] theorem State.onGrp_cores (s : State) (f : Group → Group) : (s.onGrp f).cores = s.cores := rfl
@[simp] theorem State.onGrp_cells (s : State) (f : Group → Group) : (s.onGrp f).cells = s.cells := rfl
@[simp] theorem State.onGrp_mem (s : State) (f : Group → Group) : (s.onGrp f).mem = s.mem := rfl
@[simp] theorem State.onGrp_tlb (s : State) (f : Group → Group) : (s.onGrp f).tlb = s.tlb := rfl
@[simp] theorem State.onGrp_rlines (s : State) (f : Group → Group) : (s.onGrp f).rlines = s.rlines := rfl
@[simp] theorem State.onGrp_fills (s : State) (f : Group → Group) : (s.onGrp f).fills = s.fills := rfl
@[simp] theorem State.onGrp_teamNow (s : State) (f : Group → Group) : (s.onGrp f).teamNow = s.teamNow := rfl
@[simp] theorem State.onGrp_cinch (s : State) (f : Group → Group) : (s.onGrp f).cinch = s.cinch := rfl
@[simp] theorem State.onGrp_rels (s : State) (f : Group → Group) : (s.onGrp f).rels = s.rels := rfl
@[simp] theorem State.onGrp_poisoned (s : State) (f : Group → Group) : (s.onGrp f).poisoned = s.poisoned := rfl
@[simp] theorem State.onGrp_lineErrors (s : State) (f : Group → Group) : (s.onGrp f).lineErrors = s.lineErrors := rfl
@[simp] theorem State.onGrp_routineErrors (s : State) (f : Group → Group) : (s.onGrp f).routineErrors = s.routineErrors := rfl
@[simp] theorem State.onGrp_routines (s : State) (f : Group → Group) : (s.onGrp f).routines = s.routines := rfl
@[simp] theorem State.onGrp_access (s : State) (f : Group → Group) : (s.onGrp f).access = s.access := rfl
@[simp] theorem State.onGrp_migs (s : State) (f : Group → Group) : (s.onGrp f).migs = s.migs := rfl
@[simp] theorem State.onGrp_run (s : State) (f : Group → Group) : (s.onGrp f).run = s.run := rfl
@[simp] theorem State.onGrp_ctxs (s : State) (f : Group → Group) : (s.onGrp f).ctxs = s.ctxs := rfl
@[simp] theorem State.onGrp_launches (s : State) (f : Group → Group) : (s.onGrp f).launches = s.launches := rfl
@[simp] theorem State.onGrp_children (s : State) (f : Group → Group) : (s.onGrp f).children = s.children := rfl
@[simp] theorem State.onGrp_nextLaunch (s : State) (f : Group → Group) : (s.onGrp f).nextLaunch = s.nextLaunch := rfl
@[simp] theorem State.onGrp_nextAccept (s : State) (f : Group → Group) : (s.onGrp f).nextAccept = s.nextAccept := rfl
@[simp] theorem State.onGrp_queues (s : State) (f : Group → Group) : (s.onGrp f).queues = s.queues := rfl
@[simp] theorem State.onGrp_slots (s : State) (f : Group → Group) : (s.onGrp f).slots = s.slots := rfl
@[simp] theorem State.onGrp_orphans (s : State) (f : Group → Group) : (s.onGrp f).orphans = s.orphans := rfl
@[simp] theorem State.onGrp_images (s : State) (f : Group → Group) : (s.onGrp f).images = s.images := rfl
@[simp] theorem State.onGrp_nextImage (s : State) (f : Group → Group) : (s.onGrp f).nextImage = s.nextImage := rfl
@[simp] theorem State.onGrp_dev (s : State) (f : Group → Group) : (s.onGrp f).dev = s.dev := rfl
@[simp] theorem State.onGrp_agenda (s : State) (f : Group → Group) : (s.onGrp f).agenda = s.agenda := rfl
@[simp] theorem State.onGrp_nextDue (s : State) (f : Group → Group) : (s.onGrp f).nextDue = s.nextDue := rfl
@[simp] theorem State.onGrp_free (s : State) (f : Group → Group) : (s.onGrp f).free = s.free := rfl

/-! ## onTeam -/

@[simp] theorem State.onTeam_grp (s : State) (f : Team → Team) : (s.onTeam f).grp = s.grp := rfl
@[simp] theorem State.onTeam_team (s : State) (f : Team → Team) : (s.onTeam f).team = f s.team := rfl
@[simp] theorem State.onTeam_core (s : State) (f : Team → Team) : (s.onTeam f).core = s.core := rfl
@[simp] theorem State.onTeam_groups (s : State) (f : Team → Team) : (s.onTeam f).groups = s.groups := rfl
@[simp] theorem State.onTeam_teams (s : State) (f : Team → Team) : (s.onTeam f).teams = s.teams := rfl
@[simp] theorem State.onTeam_cores (s : State) (f : Team → Team) : (s.onTeam f).cores = s.cores := rfl
@[simp] theorem State.onTeam_cells (s : State) (f : Team → Team) : (s.onTeam f).cells = s.cells := rfl
@[simp] theorem State.onTeam_mem (s : State) (f : Team → Team) : (s.onTeam f).mem = s.mem := rfl
@[simp] theorem State.onTeam_tlb (s : State) (f : Team → Team) : (s.onTeam f).tlb = s.tlb := rfl
@[simp] theorem State.onTeam_rlines (s : State) (f : Team → Team) : (s.onTeam f).rlines = s.rlines := rfl
@[simp] theorem State.onTeam_fills (s : State) (f : Team → Team) : (s.onTeam f).fills = s.fills := rfl
@[simp] theorem State.onTeam_teamNow (s : State) (f : Team → Team) : (s.onTeam f).teamNow = s.teamNow := rfl
@[simp] theorem State.onTeam_cinch (s : State) (f : Team → Team) : (s.onTeam f).cinch = s.cinch := rfl
@[simp] theorem State.onTeam_rels (s : State) (f : Team → Team) : (s.onTeam f).rels = s.rels := rfl
@[simp] theorem State.onTeam_poisoned (s : State) (f : Team → Team) : (s.onTeam f).poisoned = s.poisoned := rfl
@[simp] theorem State.onTeam_lineErrors (s : State) (f : Team → Team) : (s.onTeam f).lineErrors = s.lineErrors := rfl
@[simp] theorem State.onTeam_routineErrors (s : State) (f : Team → Team) : (s.onTeam f).routineErrors = s.routineErrors := rfl
@[simp] theorem State.onTeam_routines (s : State) (f : Team → Team) : (s.onTeam f).routines = s.routines := rfl
@[simp] theorem State.onTeam_access (s : State) (f : Team → Team) : (s.onTeam f).access = s.access := rfl
@[simp] theorem State.onTeam_migs (s : State) (f : Team → Team) : (s.onTeam f).migs = s.migs := rfl
@[simp] theorem State.onTeam_run (s : State) (f : Team → Team) : (s.onTeam f).run = s.run := rfl
@[simp] theorem State.onTeam_ctxs (s : State) (f : Team → Team) : (s.onTeam f).ctxs = s.ctxs := rfl
@[simp] theorem State.onTeam_launches (s : State) (f : Team → Team) : (s.onTeam f).launches = s.launches := rfl
@[simp] theorem State.onTeam_children (s : State) (f : Team → Team) : (s.onTeam f).children = s.children := rfl
@[simp] theorem State.onTeam_nextLaunch (s : State) (f : Team → Team) : (s.onTeam f).nextLaunch = s.nextLaunch := rfl
@[simp] theorem State.onTeam_nextAccept (s : State) (f : Team → Team) : (s.onTeam f).nextAccept = s.nextAccept := rfl
@[simp] theorem State.onTeam_queues (s : State) (f : Team → Team) : (s.onTeam f).queues = s.queues := rfl
@[simp] theorem State.onTeam_slots (s : State) (f : Team → Team) : (s.onTeam f).slots = s.slots := rfl
@[simp] theorem State.onTeam_orphans (s : State) (f : Team → Team) : (s.onTeam f).orphans = s.orphans := rfl
@[simp] theorem State.onTeam_images (s : State) (f : Team → Team) : (s.onTeam f).images = s.images := rfl
@[simp] theorem State.onTeam_nextImage (s : State) (f : Team → Team) : (s.onTeam f).nextImage = s.nextImage := rfl
@[simp] theorem State.onTeam_dev (s : State) (f : Team → Team) : (s.onTeam f).dev = s.dev := rfl
@[simp] theorem State.onTeam_agenda (s : State) (f : Team → Team) : (s.onTeam f).agenda = s.agenda := rfl
@[simp] theorem State.onTeam_nextDue (s : State) (f : Team → Team) : (s.onTeam f).nextDue = s.nextDue := rfl
@[simp] theorem State.onTeam_free (s : State) (f : Team → Team) : (s.onTeam f).free = s.free := rfl

/-! ## onCore -/

@[simp] theorem State.onCore_grp (s : State) (f : Core → Core) : (s.onCore f).grp = s.grp := rfl
@[simp] theorem State.onCore_team (s : State) (f : Core → Core) : (s.onCore f).team = s.team := rfl
@[simp] theorem State.onCore_core (s : State) (f : Core → Core) : (s.onCore f).core = f s.core := rfl
@[simp] theorem State.onCore_groups (s : State) (f : Core → Core) : (s.onCore f).groups = s.groups := rfl
@[simp] theorem State.onCore_teams (s : State) (f : Core → Core) : (s.onCore f).teams = s.teams := rfl
@[simp] theorem State.onCore_cores (s : State) (f : Core → Core) : (s.onCore f).cores = s.cores := rfl
@[simp] theorem State.onCore_cells (s : State) (f : Core → Core) : (s.onCore f).cells = s.cells := rfl
@[simp] theorem State.onCore_mem (s : State) (f : Core → Core) : (s.onCore f).mem = s.mem := rfl
@[simp] theorem State.onCore_tlb (s : State) (f : Core → Core) : (s.onCore f).tlb = s.tlb := rfl
@[simp] theorem State.onCore_rlines (s : State) (f : Core → Core) : (s.onCore f).rlines = s.rlines := rfl
@[simp] theorem State.onCore_fills (s : State) (f : Core → Core) : (s.onCore f).fills = s.fills := rfl
@[simp] theorem State.onCore_teamNow (s : State) (f : Core → Core) : (s.onCore f).teamNow = s.teamNow := rfl
@[simp] theorem State.onCore_cinch (s : State) (f : Core → Core) : (s.onCore f).cinch = s.cinch := rfl
@[simp] theorem State.onCore_rels (s : State) (f : Core → Core) : (s.onCore f).rels = s.rels := rfl
@[simp] theorem State.onCore_poisoned (s : State) (f : Core → Core) : (s.onCore f).poisoned = s.poisoned := rfl
@[simp] theorem State.onCore_lineErrors (s : State) (f : Core → Core) : (s.onCore f).lineErrors = s.lineErrors := rfl
@[simp] theorem State.onCore_routineErrors (s : State) (f : Core → Core) : (s.onCore f).routineErrors = s.routineErrors := rfl
@[simp] theorem State.onCore_routines (s : State) (f : Core → Core) : (s.onCore f).routines = s.routines := rfl
@[simp] theorem State.onCore_access (s : State) (f : Core → Core) : (s.onCore f).access = s.access := rfl
@[simp] theorem State.onCore_migs (s : State) (f : Core → Core) : (s.onCore f).migs = s.migs := rfl
@[simp] theorem State.onCore_run (s : State) (f : Core → Core) : (s.onCore f).run = s.run := rfl
@[simp] theorem State.onCore_ctxs (s : State) (f : Core → Core) : (s.onCore f).ctxs = s.ctxs := rfl
@[simp] theorem State.onCore_launches (s : State) (f : Core → Core) : (s.onCore f).launches = s.launches := rfl
@[simp] theorem State.onCore_children (s : State) (f : Core → Core) : (s.onCore f).children = s.children := rfl
@[simp] theorem State.onCore_nextLaunch (s : State) (f : Core → Core) : (s.onCore f).nextLaunch = s.nextLaunch := rfl
@[simp] theorem State.onCore_nextAccept (s : State) (f : Core → Core) : (s.onCore f).nextAccept = s.nextAccept := rfl
@[simp] theorem State.onCore_queues (s : State) (f : Core → Core) : (s.onCore f).queues = s.queues := rfl
@[simp] theorem State.onCore_slots (s : State) (f : Core → Core) : (s.onCore f).slots = s.slots := rfl
@[simp] theorem State.onCore_orphans (s : State) (f : Core → Core) : (s.onCore f).orphans = s.orphans := rfl
@[simp] theorem State.onCore_images (s : State) (f : Core → Core) : (s.onCore f).images = s.images := rfl
@[simp] theorem State.onCore_nextImage (s : State) (f : Core → Core) : (s.onCore f).nextImage = s.nextImage := rfl
@[simp] theorem State.onCore_dev (s : State) (f : Core → Core) : (s.onCore f).dev = s.dev := rfl
@[simp] theorem State.onCore_agenda (s : State) (f : Core → Core) : (s.onCore f).agenda = s.agenda := rfl
@[simp] theorem State.onCore_nextDue (s : State) (f : Core → Core) : (s.onCore f).nextDue = s.nextDue := rfl
@[simp] theorem State.onCore_free (s : State) (f : Core → Core) : (s.onCore f).free = s.free := rfl

/-! ## mapGroups -/

@[simp] theorem State.mapGroups_grp (s : State) (f : Group → Group) : (s.mapGroups f).grp = f s.grp := rfl
@[simp] theorem State.mapGroups_team (s : State) (f : Group → Group) : (s.mapGroups f).team = s.team := rfl
@[simp] theorem State.mapGroups_core (s : State) (f : Group → Group) : (s.mapGroups f).core = s.core := rfl
@[simp] theorem State.mapGroups_groups (s : State) (f : Group → Group) : (s.mapGroups f).groups = s.groups.map f := rfl
@[simp] theorem State.mapGroups_teams (s : State) (f : Group → Group) : (s.mapGroups f).teams = s.teams := rfl
@[simp] theorem State.mapGroups_cores (s : State) (f : Group → Group) : (s.mapGroups f).cores = s.cores := rfl
@[simp] theorem State.mapGroups_cells (s : State) (f : Group → Group) : (s.mapGroups f).cells = s.cells := rfl
@[simp] theorem State.mapGroups_mem (s : State) (f : Group → Group) : (s.mapGroups f).mem = s.mem := rfl
@[simp] theorem State.mapGroups_tlb (s : State) (f : Group → Group) : (s.mapGroups f).tlb = s.tlb := rfl
@[simp] theorem State.mapGroups_rlines (s : State) (f : Group → Group) : (s.mapGroups f).rlines = s.rlines := rfl
@[simp] theorem State.mapGroups_fills (s : State) (f : Group → Group) : (s.mapGroups f).fills = s.fills := rfl
@[simp] theorem State.mapGroups_teamNow (s : State) (f : Group → Group) : (s.mapGroups f).teamNow = s.teamNow := rfl
@[simp] theorem State.mapGroups_cinch (s : State) (f : Group → Group) : (s.mapGroups f).cinch = s.cinch := rfl
@[simp] theorem State.mapGroups_rels (s : State) (f : Group → Group) : (s.mapGroups f).rels = s.rels := rfl
@[simp] theorem State.mapGroups_poisoned (s : State) (f : Group → Group) : (s.mapGroups f).poisoned = s.poisoned := rfl
@[simp] theorem State.mapGroups_lineErrors (s : State) (f : Group → Group) : (s.mapGroups f).lineErrors = s.lineErrors := rfl
@[simp] theorem State.mapGroups_routineErrors (s : State) (f : Group → Group) : (s.mapGroups f).routineErrors = s.routineErrors := rfl
@[simp] theorem State.mapGroups_routines (s : State) (f : Group → Group) : (s.mapGroups f).routines = s.routines := rfl
@[simp] theorem State.mapGroups_access (s : State) (f : Group → Group) : (s.mapGroups f).access = s.access := rfl
@[simp] theorem State.mapGroups_migs (s : State) (f : Group → Group) : (s.mapGroups f).migs = s.migs := rfl
@[simp] theorem State.mapGroups_run (s : State) (f : Group → Group) : (s.mapGroups f).run = s.run := rfl
@[simp] theorem State.mapGroups_ctxs (s : State) (f : Group → Group) : (s.mapGroups f).ctxs = s.ctxs := rfl
@[simp] theorem State.mapGroups_launches (s : State) (f : Group → Group) : (s.mapGroups f).launches = s.launches := rfl
@[simp] theorem State.mapGroups_children (s : State) (f : Group → Group) : (s.mapGroups f).children = s.children := rfl
@[simp] theorem State.mapGroups_nextLaunch (s : State) (f : Group → Group) : (s.mapGroups f).nextLaunch = s.nextLaunch := rfl
@[simp] theorem State.mapGroups_nextAccept (s : State) (f : Group → Group) : (s.mapGroups f).nextAccept = s.nextAccept := rfl
@[simp] theorem State.mapGroups_queues (s : State) (f : Group → Group) : (s.mapGroups f).queues = s.queues := rfl
@[simp] theorem State.mapGroups_slots (s : State) (f : Group → Group) : (s.mapGroups f).slots = s.slots := rfl
@[simp] theorem State.mapGroups_orphans (s : State) (f : Group → Group) : (s.mapGroups f).orphans = s.orphans := rfl
@[simp] theorem State.mapGroups_images (s : State) (f : Group → Group) : (s.mapGroups f).images = s.images := rfl
@[simp] theorem State.mapGroups_nextImage (s : State) (f : Group → Group) : (s.mapGroups f).nextImage = s.nextImage := rfl
@[simp] theorem State.mapGroups_dev (s : State) (f : Group → Group) : (s.mapGroups f).dev = s.dev := rfl
@[simp] theorem State.mapGroups_agenda (s : State) (f : Group → Group) : (s.mapGroups f).agenda = s.agenda := rfl
@[simp] theorem State.mapGroups_nextDue (s : State) (f : Group → Group) : (s.mapGroups f).nextDue = s.nextDue := rfl
@[simp] theorem State.mapGroups_free (s : State) (f : Group → Group) : (s.mapGroups f).free = s.free := rfl

/-! ## mapTeams -/

@[simp] theorem State.mapTeams_grp (s : State) (f : Team → Team) : (s.mapTeams f).grp = s.grp := rfl
@[simp] theorem State.mapTeams_team (s : State) (f : Team → Team) : (s.mapTeams f).team = f s.team := rfl
@[simp] theorem State.mapTeams_core (s : State) (f : Team → Team) : (s.mapTeams f).core = s.core := rfl
@[simp] theorem State.mapTeams_groups (s : State) (f : Team → Team) : (s.mapTeams f).groups = s.groups := rfl
@[simp] theorem State.mapTeams_teams (s : State) (f : Team → Team) : (s.mapTeams f).teams = s.teams.map f := rfl
@[simp] theorem State.mapTeams_cores (s : State) (f : Team → Team) : (s.mapTeams f).cores = s.cores := rfl
@[simp] theorem State.mapTeams_cells (s : State) (f : Team → Team) : (s.mapTeams f).cells = s.cells := rfl
@[simp] theorem State.mapTeams_mem (s : State) (f : Team → Team) : (s.mapTeams f).mem = s.mem := rfl
@[simp] theorem State.mapTeams_tlb (s : State) (f : Team → Team) : (s.mapTeams f).tlb = s.tlb := rfl
@[simp] theorem State.mapTeams_rlines (s : State) (f : Team → Team) : (s.mapTeams f).rlines = s.rlines := rfl
@[simp] theorem State.mapTeams_fills (s : State) (f : Team → Team) : (s.mapTeams f).fills = s.fills := rfl
@[simp] theorem State.mapTeams_teamNow (s : State) (f : Team → Team) : (s.mapTeams f).teamNow = s.teamNow := rfl
@[simp] theorem State.mapTeams_cinch (s : State) (f : Team → Team) : (s.mapTeams f).cinch = s.cinch := rfl
@[simp] theorem State.mapTeams_rels (s : State) (f : Team → Team) : (s.mapTeams f).rels = s.rels := rfl
@[simp] theorem State.mapTeams_poisoned (s : State) (f : Team → Team) : (s.mapTeams f).poisoned = s.poisoned := rfl
@[simp] theorem State.mapTeams_lineErrors (s : State) (f : Team → Team) : (s.mapTeams f).lineErrors = s.lineErrors := rfl
@[simp] theorem State.mapTeams_routineErrors (s : State) (f : Team → Team) : (s.mapTeams f).routineErrors = s.routineErrors := rfl
@[simp] theorem State.mapTeams_routines (s : State) (f : Team → Team) : (s.mapTeams f).routines = s.routines := rfl
@[simp] theorem State.mapTeams_access (s : State) (f : Team → Team) : (s.mapTeams f).access = s.access := rfl
@[simp] theorem State.mapTeams_migs (s : State) (f : Team → Team) : (s.mapTeams f).migs = s.migs := rfl
@[simp] theorem State.mapTeams_run (s : State) (f : Team → Team) : (s.mapTeams f).run = s.run := rfl
@[simp] theorem State.mapTeams_ctxs (s : State) (f : Team → Team) : (s.mapTeams f).ctxs = s.ctxs := rfl
@[simp] theorem State.mapTeams_launches (s : State) (f : Team → Team) : (s.mapTeams f).launches = s.launches := rfl
@[simp] theorem State.mapTeams_children (s : State) (f : Team → Team) : (s.mapTeams f).children = s.children := rfl
@[simp] theorem State.mapTeams_nextLaunch (s : State) (f : Team → Team) : (s.mapTeams f).nextLaunch = s.nextLaunch := rfl
@[simp] theorem State.mapTeams_nextAccept (s : State) (f : Team → Team) : (s.mapTeams f).nextAccept = s.nextAccept := rfl
@[simp] theorem State.mapTeams_queues (s : State) (f : Team → Team) : (s.mapTeams f).queues = s.queues := rfl
@[simp] theorem State.mapTeams_slots (s : State) (f : Team → Team) : (s.mapTeams f).slots = s.slots := rfl
@[simp] theorem State.mapTeams_orphans (s : State) (f : Team → Team) : (s.mapTeams f).orphans = s.orphans := rfl
@[simp] theorem State.mapTeams_images (s : State) (f : Team → Team) : (s.mapTeams f).images = s.images := rfl
@[simp] theorem State.mapTeams_nextImage (s : State) (f : Team → Team) : (s.mapTeams f).nextImage = s.nextImage := rfl
@[simp] theorem State.mapTeams_dev (s : State) (f : Team → Team) : (s.mapTeams f).dev = s.dev := rfl
@[simp] theorem State.mapTeams_agenda (s : State) (f : Team → Team) : (s.mapTeams f).agenda = s.agenda := rfl
@[simp] theorem State.mapTeams_nextDue (s : State) (f : Team → Team) : (s.mapTeams f).nextDue = s.nextDue := rfl
@[simp] theorem State.mapTeams_free (s : State) (f : Team → Team) : (s.mapTeams f).free = s.free := rfl

/-! ## mapCores -/

@[simp] theorem State.mapCores_grp (s : State) (f : Core → Core) : (s.mapCores f).grp = s.grp := rfl
@[simp] theorem State.mapCores_team (s : State) (f : Core → Core) : (s.mapCores f).team = s.team := rfl
@[simp] theorem State.mapCores_core (s : State) (f : Core → Core) : (s.mapCores f).core = f s.core := rfl
@[simp] theorem State.mapCores_groups (s : State) (f : Core → Core) : (s.mapCores f).groups = s.groups := rfl
@[simp] theorem State.mapCores_teams (s : State) (f : Core → Core) : (s.mapCores f).teams = s.teams := rfl
@[simp] theorem State.mapCores_cores (s : State) (f : Core → Core) : (s.mapCores f).cores = s.cores.map f := rfl
@[simp] theorem State.mapCores_cells (s : State) (f : Core → Core) : (s.mapCores f).cells = s.cells := rfl
@[simp] theorem State.mapCores_mem (s : State) (f : Core → Core) : (s.mapCores f).mem = s.mem := rfl
@[simp] theorem State.mapCores_tlb (s : State) (f : Core → Core) : (s.mapCores f).tlb = s.tlb := rfl
@[simp] theorem State.mapCores_rlines (s : State) (f : Core → Core) : (s.mapCores f).rlines = s.rlines := rfl
@[simp] theorem State.mapCores_fills (s : State) (f : Core → Core) : (s.mapCores f).fills = s.fills := rfl
@[simp] theorem State.mapCores_teamNow (s : State) (f : Core → Core) : (s.mapCores f).teamNow = s.teamNow := rfl
@[simp] theorem State.mapCores_cinch (s : State) (f : Core → Core) : (s.mapCores f).cinch = s.cinch := rfl
@[simp] theorem State.mapCores_rels (s : State) (f : Core → Core) : (s.mapCores f).rels = s.rels := rfl
@[simp] theorem State.mapCores_poisoned (s : State) (f : Core → Core) : (s.mapCores f).poisoned = s.poisoned := rfl
@[simp] theorem State.mapCores_lineErrors (s : State) (f : Core → Core) : (s.mapCores f).lineErrors = s.lineErrors := rfl
@[simp] theorem State.mapCores_routineErrors (s : State) (f : Core → Core) : (s.mapCores f).routineErrors = s.routineErrors := rfl
@[simp] theorem State.mapCores_routines (s : State) (f : Core → Core) : (s.mapCores f).routines = s.routines := rfl
@[simp] theorem State.mapCores_access (s : State) (f : Core → Core) : (s.mapCores f).access = s.access := rfl
@[simp] theorem State.mapCores_migs (s : State) (f : Core → Core) : (s.mapCores f).migs = s.migs := rfl
@[simp] theorem State.mapCores_run (s : State) (f : Core → Core) : (s.mapCores f).run = s.run := rfl
@[simp] theorem State.mapCores_ctxs (s : State) (f : Core → Core) : (s.mapCores f).ctxs = s.ctxs := rfl
@[simp] theorem State.mapCores_launches (s : State) (f : Core → Core) : (s.mapCores f).launches = s.launches := rfl
@[simp] theorem State.mapCores_children (s : State) (f : Core → Core) : (s.mapCores f).children = s.children := rfl
@[simp] theorem State.mapCores_nextLaunch (s : State) (f : Core → Core) : (s.mapCores f).nextLaunch = s.nextLaunch := rfl
@[simp] theorem State.mapCores_nextAccept (s : State) (f : Core → Core) : (s.mapCores f).nextAccept = s.nextAccept := rfl
@[simp] theorem State.mapCores_queues (s : State) (f : Core → Core) : (s.mapCores f).queues = s.queues := rfl
@[simp] theorem State.mapCores_slots (s : State) (f : Core → Core) : (s.mapCores f).slots = s.slots := rfl
@[simp] theorem State.mapCores_orphans (s : State) (f : Core → Core) : (s.mapCores f).orphans = s.orphans := rfl
@[simp] theorem State.mapCores_images (s : State) (f : Core → Core) : (s.mapCores f).images = s.images := rfl
@[simp] theorem State.mapCores_nextImage (s : State) (f : Core → Core) : (s.mapCores f).nextImage = s.nextImage := rfl
@[simp] theorem State.mapCores_dev (s : State) (f : Core → Core) : (s.mapCores f).dev = s.dev := rfl
@[simp] theorem State.mapCores_agenda (s : State) (f : Core → Core) : (s.mapCores f).agenda = s.agenda := rfl
@[simp] theorem State.mapCores_nextDue (s : State) (f : Core → Core) : (s.mapCores f).nextDue = s.nextDue := rfl
@[simp] theorem State.mapCores_free (s : State) (f : Core → Core) : (s.mapCores f).free = s.free := rfl

/-! ## onCell -/

@[simp] theorem State.onCell_grp (s : State) (n : Nat) (f : CellSt → CellSt) : (s.onCell n f).grp = s.grp := rfl
@[simp] theorem State.onCell_team (s : State) (n : Nat) (f : CellSt → CellSt) : (s.onCell n f).team = s.team := rfl
@[simp] theorem State.onCell_core (s : State) (n : Nat) (f : CellSt → CellSt) : (s.onCell n f).core = s.core := rfl
@[simp] theorem State.onCell_groups (s : State) (n : Nat) (f : CellSt → CellSt) : (s.onCell n f).groups = s.groups := rfl
@[simp] theorem State.onCell_teams (s : State) (n : Nat) (f : CellSt → CellSt) : (s.onCell n f).teams = s.teams := rfl
@[simp] theorem State.onCell_cores (s : State) (n : Nat) (f : CellSt → CellSt) : (s.onCell n f).cores = s.cores := rfl
@[simp] theorem State.onCell_cells (s : State) (n : Nat) (f : CellSt → CellSt) : (s.onCell n f).cells = upd (fun c => c.id == n) f s.cells := rfl
@[simp] theorem State.onCell_mem (s : State) (n : Nat) (f : CellSt → CellSt) : (s.onCell n f).mem = s.mem := rfl
@[simp] theorem State.onCell_tlb (s : State) (n : Nat) (f : CellSt → CellSt) : (s.onCell n f).tlb = s.tlb := rfl
@[simp] theorem State.onCell_rlines (s : State) (n : Nat) (f : CellSt → CellSt) : (s.onCell n f).rlines = s.rlines := rfl
@[simp] theorem State.onCell_fills (s : State) (n : Nat) (f : CellSt → CellSt) : (s.onCell n f).fills = s.fills := rfl
@[simp] theorem State.onCell_teamNow (s : State) (n : Nat) (f : CellSt → CellSt) : (s.onCell n f).teamNow = s.teamNow := rfl
@[simp] theorem State.onCell_cinch (s : State) (n : Nat) (f : CellSt → CellSt) : (s.onCell n f).cinch = s.cinch := rfl
@[simp] theorem State.onCell_rels (s : State) (n : Nat) (f : CellSt → CellSt) : (s.onCell n f).rels = s.rels := rfl
@[simp] theorem State.onCell_poisoned (s : State) (n : Nat) (f : CellSt → CellSt) : (s.onCell n f).poisoned = s.poisoned := rfl
@[simp] theorem State.onCell_lineErrors (s : State) (n : Nat) (f : CellSt → CellSt) : (s.onCell n f).lineErrors = s.lineErrors := rfl
@[simp] theorem State.onCell_routineErrors (s : State) (n : Nat) (f : CellSt → CellSt) : (s.onCell n f).routineErrors = s.routineErrors := rfl
@[simp] theorem State.onCell_routines (s : State) (n : Nat) (f : CellSt → CellSt) : (s.onCell n f).routines = s.routines := rfl
@[simp] theorem State.onCell_access (s : State) (n : Nat) (f : CellSt → CellSt) : (s.onCell n f).access = s.access := rfl
@[simp] theorem State.onCell_migs (s : State) (n : Nat) (f : CellSt → CellSt) : (s.onCell n f).migs = s.migs := rfl
@[simp] theorem State.onCell_run (s : State) (n : Nat) (f : CellSt → CellSt) : (s.onCell n f).run = s.run := rfl
@[simp] theorem State.onCell_ctxs (s : State) (n : Nat) (f : CellSt → CellSt) : (s.onCell n f).ctxs = s.ctxs := rfl
@[simp] theorem State.onCell_launches (s : State) (n : Nat) (f : CellSt → CellSt) : (s.onCell n f).launches = s.launches := rfl
@[simp] theorem State.onCell_children (s : State) (n : Nat) (f : CellSt → CellSt) : (s.onCell n f).children = s.children := rfl
@[simp] theorem State.onCell_nextLaunch (s : State) (n : Nat) (f : CellSt → CellSt) : (s.onCell n f).nextLaunch = s.nextLaunch := rfl
@[simp] theorem State.onCell_nextAccept (s : State) (n : Nat) (f : CellSt → CellSt) : (s.onCell n f).nextAccept = s.nextAccept := rfl
@[simp] theorem State.onCell_queues (s : State) (n : Nat) (f : CellSt → CellSt) : (s.onCell n f).queues = s.queues := rfl
@[simp] theorem State.onCell_slots (s : State) (n : Nat) (f : CellSt → CellSt) : (s.onCell n f).slots = s.slots := rfl
@[simp] theorem State.onCell_orphans (s : State) (n : Nat) (f : CellSt → CellSt) : (s.onCell n f).orphans = s.orphans := rfl
@[simp] theorem State.onCell_images (s : State) (n : Nat) (f : CellSt → CellSt) : (s.onCell n f).images = s.images := rfl
@[simp] theorem State.onCell_nextImage (s : State) (n : Nat) (f : CellSt → CellSt) : (s.onCell n f).nextImage = s.nextImage := rfl
@[simp] theorem State.onCell_dev (s : State) (n : Nat) (f : CellSt → CellSt) : (s.onCell n f).dev = s.dev := rfl
@[simp] theorem State.onCell_agenda (s : State) (n : Nat) (f : CellSt → CellSt) : (s.onCell n f).agenda = s.agenda := rfl
@[simp] theorem State.onCell_nextDue (s : State) (n : Nat) (f : CellSt → CellSt) : (s.onCell n f).nextDue = s.nextDue := rfl
@[simp] theorem State.onCell_free (s : State) (n : Nat) (f : CellSt → CellSt) : (s.onCell n f).free = s.free := rfl

/-! ## onCtx -/

@[simp] theorem State.onCtx_grp (s : State) (n : Nat) (f : Ctx → Ctx) : (s.onCtx n f).grp = s.grp := rfl
@[simp] theorem State.onCtx_team (s : State) (n : Nat) (f : Ctx → Ctx) : (s.onCtx n f).team = s.team := rfl
@[simp] theorem State.onCtx_core (s : State) (n : Nat) (f : Ctx → Ctx) : (s.onCtx n f).core = s.core := rfl
@[simp] theorem State.onCtx_groups (s : State) (n : Nat) (f : Ctx → Ctx) : (s.onCtx n f).groups = s.groups := rfl
@[simp] theorem State.onCtx_teams (s : State) (n : Nat) (f : Ctx → Ctx) : (s.onCtx n f).teams = s.teams := rfl
@[simp] theorem State.onCtx_cores (s : State) (n : Nat) (f : Ctx → Ctx) : (s.onCtx n f).cores = s.cores := rfl
@[simp] theorem State.onCtx_cells (s : State) (n : Nat) (f : Ctx → Ctx) : (s.onCtx n f).cells = s.cells := rfl
@[simp] theorem State.onCtx_mem (s : State) (n : Nat) (f : Ctx → Ctx) : (s.onCtx n f).mem = s.mem := rfl
@[simp] theorem State.onCtx_tlb (s : State) (n : Nat) (f : Ctx → Ctx) : (s.onCtx n f).tlb = s.tlb := rfl
@[simp] theorem State.onCtx_rlines (s : State) (n : Nat) (f : Ctx → Ctx) : (s.onCtx n f).rlines = s.rlines := rfl
@[simp] theorem State.onCtx_fills (s : State) (n : Nat) (f : Ctx → Ctx) : (s.onCtx n f).fills = s.fills := rfl
@[simp] theorem State.onCtx_teamNow (s : State) (n : Nat) (f : Ctx → Ctx) : (s.onCtx n f).teamNow = s.teamNow := rfl
@[simp] theorem State.onCtx_cinch (s : State) (n : Nat) (f : Ctx → Ctx) : (s.onCtx n f).cinch = s.cinch := rfl
@[simp] theorem State.onCtx_rels (s : State) (n : Nat) (f : Ctx → Ctx) : (s.onCtx n f).rels = s.rels := rfl
@[simp] theorem State.onCtx_poisoned (s : State) (n : Nat) (f : Ctx → Ctx) : (s.onCtx n f).poisoned = s.poisoned := rfl
@[simp] theorem State.onCtx_lineErrors (s : State) (n : Nat) (f : Ctx → Ctx) : (s.onCtx n f).lineErrors = s.lineErrors := rfl
@[simp] theorem State.onCtx_routineErrors (s : State) (n : Nat) (f : Ctx → Ctx) : (s.onCtx n f).routineErrors = s.routineErrors := rfl
@[simp] theorem State.onCtx_routines (s : State) (n : Nat) (f : Ctx → Ctx) : (s.onCtx n f).routines = s.routines := rfl
@[simp] theorem State.onCtx_access (s : State) (n : Nat) (f : Ctx → Ctx) : (s.onCtx n f).access = s.access := rfl
@[simp] theorem State.onCtx_migs (s : State) (n : Nat) (f : Ctx → Ctx) : (s.onCtx n f).migs = s.migs := rfl
@[simp] theorem State.onCtx_run (s : State) (n : Nat) (f : Ctx → Ctx) : (s.onCtx n f).run = s.run := rfl
@[simp] theorem State.onCtx_ctxs (s : State) (n : Nat) (f : Ctx → Ctx) : (s.onCtx n f).ctxs = upd (fun c => c.num == n) f s.ctxs := rfl
@[simp] theorem State.onCtx_launches (s : State) (n : Nat) (f : Ctx → Ctx) : (s.onCtx n f).launches = s.launches := rfl
@[simp] theorem State.onCtx_children (s : State) (n : Nat) (f : Ctx → Ctx) : (s.onCtx n f).children = s.children := rfl
@[simp] theorem State.onCtx_nextLaunch (s : State) (n : Nat) (f : Ctx → Ctx) : (s.onCtx n f).nextLaunch = s.nextLaunch := rfl
@[simp] theorem State.onCtx_nextAccept (s : State) (n : Nat) (f : Ctx → Ctx) : (s.onCtx n f).nextAccept = s.nextAccept := rfl
@[simp] theorem State.onCtx_queues (s : State) (n : Nat) (f : Ctx → Ctx) : (s.onCtx n f).queues = s.queues := rfl
@[simp] theorem State.onCtx_slots (s : State) (n : Nat) (f : Ctx → Ctx) : (s.onCtx n f).slots = s.slots := rfl
@[simp] theorem State.onCtx_orphans (s : State) (n : Nat) (f : Ctx → Ctx) : (s.onCtx n f).orphans = s.orphans := rfl
@[simp] theorem State.onCtx_images (s : State) (n : Nat) (f : Ctx → Ctx) : (s.onCtx n f).images = s.images := rfl
@[simp] theorem State.onCtx_nextImage (s : State) (n : Nat) (f : Ctx → Ctx) : (s.onCtx n f).nextImage = s.nextImage := rfl
@[simp] theorem State.onCtx_dev (s : State) (n : Nat) (f : Ctx → Ctx) : (s.onCtx n f).dev = s.dev := rfl
@[simp] theorem State.onCtx_agenda (s : State) (n : Nat) (f : Ctx → Ctx) : (s.onCtx n f).agenda = s.agenda := rfl
@[simp] theorem State.onCtx_nextDue (s : State) (n : Nat) (f : Ctx → Ctx) : (s.onCtx n f).nextDue = s.nextDue := rfl
@[simp] theorem State.onCtx_free (s : State) (n : Nat) (f : Ctx → Ctx) : (s.onCtx n f).free = s.free := rfl

/-! ## onLaunch -/

@[simp] theorem State.onLaunch_grp (s : State) (n : Nat) (f : Launch → Launch) : (s.onLaunch n f).grp = s.grp := rfl
@[simp] theorem State.onLaunch_team (s : State) (n : Nat) (f : Launch → Launch) : (s.onLaunch n f).team = s.team := rfl
@[simp] theorem State.onLaunch_core (s : State) (n : Nat) (f : Launch → Launch) : (s.onLaunch n f).core = s.core := rfl
@[simp] theorem State.onLaunch_groups (s : State) (n : Nat) (f : Launch → Launch) : (s.onLaunch n f).groups = s.groups := rfl
@[simp] theorem State.onLaunch_teams (s : State) (n : Nat) (f : Launch → Launch) : (s.onLaunch n f).teams = s.teams := rfl
@[simp] theorem State.onLaunch_cores (s : State) (n : Nat) (f : Launch → Launch) : (s.onLaunch n f).cores = s.cores := rfl
@[simp] theorem State.onLaunch_cells (s : State) (n : Nat) (f : Launch → Launch) : (s.onLaunch n f).cells = s.cells := rfl
@[simp] theorem State.onLaunch_mem (s : State) (n : Nat) (f : Launch → Launch) : (s.onLaunch n f).mem = s.mem := rfl
@[simp] theorem State.onLaunch_tlb (s : State) (n : Nat) (f : Launch → Launch) : (s.onLaunch n f).tlb = s.tlb := rfl
@[simp] theorem State.onLaunch_rlines (s : State) (n : Nat) (f : Launch → Launch) : (s.onLaunch n f).rlines = s.rlines := rfl
@[simp] theorem State.onLaunch_fills (s : State) (n : Nat) (f : Launch → Launch) : (s.onLaunch n f).fills = s.fills := rfl
@[simp] theorem State.onLaunch_teamNow (s : State) (n : Nat) (f : Launch → Launch) : (s.onLaunch n f).teamNow = s.teamNow := rfl
@[simp] theorem State.onLaunch_cinch (s : State) (n : Nat) (f : Launch → Launch) : (s.onLaunch n f).cinch = s.cinch := rfl
@[simp] theorem State.onLaunch_rels (s : State) (n : Nat) (f : Launch → Launch) : (s.onLaunch n f).rels = s.rels := rfl
@[simp] theorem State.onLaunch_poisoned (s : State) (n : Nat) (f : Launch → Launch) : (s.onLaunch n f).poisoned = s.poisoned := rfl
@[simp] theorem State.onLaunch_lineErrors (s : State) (n : Nat) (f : Launch → Launch) : (s.onLaunch n f).lineErrors = s.lineErrors := rfl
@[simp] theorem State.onLaunch_routineErrors (s : State) (n : Nat) (f : Launch → Launch) : (s.onLaunch n f).routineErrors = s.routineErrors := rfl
@[simp] theorem State.onLaunch_routines (s : State) (n : Nat) (f : Launch → Launch) : (s.onLaunch n f).routines = s.routines := rfl
@[simp] theorem State.onLaunch_access (s : State) (n : Nat) (f : Launch → Launch) : (s.onLaunch n f).access = s.access := rfl
@[simp] theorem State.onLaunch_migs (s : State) (n : Nat) (f : Launch → Launch) : (s.onLaunch n f).migs = s.migs := rfl
@[simp] theorem State.onLaunch_run (s : State) (n : Nat) (f : Launch → Launch) : (s.onLaunch n f).run = s.run := rfl
@[simp] theorem State.onLaunch_ctxs (s : State) (n : Nat) (f : Launch → Launch) : (s.onLaunch n f).ctxs = s.ctxs := rfl
@[simp] theorem State.onLaunch_launches (s : State) (n : Nat) (f : Launch → Launch) : (s.onLaunch n f).launches = upd (fun l => l.id == n) f s.launches := rfl
@[simp] theorem State.onLaunch_children (s : State) (n : Nat) (f : Launch → Launch) : (s.onLaunch n f).children = s.children := rfl
@[simp] theorem State.onLaunch_nextLaunch (s : State) (n : Nat) (f : Launch → Launch) : (s.onLaunch n f).nextLaunch = s.nextLaunch := rfl
@[simp] theorem State.onLaunch_nextAccept (s : State) (n : Nat) (f : Launch → Launch) : (s.onLaunch n f).nextAccept = s.nextAccept := rfl
@[simp] theorem State.onLaunch_queues (s : State) (n : Nat) (f : Launch → Launch) : (s.onLaunch n f).queues = s.queues := rfl
@[simp] theorem State.onLaunch_slots (s : State) (n : Nat) (f : Launch → Launch) : (s.onLaunch n f).slots = s.slots := rfl
@[simp] theorem State.onLaunch_orphans (s : State) (n : Nat) (f : Launch → Launch) : (s.onLaunch n f).orphans = s.orphans := rfl
@[simp] theorem State.onLaunch_images (s : State) (n : Nat) (f : Launch → Launch) : (s.onLaunch n f).images = s.images := rfl
@[simp] theorem State.onLaunch_nextImage (s : State) (n : Nat) (f : Launch → Launch) : (s.onLaunch n f).nextImage = s.nextImage := rfl
@[simp] theorem State.onLaunch_dev (s : State) (n : Nat) (f : Launch → Launch) : (s.onLaunch n f).dev = s.dev := rfl
@[simp] theorem State.onLaunch_agenda (s : State) (n : Nat) (f : Launch → Launch) : (s.onLaunch n f).agenda = s.agenda := rfl
@[simp] theorem State.onLaunch_nextDue (s : State) (n : Nat) (f : Launch → Launch) : (s.onLaunch n f).nextDue = s.nextDue := rfl
@[simp] theorem State.onLaunch_free (s : State) (n : Nat) (f : Launch → Launch) : (s.onLaunch n f).free = s.free := rfl

/-! ## onQueue -/

@[simp] theorem State.onQueue_grp (s : State) (n : Nat) (f : Queue → Queue) : (s.onQueue n f).grp = s.grp := rfl
@[simp] theorem State.onQueue_team (s : State) (n : Nat) (f : Queue → Queue) : (s.onQueue n f).team = s.team := rfl
@[simp] theorem State.onQueue_core (s : State) (n : Nat) (f : Queue → Queue) : (s.onQueue n f).core = s.core := rfl
@[simp] theorem State.onQueue_groups (s : State) (n : Nat) (f : Queue → Queue) : (s.onQueue n f).groups = s.groups := rfl
@[simp] theorem State.onQueue_teams (s : State) (n : Nat) (f : Queue → Queue) : (s.onQueue n f).teams = s.teams := rfl
@[simp] theorem State.onQueue_cores (s : State) (n : Nat) (f : Queue → Queue) : (s.onQueue n f).cores = s.cores := rfl
@[simp] theorem State.onQueue_cells (s : State) (n : Nat) (f : Queue → Queue) : (s.onQueue n f).cells = s.cells := rfl
@[simp] theorem State.onQueue_mem (s : State) (n : Nat) (f : Queue → Queue) : (s.onQueue n f).mem = s.mem := rfl
@[simp] theorem State.onQueue_tlb (s : State) (n : Nat) (f : Queue → Queue) : (s.onQueue n f).tlb = s.tlb := rfl
@[simp] theorem State.onQueue_rlines (s : State) (n : Nat) (f : Queue → Queue) : (s.onQueue n f).rlines = s.rlines := rfl
@[simp] theorem State.onQueue_fills (s : State) (n : Nat) (f : Queue → Queue) : (s.onQueue n f).fills = s.fills := rfl
@[simp] theorem State.onQueue_teamNow (s : State) (n : Nat) (f : Queue → Queue) : (s.onQueue n f).teamNow = s.teamNow := rfl
@[simp] theorem State.onQueue_cinch (s : State) (n : Nat) (f : Queue → Queue) : (s.onQueue n f).cinch = s.cinch := rfl
@[simp] theorem State.onQueue_rels (s : State) (n : Nat) (f : Queue → Queue) : (s.onQueue n f).rels = s.rels := rfl
@[simp] theorem State.onQueue_poisoned (s : State) (n : Nat) (f : Queue → Queue) : (s.onQueue n f).poisoned = s.poisoned := rfl
@[simp] theorem State.onQueue_lineErrors (s : State) (n : Nat) (f : Queue → Queue) : (s.onQueue n f).lineErrors = s.lineErrors := rfl
@[simp] theorem State.onQueue_routineErrors (s : State) (n : Nat) (f : Queue → Queue) : (s.onQueue n f).routineErrors = s.routineErrors := rfl
@[simp] theorem State.onQueue_routines (s : State) (n : Nat) (f : Queue → Queue) : (s.onQueue n f).routines = s.routines := rfl
@[simp] theorem State.onQueue_access (s : State) (n : Nat) (f : Queue → Queue) : (s.onQueue n f).access = s.access := rfl
@[simp] theorem State.onQueue_migs (s : State) (n : Nat) (f : Queue → Queue) : (s.onQueue n f).migs = s.migs := rfl
@[simp] theorem State.onQueue_run (s : State) (n : Nat) (f : Queue → Queue) : (s.onQueue n f).run = s.run := rfl
@[simp] theorem State.onQueue_ctxs (s : State) (n : Nat) (f : Queue → Queue) : (s.onQueue n f).ctxs = s.ctxs := rfl
@[simp] theorem State.onQueue_launches (s : State) (n : Nat) (f : Queue → Queue) : (s.onQueue n f).launches = s.launches := rfl
@[simp] theorem State.onQueue_children (s : State) (n : Nat) (f : Queue → Queue) : (s.onQueue n f).children = s.children := rfl
@[simp] theorem State.onQueue_nextLaunch (s : State) (n : Nat) (f : Queue → Queue) : (s.onQueue n f).nextLaunch = s.nextLaunch := rfl
@[simp] theorem State.onQueue_nextAccept (s : State) (n : Nat) (f : Queue → Queue) : (s.onQueue n f).nextAccept = s.nextAccept := rfl
@[simp] theorem State.onQueue_queues (s : State) (n : Nat) (f : Queue → Queue) : (s.onQueue n f).queues = upd (fun q => q.num == n) f s.queues := rfl
@[simp] theorem State.onQueue_slots (s : State) (n : Nat) (f : Queue → Queue) : (s.onQueue n f).slots = s.slots := rfl
@[simp] theorem State.onQueue_orphans (s : State) (n : Nat) (f : Queue → Queue) : (s.onQueue n f).orphans = s.orphans := rfl
@[simp] theorem State.onQueue_images (s : State) (n : Nat) (f : Queue → Queue) : (s.onQueue n f).images = s.images := rfl
@[simp] theorem State.onQueue_nextImage (s : State) (n : Nat) (f : Queue → Queue) : (s.onQueue n f).nextImage = s.nextImage := rfl
@[simp] theorem State.onQueue_dev (s : State) (n : Nat) (f : Queue → Queue) : (s.onQueue n f).dev = s.dev := rfl
@[simp] theorem State.onQueue_agenda (s : State) (n : Nat) (f : Queue → Queue) : (s.onQueue n f).agenda = s.agenda := rfl
@[simp] theorem State.onQueue_nextDue (s : State) (n : Nat) (f : Queue → Queue) : (s.onQueue n f).nextDue = s.nextDue := rfl
@[simp] theorem State.onQueue_free (s : State) (n : Nat) (f : Queue → Queue) : (s.onQueue n f).free = s.free := rfl

/-! ## onDev -/

@[simp] theorem State.onDev_grp (s : State) (f : Dev → Dev) : (s.onDev f).grp = s.grp := rfl
@[simp] theorem State.onDev_team (s : State) (f : Dev → Dev) : (s.onDev f).team = s.team := rfl
@[simp] theorem State.onDev_core (s : State) (f : Dev → Dev) : (s.onDev f).core = s.core := rfl
@[simp] theorem State.onDev_groups (s : State) (f : Dev → Dev) : (s.onDev f).groups = s.groups := rfl
@[simp] theorem State.onDev_teams (s : State) (f : Dev → Dev) : (s.onDev f).teams = s.teams := rfl
@[simp] theorem State.onDev_cores (s : State) (f : Dev → Dev) : (s.onDev f).cores = s.cores := rfl
@[simp] theorem State.onDev_cells (s : State) (f : Dev → Dev) : (s.onDev f).cells = s.cells := rfl
@[simp] theorem State.onDev_mem (s : State) (f : Dev → Dev) : (s.onDev f).mem = s.mem := rfl
@[simp] theorem State.onDev_tlb (s : State) (f : Dev → Dev) : (s.onDev f).tlb = s.tlb := rfl
@[simp] theorem State.onDev_rlines (s : State) (f : Dev → Dev) : (s.onDev f).rlines = s.rlines := rfl
@[simp] theorem State.onDev_fills (s : State) (f : Dev → Dev) : (s.onDev f).fills = s.fills := rfl
@[simp] theorem State.onDev_teamNow (s : State) (f : Dev → Dev) : (s.onDev f).teamNow = s.teamNow := rfl
@[simp] theorem State.onDev_cinch (s : State) (f : Dev → Dev) : (s.onDev f).cinch = s.cinch := rfl
@[simp] theorem State.onDev_rels (s : State) (f : Dev → Dev) : (s.onDev f).rels = s.rels := rfl
@[simp] theorem State.onDev_poisoned (s : State) (f : Dev → Dev) : (s.onDev f).poisoned = s.poisoned := rfl
@[simp] theorem State.onDev_lineErrors (s : State) (f : Dev → Dev) : (s.onDev f).lineErrors = s.lineErrors := rfl
@[simp] theorem State.onDev_routineErrors (s : State) (f : Dev → Dev) : (s.onDev f).routineErrors = s.routineErrors := rfl
@[simp] theorem State.onDev_routines (s : State) (f : Dev → Dev) : (s.onDev f).routines = s.routines := rfl
@[simp] theorem State.onDev_access (s : State) (f : Dev → Dev) : (s.onDev f).access = s.access := rfl
@[simp] theorem State.onDev_migs (s : State) (f : Dev → Dev) : (s.onDev f).migs = s.migs := rfl
@[simp] theorem State.onDev_run (s : State) (f : Dev → Dev) : (s.onDev f).run = s.run := rfl
@[simp] theorem State.onDev_ctxs (s : State) (f : Dev → Dev) : (s.onDev f).ctxs = s.ctxs := rfl
@[simp] theorem State.onDev_launches (s : State) (f : Dev → Dev) : (s.onDev f).launches = s.launches := rfl
@[simp] theorem State.onDev_children (s : State) (f : Dev → Dev) : (s.onDev f).children = s.children := rfl
@[simp] theorem State.onDev_nextLaunch (s : State) (f : Dev → Dev) : (s.onDev f).nextLaunch = s.nextLaunch := rfl
@[simp] theorem State.onDev_nextAccept (s : State) (f : Dev → Dev) : (s.onDev f).nextAccept = s.nextAccept := rfl
@[simp] theorem State.onDev_queues (s : State) (f : Dev → Dev) : (s.onDev f).queues = s.queues := rfl
@[simp] theorem State.onDev_slots (s : State) (f : Dev → Dev) : (s.onDev f).slots = s.slots := rfl
@[simp] theorem State.onDev_orphans (s : State) (f : Dev → Dev) : (s.onDev f).orphans = s.orphans := rfl
@[simp] theorem State.onDev_images (s : State) (f : Dev → Dev) : (s.onDev f).images = s.images := rfl
@[simp] theorem State.onDev_nextImage (s : State) (f : Dev → Dev) : (s.onDev f).nextImage = s.nextImage := rfl
@[simp] theorem State.onDev_dev (s : State) (f : Dev → Dev) : (s.onDev f).dev = f s.dev := rfl
@[simp] theorem State.onDev_agenda (s : State) (f : Dev → Dev) : (s.onDev f).agenda = s.agenda := rfl
@[simp] theorem State.onDev_nextDue (s : State) (f : Dev → Dev) : (s.onDev f).nextDue = s.nextDue := rfl
@[simp] theorem State.onDev_free (s : State) (f : Dev → Dev) : (s.onDev f).free = s.free := rfl

/-! ## writeMem; what it leaves in mem stands in Laws/Memory.lean -/

@[simp] theorem State.writeMem_grp (s : State) (cs : List Host.Cell) : (s.writeMem cs).grp = s.grp := rfl
@[simp] theorem State.writeMem_team (s : State) (cs : List Host.Cell) : (s.writeMem cs).team = s.team := rfl
@[simp] theorem State.writeMem_core (s : State) (cs : List Host.Cell) : (s.writeMem cs).core = s.core := rfl
@[simp] theorem State.writeMem_groups (s : State) (cs : List Host.Cell) : (s.writeMem cs).groups = s.groups := rfl
@[simp] theorem State.writeMem_cores (s : State) (cs : List Host.Cell) : (s.writeMem cs).cores = s.cores := rfl
@[simp] theorem State.writeMem_cells (s : State) (cs : List Host.Cell) : (s.writeMem cs).cells = s.cells := rfl
@[simp] theorem State.writeMem_tlb (s : State) (cs : List Host.Cell) : (s.writeMem cs).tlb = s.tlb := rfl
@[simp] theorem State.writeMem_rlines (s : State) (cs : List Host.Cell) : (s.writeMem cs).rlines = s.rlines := rfl
@[simp] theorem State.writeMem_fills (s : State) (cs : List Host.Cell) : (s.writeMem cs).fills = s.fills := rfl
@[simp] theorem State.writeMem_teamNow (s : State) (cs : List Host.Cell) : (s.writeMem cs).teamNow = s.teamNow := rfl
@[simp] theorem State.writeMem_cinch (s : State) (cs : List Host.Cell) : (s.writeMem cs).cinch = s.cinch := rfl
@[simp] theorem State.writeMem_rels (s : State) (cs : List Host.Cell) : (s.writeMem cs).rels = writeCellRels none cs s.rels := rfl
@[simp] theorem State.writeMem_poisoned (s : State) (cs : List Host.Cell) : (s.writeMem cs).poisoned = s.poisoned := rfl
@[simp] theorem State.writeMem_lineErrors (s : State) (cs : List Host.Cell) : (s.writeMem cs).lineErrors = s.lineErrors := rfl
@[simp] theorem State.writeMem_routineErrors (s : State) (cs : List Host.Cell) : (s.writeMem cs).routineErrors = s.routineErrors := rfl
@[simp] theorem State.writeMem_routines (s : State) (cs : List Host.Cell) : (s.writeMem cs).routines = s.routines := rfl
@[simp] theorem State.writeMem_access (s : State) (cs : List Host.Cell) : (s.writeMem cs).access = s.access := rfl
@[simp] theorem State.writeMem_migs (s : State) (cs : List Host.Cell) : (s.writeMem cs).migs = s.migs := rfl
@[simp] theorem State.writeMem_run (s : State) (cs : List Host.Cell) : (s.writeMem cs).run = s.run := rfl
@[simp] theorem State.writeMem_ctxs (s : State) (cs : List Host.Cell) : (s.writeMem cs).ctxs = s.ctxs := rfl
@[simp] theorem State.writeMem_launches (s : State) (cs : List Host.Cell) : (s.writeMem cs).launches = s.launches := rfl
@[simp] theorem State.writeMem_children (s : State) (cs : List Host.Cell) : (s.writeMem cs).children = s.children := rfl
@[simp] theorem State.writeMem_nextLaunch (s : State) (cs : List Host.Cell) : (s.writeMem cs).nextLaunch = s.nextLaunch := rfl
@[simp] theorem State.writeMem_nextAccept (s : State) (cs : List Host.Cell) : (s.writeMem cs).nextAccept = s.nextAccept := rfl
@[simp] theorem State.writeMem_queues (s : State) (cs : List Host.Cell) : (s.writeMem cs).queues = s.queues := rfl
@[simp] theorem State.writeMem_slots (s : State) (cs : List Host.Cell) : (s.writeMem cs).slots = s.slots := rfl
@[simp] theorem State.writeMem_orphans (s : State) (cs : List Host.Cell) : (s.writeMem cs).orphans = s.orphans := rfl
@[simp] theorem State.writeMem_images (s : State) (cs : List Host.Cell) : (s.writeMem cs).images = s.images := rfl
@[simp] theorem State.writeMem_nextImage (s : State) (cs : List Host.Cell) : (s.writeMem cs).nextImage = s.nextImage := rfl
@[simp] theorem State.writeMem_dev (s : State) (cs : List Host.Cell) : (s.writeMem cs).dev = s.dev := rfl
@[simp] theorem State.writeMem_agenda (s : State) (cs : List Host.Cell) : (s.writeMem cs).agenda = s.agenda := rfl
@[simp] theorem State.writeMem_nextDue (s : State) (cs : List Host.Cell) : (s.writeMem cs).nextDue = s.nextDue := rfl
@[simp] theorem State.writeMem_free (s : State) (cs : List Host.Cell) : (s.writeMem cs).free = s.free := rfl

end Sys2Proof.Machine
end

