-- ==== Sys2Proof/Tests/Slice0.lean ====
section
/-! SUPPORT. Tests/Slice0.lean: checks of the model against words and results that the spec itself writes out, one small step each, and a
witness for the hypotheses of every statement. -/

namespace Sys2Proof.Tests

open Machine

/-! ## Well-formedness: each limit turns an instruction away -/

def g0 : Guard := Guard.always

theorem test_wf_odd_pair : Instr.wf (.iadd g0 .i64 false 3 (.v 4) (.v 6)) = false := by decide
theorem test_wf_odd_source_pair : Instr.wf (.imad g0 .n64 false 2 (.v 4) (.v 6) (.v 7)) = false := by decide
theorem test_wf_scalar_source_may_be_odd : Instr.wf (.iadd g0 .i64 false 2 (.s 5) (.v 6)) = true := by decide
theorem test_wf_abs_unsigned : Instr.wf (.iabs g0 .n32 false 3 (.v 4)) = false := by decide
theorem test_wf_compare_packed : Instr.wf (.fcmp g0 .f16x2 .lt 2 (.v 4) (.v 5)) = false := by decide
theorem test_wf_root_packed : Instr.wf (.fsqrt g0 0 .bf16x2 .rne 2 (.v 4)) = false := by decide
theorem test_wf_exp_double : Instr.wf (.fex2 g0 0 .f64 .rne 2 (.v 4)) = false := by decide
theorem test_wf_trap_reserved : Instr.wf (.trap 255) = false := by decide
theorem test_wf_stka_unaligned : Instr.wf (.stka 6) = false := by decide
theorem test_wf_convert_pair : Instr.wf (.cvt g0 .f64 .f32 (.mode .rne) 5 4) = false := by decide
theorem test_wf_scale_range : Instr.wf (.cvti g0 .i32 false 3 2 65) = false := by decide
theorem test_wf_block_scale_pair : Instr.wf (.bscal g0 true .rne false 0 3 (.v 4) (.v 5)) = false := by decide
theorem test_wf_unpack_half : Instr.wf (.unpack g0 false false 2 5 (.v 7)) = false := by decide
theorem test_wf_weights_span : Instr.wf (.lxdec g0 none false 20 (.v 3)) = false := by decide
theorem test_wf_move_immediate_pair : Instr.wf (.vmovi g0 .i64 3 1) = false := by decide
theorem test_wf_tree_rounding : Instr.wf (.redux g0 0 .f32 .rtz .max 4 6) = false := by decide
theorem test_wf_load_quad : Instr.wf (.ld g0 0 .b16 false .glob false .group 6 2 1 255) = false := by decide
theorem test_wf_load_sign : Instr.wf (.ld g0 0 .b4 true .glob false .group 4 2 1 255) = false := by decide
theorem test_wf_scalar_wide : Instr.wf (.sld 0 .b16 false .glob false .group 4 6 255 0) = false := by decide
theorem test_wf_copy_into_d : Instr.wf (.cpy g0 0 .b4 .d none 5 6 4 255) = false := by decide
theorem test_wf_copy_width : Instr.wf (.cpyToGlobal g0 0 .b2 .w none 5 6 4 255) = false := by decide
theorem test_wf_fence_nothing : Instr.wf (.fence .device false false false) = false := by decide
theorem test_wf_stitch_group_scope : Instr.wf (.stch g0 0 3 .group 16 14 0 24) = false := by decide
theorem test_wf_scale_needed : Instr.wf (.mma 0 .lx2bf16 none false 64 4 20) = false := by decide
theorem test_wf_descriptor_pair : Instr.wf (.mldb 0 .f32 false 4 1023 255) = false := by decide
theorem test_wf_drain_add_bf16 : Instr.wf (.mdrain 0 true false .bf16 .device 64 22 255) = false := by decide

/-! ## Decoding: the words that the spec works out -/

/-- The decoder reads this instruction from a word; it rejects a word for this reason. -/
def reads (w : Nat) (i : Instr) : Bool := match decode64 w with
  | .ok j => decide (j = i)
  | .error _ => false
def rejects (w : Nat) (r : Reject) : Bool := match decode64 w with
  | .ok _ => false
  | .error q => decide (q = r)

/-- 20 R309, R311, R315, R326, R328; 22 R366, R376, R389; 23 R425, R432; 03 worked encodings; 15 R245; 22 R368. -/
theorem test_decode_control :
    reads 0x0007800000000000 (.nop g0) = true ∧ reads 0x010780001FFFFFFC (.bra g0 (-4)) = true ∧
    reads 0x0201000002000014 (.brd ⟨false, 2⟩ 8 20) = true ∧ reads 0x0307800000000000 (.join g0) = true ∧
    reads 0x0407800000000003 (.call g0 3) = true ∧ reads 0x0407808500000000 (.callReg g0 40) = true ∧
    reads 0x0507807FC0000000 (.ret g0 1022) = true ∧ reads 0x0507800780000000 (.ret g0 60) = true ∧
    reads 0x0607800000000000 (.exit g0) = true ∧ reads 0x06078083C0000000 (.exitNext g0 30) = true ∧
    reads 0x0707810000000005 (.yield g0 2 5) = true ∧ reads 0x0807800000001234 (.trap 0x1234) = true ∧
    reads 0x0907800000000000 (.bkpt g0) = true ∧ reads 0x0A0787FE000000C0 (.stka 192) = true ∧
    reads 0x0A0787FEFFFFFF40 (.stka (-192)) = true ∧ reads 0x0B078003C1400000 (.launch 30 40) = true := by decide

/-- 23 R402 to R406, R412 to R414. -/
theorem test_decode_scalar :
    reads 0x10078007BFF80000 (.smov 61 1023) = true ∧ reads 0x1107802800800020 (.smovi 20 0x800020) = true ∧
    reads 0x1107803D00000001 (.smoviHi 30 1) = true ∧ reads 0x1207A00280A00800 (.sadd .i64 false 20 20 4) = true ∧
    reads 0x13078028FFFFFFFF (.saddi 20 (-1)) = true ∧ reads 0x1307883605800003 (.saddiReg 27 22 3) = true ∧
    reads 0x1907A08020802200 (.scmp .i64 .ne 1 16 17) = true := by decide

/-- 21 R352, R353, R356, R360, R362. -/
theorem test_decode_integer :
    reads 0x2007E800C0202000 (.iadd g0 .i8x4 true 3 (.v 1) (.v 2)) = true ∧
    reads 0x2107800201000200 (.iaddi g0 .i32 false 1 1 512) = true ∧
    reads 0x2A07800140202018 (.isel g0 .i32 3 5 (.v 1) (.v 2)) = true ∧
    reads 0x2C07800180A00141 (.ibfx g0 .i32 6 (.v 5) (.s 40)) = true ∧
    reads 0x2D079001C0A07002 (.idiv g0 0 .n32 false 7 (.v 5) (.s 7)) = true := by decide

/-- 21 R336, R338, R341, R342; 03 worked encodings. -/
theorem test_decode_float :
    reads 0x40079000C0202000 (.fadd g0 .f32 .rne 3 (.v 1) (.v 2)) = true ∧
    reads 0x4207920280428022 (.ffma g0 .f32 .rtz false 10 (.v 2) (.s 40) (.v 4)) = true ∧
    reads 0x4207910280403020 (.ffma g0 .f32 .rne true 10 (.v 2) (.v 3) (.v 4)) = true ∧
    reads 0x4407900080809012 (.fcmp g0 .f32 .lt 2 (.v 4) (.s 9)) = true ∧
    reads 0x4827900500403000 (.fdiv g0 2 .f32 .rne 20 (.v 2) (.v 3)) = true := by decide

/-- 20 R313, R321, R325; 22 R373, R377. -/
theorem test_decode_convert :
    reads 0x500798818080004D (.cvt g0 .bf16 .f32 (.sr 9) 6 4) = true ∧
    reads 0x5107800602000008 (.cvti g0 .i32 false 3 2 8) = true ∧
    reads 0x52079101C060C010 (.bscal g0 false .rne true 2 7 (.v 3) (.v 12)) = true ∧
    reads 0x53078101C0604048 (.pack g0 7 (.v 3) (.v 4) (some (.v 9))) = true ∧
    reads 0x5307958140E00000 (.unpack g0 true true 2 5 (.v 7)) = true ∧
    reads 0x540786040060C000 (.lxdec g0 (some (.v 12, 2)) false 16 (.v 3)) = true := by decide

/-- 22 R378, R381, R383, R388; 23 R408, R409, R426 to R429. -/
theorem test_decode_moves :
    reads 0x6007800145000004 (.vmov g0 false 5 (.s 40)) = true ∧ reads 0x61078406003FC000 (.vmovi g0 .f32 3 0x3FC000) = true ∧
    reads 0x6207800341400000 (.s2v g0 .lo 13 10) = true ∧ reads 0x6301800581000000 (.v2s ⟨false, 3⟩ .zx 22 8) = true ∧
    reads 0x6407818040028002 (.shfl g0 .xor 1 0 (.s 40)) = true ∧
    reads 0x6507800180400000 (.vote g0 (.ballot 6) false 2) = true ∧
    reads 0x6507828040800000 (.vote g0 (.any 1) true 4) = true ∧
    reads 0x6607900A00C00000 (.redux g0 0 .f32 .rne .add 40 6) = true ∧
    reads 0x67079001C0C00000 (.pfx g0 0 .f32 .rne .add 7 6) = true ∧
    reads 0x6807828100202000 (.por g0 true false 4 1 2) = true ∧
    reads 0x6907800280000000 (.packp g0 false 10) = true ∧ reads 0x6907808001400000 (.unpackp g0 false 10) = true := by decide

/-- 22 R371, R382; 23 R411, R418, R419; 20 R319; 13 R235; 08 R160; 02 worked listing. -/
theorem test_decode_memory :
    reads 0x7007B05050040600 (.ld g0 0 .b8 false .glob true .device 20 2 6 0) = true ∧
    reads 0x7027A000200E042D (.ld g0 2 .b4 false .glob false .group 8 7 4 45) = true ∧
    reads 0x7107A000100401FF (.st g0 .b4 .glob false .group 4 2 1 255) = true ∧
    reads 0x7207A050320C7F80 (.sld 0 .b4 false .glob true .device 25 24 255 0) = true ∧
    reads 0x7307A0502A037F80 (.sst .b4 .glob true .device 21 6 255 0) = true ∧
    reads 0x74078230140C04FF (.cpy g0 0 .b4 .a (some 3) 5 6 4 255) = true ∧
    reads 0x7507A000000E042D (.pfch g0 0 .b4 .group 7 4 45) = true ∧
    reads 0x7607A40000000000 (.fence .device false true false) = true ∧
    reads 0x7607A60000000000 (.fence .device true true false) = true ∧
    reads 0x77078003C0F80000 (.resize 30 31) = true := by decide

/-- 23 R421, R423, R424; 20 R301; 22 R392 to R394. -/
theorem test_decode_sync :
    reads 0x800180A080380018 (.stch ⟨false, 3⟩ 0 1 .device 16 14 0 24) = true ∧
    reads 0x81078003C1405200 (.stdef 30 40 41) = true ∧ reads 0x8207800001400000 (.strel 40) = true ∧
    reads 0x8307900500000000 (.barinit 2 40) = true ∧ reads 0x8407980000000000 (.bararr 3) = true ∧
    reads 0x8507908520000000 (.barwaitPhase 2 41) = true ∧ reads 0x89078000C0000000 (.rnga 0 6) = true ∧
    reads 0x8A07800080000000 (.rput 0 4) = true ∧ reads 0x8B078002A0000000 (.rget 0 21) = true ∧
    reads 0x8B078082A0000000 (.rgetW 0 21) = true := by decide

/-- 10 R185 and its worked MMA; 20 R317; 22 R385 to R387; 23 R430. -/
theorem test_decode_matrix_and_special :
    reads 0x9007800000400000 (.mgang 8) = true ∧ reads 0xA007808200000000 (.rdsr 1 16) = true ∧
    reads 0xA107800500000000 (.wrsr 0 40) = true ∧ reads 0xA107860500000000 (.wrsr 0x0C 40) = true ∧
    reads 0xA207800000000000 (.coord g0 .x 0) = true ∧ reads 0xA207808040000000 (.coord g0 .y 1) = true ∧
    reads 0xA307800280000000 (.piece .ox 20) = true ∧ reads 0xA407800240000000 (.rand g0 9) = true := by decide

/-- 03 R69, Table 3-8: an opcode that is not assigned; R62, R63, R64, R65: LA, the guard, an unused field, an odd pair. -/
theorem test_decode_rejects :
    rejects 0x0C07800000000000 .opcode = true ∧ rejects 0xF807800000000000 .opcode = true ∧
    rejects 0x4217920280428022 .field = true ∧ rejects 0x1000000000000000 .field = true ∧
    rejects 0x0007800000000001 .field = true ∧ rejects 0x6007808145000004 .field = true := by decide

/-- 03 worked header, 02 worked listing: three instructions of class M that wait for MXW 0; no version-1 mark; a class above 2. -/
theorem test_decode_header :
    decodeHeader 0xF821FF0F00000000 = some ⟨3, .m, 15, 15, 0, 15⟩ ∧ decodeHeader 0xF8300FFF00000000 = some ⟨4, .g, 0, 15, 15, 15⟩ ∧
    decodeHeader 0xF721FF0F00000000 = none ∧ decodeHeader 0xF823FF0F00000000 = none ∧ decodeHeader 0xF821FF0F00000001 = none := by decide

/-- 12 Table 12-6, the image of standard slot 27; R208: an OPS that is invalid, a bit that must be zero. -/
theorem test_decode_stitch :
    decode32 0x00168001 = some (.wmov 0 1 13 1) ∧ decode32 0x1020B400 = some (.wsub 0 2 1 13 0) ∧
    decode32 0x90613402 = some (.wcmpLtu 0 6 2 13 2) ∧ decode32 0x78733001 = some (.wcmpEq 0 7 6 12 1) ∧
    decode32 0x0830B001 = some (.wadd 0 3 1 12 1) ∧ decode32 0xAA418400 = some (.wsel 2 4 3 1 0) ∧
    decode32 0x03020000 = some (.wmov 3 0 4 0) ∧ decode32 0xF0360000 = some (.commit 3 12 0) ∧
    decode32 0xB8000000 = none ∧ decode32 0x00168401 = none ∧ decode32 0xF1360000 = none := by decide


/-! ## One step each: values that the spec works out -/

/-- A header of a clause of eight instructions that waits for nothing. -/
def hd (k : ClauseClass) : Header := { count := 8, cls := k, ldw := 15, stw := 15, mxw := 15, cpw := 15 }

/-- A running device with one group of one team in focus: its registers, and lanes 0 and 1 active. -/
def st (s : Map W64) (v : Map W32 := []) (p : Map W32 := []) (xm : W32 := 3) : State :=
  { grp := { live := true, vcap := 64, scap := 64, hdr := some (hd .g), base := 0x200, enter := false, xm := xm, s := s, v := v, p := p,
             gid := 2 }
    team := { live := true, ctx := 1, launch := 7, gcnt := 3, wAll := 1, dAll := 1, aNow := 1, agBase := 1,
              body := { priv := 256, wg := 1, ag := 1, dg := 1 } }
    cells := [{ id := 0, clusters := [0] }]
    dev := { state := 2 } }

/-- The state after an instruction, and after a long-latency one has completed too. -/
def did (i : Instr) (s : State) : State := match exec i s with
  | .next t => t
  | _ => {}
def done (i : Instr) (s : State) : State := did (.arithComplete 0 0 2 0) (did i s)

/-- 23 R407, R415, R411's sub-operations, R414: the divisions that the spec works out, and SMULH. -/
theorem test_sdiv : (done (.sdiv 0 .i64 false 3 1 2) (st [(1, 0x8000000000000000), (2, 0xFFFFFFFFFFFFFFFF)])).grp.S 3 = 0x8000000000000000 := by decide
theorem test_sdiv_sat : (done (.sdiv 0 .i64 true 3 1 2) (st [(1, 0x8000000000000000), (2, 0xFFFFFFFFFFFFFFFF)])).grp.S 3 = 0x7FFFFFFFFFFFFFFF := by
  decide
theorem test_smulh : (did (.smulh .i64 3 1 1) (st [(1, 0x8000000000000000)])).grp.S 3 = 0x4000000000000000 := by decide
theorem test_smovi_hi : (did (.smoviHi 3 1) (did (.smoviU 3 0xFFFFFFFF) (st []))).grp.S 3 = 0x1FFFFFFFF := by decide
theorem test_smov : (did (.smov 3 1) (st [(1, 0xFFFFFFFF00000001)])).grp.S 3 = 0xFFFFFFFF00000001 := by decide
theorem test_scmp_inactive_lanes_too : (did (.scmp .i64 .ne 1 1 2) (st [(1, 5)])).grp.P 1 = 0xFFFFFFFF := by decide
theorem test_scalar_cap : (did (.smov 64 1) (st [(1, 5)])).grp.susp = .stopped := by decide

/-- 21 R352, R354, R356, R360: packed saturation (worked), an unsigned immediate, a bit field, a division by zero. -/
theorem test_iadd_packed_sat : (did (.iadd g0 .i8x4 true 3 (.v 1) (.v 2)) (st [] [(32, 0x7F800102), (64, 0x01FF7F01)])).grp.V 3 0 = 0x7F807F03 := by
  decide
theorem test_iaddi_unsigned_sat : (did (.iaddi g0 .n32 true 3 1 0xFFFFFF) (st [])).grp.V 3 0 = 0 := by decide
theorem test_ibfx : (did (.ibfx g0 .i32 6 (.v 5) (.s 40)) (st [(40, 0x804)] [(160, 0x00000F30)])).grp.V 6 0 = 0xFFFFFFF3 := by decide
theorem test_ibfx_unsigned : (did (.ibfx g0 .n32 6 (.v 5) (.s 40)) (st [(40, 0x804)] [(160, 0x00000F30)])).grp.V 6 0 = 0xF3 := by decide
theorem test_idiv_by_zero : (done (.idiv g0 0 .n32 false 7 (.v 5) (.s 7)) (st [] [(160, 7)])).grp.V 7 0 = 0xFFFFFFFF := by decide
theorem test_inactive_lane_keeps : (did (.iaddi g0 .i32 false 3 3 1) (st [] [(98, 9)])).grp.V 3 2 = 9 := by decide

/-- 21 R335, R336, R339, R343, R344, R345, 05 R113: the worked values and flags. -/
theorem test_fadd_rne : let t := (did (.fadd g0 .f32 .rne 3 (.v 1) (.v 2)) (st [] [(32, 0x4B800000), (64, 0x3F800000)] [] 1)).grp
    t.V 3 0 = 0x4B800000 ∧ t.fpcr = 1 := by decide
theorem test_fadd_rup : (did (.fadd g0 .f32 .rup 3 (.v 1) (.v 2)) (st [] [(32, 0x4B800000), (64, 0x3F800000)] [] 1)).grp.V 3 0 = 0x4B800001 := by decide
theorem test_fneg_packed : let t := (did (.fneg g0 .bf16x2 3 (.v 1)) (st [] [(32, 0x80007F81)] [] 1)).grp
    t.V 3 0 = 0x00007FC0 ∧ t.fpcr = 0 := by decide
theorem test_fldex_rne : (did (.fldex g0 .f32 .rne 3 (.v 1) (.v 2)) (st [] [(32, 0x3FC00000), (64, 0xFFFFFF6B)] [] 1)).grp.V 3 0 = 2 := by decide
theorem test_fldex_rtz : (did (.fldex g0 .f32 .rtz 3 (.v 1) (.v 2)) (st [] [(32, 0x3FC00000), (64, 0xFFFFFF6B)] [] 1)).grp.V 3 0 = 1 := by decide
theorem test_fmin_zeros : (did (.fmin g0 .f32 3 (.v 1) (.v 2)) (st [] [(32, 0x80000000)] [] 1)).grp.V 3 0 = 0x80000000 := by decide
theorem test_fmax_nan : let t := (did (.fmax g0 .f32 3 (.v 1) (.v 2)) (st [] [(32, 0x3F800000), (64, 0x7FC00001)] [] 1)).grp
    t.V 3 0 = 0x7FC00000 ∧ t.fpcr = 0 := by decide
theorem test_fsin_rne : (done (.fsin g0 0 .f32 .rne 3 (.v 1)) (st [] [(32, 0x3E800000)] [] 1)).grp.V 3 0 = 0x3F3504F3 := by decide +kernel
theorem test_fsin_rup : (done (.fsin g0 0 .f32 .rup 3 (.v 1)) (st [] [(32, 0x3E800000)] [] 1)).grp.V 3 0 = 0x3F3504F4 := by decide +kernel
theorem test_fcos : let t := (done (.fcos g0 0 .f32 .rne 3 (.v 1)) (st [] [(32, 0xC0400000)] [] 1)).grp
    t.V 3 0 = 0xBF800000 ∧ t.fpcr = 0 := by decide +kernel

/-- 20 R313, R325; 22 R374, R378: the worked values. -/
theorem test_cvti : let t := (did (.cvti g0 .i32 false 3 2 8) (st [] [(64, 0x3DCCCCCD)] [] 1)).grp
    t.V 3 0 = 26 ∧ t.fpcr = 1 := by decide
theorem test_cvti_to_float : let t := (did (.cvti g0 .i32 true 5 3 8) (st [] [(96, 26)] [] 1)).grp
    t.V 5 0 = 0x3DD00000 ∧ t.fpcr = 0 := by decide
theorem test_bscal : let t := (did (.bscal g0 false .rne true 2 7 (.v 3) (.v 12)) (st [] [(96, 0x40400000), (384, 0x007A0000)] [] 1)).grp
    t.V 7 0 = 0x4019999A ∧ t.fpcr = 1 := by decide
theorem test_lxdec : let t := (did (.lxdec g0 (some (.v 12, 2)) false 16 (.v 3)) (st [] [(96, 0xC32D), (384, 0x007A0000)] [] 1)).grp
    (List.range 8).map (fun j => t.V (16 + j) 0) =
      [0x3FF00000, 0xBFF00000, 0xBF200000, 0x3F200000, 0xBF200000, 0x3F200000, 0x3FF00000, 0xBFF00000] := by decide
theorem test_lxdec_bf16 : (did (.lxdec g0 (some (.v 12, 2)) true 16 (.v 3)) (st [] [(96, 0xC32D), (384, 0x007A0000)] [] 1)).grp.V 16 0 = 0xBFF03FF0 := by
  decide

/-- 05 R110, R112: lanes present and absent in the fixed tree; an identity where no lane is active. -/
theorem test_pfx_skips_absent : let t := (done (.pfx g0 0 .i32 .rne .add 7 6) (st [] [(192, 1), (193, 2), (195, 8)] [] 11)).grp
    t.V 7 0 = 1 ∧ t.V 7 1 = 3 ∧ t.V 7 2 = 0 ∧ t.V 7 3 = 11 := by decide
theorem test_redux_empty : (done (.redux ⟨true, 1⟩ 0 .n32 .rne .min 3 6) (st [] [] [(1, 0xFFFFFFFF)] 1)).grp.S 3 = 0xFFFFFFFF := by decide

/-- 04 Table 4-2 and its worked team: ROLE of GID 2, and the lane of point 37. -/
theorem test_role : (did (.rdsr 3 5) { st [] with grp := { (st []).grp with role := 1, roleFirst := 1, roleCount := 2 } }).grp.S 5 = 0x411 := by decide
theorem test_coord : let s : State := { st [] with
      grp := { (st []).grp with pointGroup := some 1, xm := 0x0003FFFF }
      team := { (st []).team with piece := { ox := 40, oy := 8, ex := 10, ey := 5 } } }
    (did (.coord g0 .x 1) s).grp.V 1 5 = 47 ∧ (did (.coord g0 .y 1) s).grp.V 1 5 = 11 := by decide

/-- The words of a header, for control targets: a clause of one instruction that waits for nothing. -/
def w1 : W64 := 0xF800FFFF00000000
/-- Headers stand in the instruction cache at these addresses. -/
def withHeaders (as : List Nat) (s : State) : State :=
  { s with core := { s.core with icache := as.map fun a => ((s.team.ctx, a), w1) } }

/-- 04 Table 4-3, steps 1 and 3: the split at 0x200, slot 0, and the JOIN at 0x230. -/
theorem test_brd : let s := withHeaders [0x220, 0x230] (st [] [] [(2, 0x55555555)] 0x0003FFFF)
    let t := (did (.brd ⟨false, 2⟩ 3 5) s).grp
    t.xm = 0x00015555 ∧ t.base = 0x220 ∧ t.stack = [⟨0x230, 0x0003FFFF, 0x0002AAAA, 0x200, 1, some (hd .g)⟩] := by decide
theorem test_join : let s := st [] [] [] 0x00015555
    let t := (did (.join g0) { s with grp := { s.grp with base := 0x230, stack := [⟨0x230, 0x0003FFFF, 0x0002AAAA, 0x200, 1, some (hd .g)⟩] } }).grp
    t.xm = 0x0002AAAA ∧ t.base = 0x200 ∧ t.pslot = 1 ∧ t.stack.length = 1 := by decide
theorem test_trap : (did (.trap 0x1234) (st [])).grp.susp = .stopped := by decide
theorem test_stka_limit : (did (.stka 260) (st [(1023, 256)])).grp.susp = .stopped ∧ (did (.stka 256) (st [(1023, 256)])).grp.S 1023 = 0 := by decide

/-- 08 worked translation: the fields of the leaf 0x0001_8091_A300_A417 and the address that it gives. -/
theorem test_translation : let l := leafOf 5 0 0x00018091A300A417 0 0x180AD0584E80
    l.r = true ∧ l.w = true ∧ l.x = false ∧ l.d = false ∧ l.cp = 0 ∧ l.wc = 2 ∧ l.mig = false ∧ l.base + 0xE80 = 0x3012346E80 := by decide
theorem test_indices : (List.range 4).map (fun k => vaIndex k 0x180AD0584E80) = [0x2C2, 0x1A0, 5, 3] := by decide

/-- A page at 0x10000 of context 1, readable and writable, through the TLB. -/
def pg : TlbEntry := { cluster := 0, ctx := 1, page := 8, leaf :=
  { r := true, w := true, x := false, d := true, cp := 0, wc := 0, mig := false, size := 8192, base := 0x40000, entry := 0x3000 } }
def withPage (s : State) : State := { s with tlb := [pg], mem := Memory.puts [] (leCells 0x3000 8 0x0000000020000017) }

/-- 00 R5, 08 R144: a store of two lanes reaches memory in byte order; a misaligned lane faults. -/
theorem test_store : let s := withPage (st [(1, 0x10000)] [(64, 4), (65, 8), (96, 0x04030201), (97, 0x08070605)])
    (did (.storePerformed 0 0 2 0 0xFFFFFFFF) (did (.st g0 .b4 .glob false .group 3 2 1 255) s)).mem.bytes 0x40004 8 = [1, 2, 3, 4, 5, 6, 7, 8] := by
  decide
theorem test_load_misaligned : (did (.ld g0 0 .b4 false .glob false .group 3 2 1 255) (st [(1, 0x10001)])).grp.susp = .stopped := by decide
theorem test_load_signed : let s := withPage (st [(1, 0x10000)] [(65, 1)])
    let s := { s with mem := s.mem.put 0x40001 0x80 }
    (did (.loadComplete 0 0 2 0 0xFFFFFFFF) (did (.ld g0 0 .b1 true .glob true .device 3 2 1 255) s)).grp.V 3 1 = 0xFFFFFF80 := by decide
theorem test_load_unmapped_parks : (did (.ld g0 0 .b4 false .glob false .group 3 2 1 255) (st [(1, 0x10000)])).grp.susp = .parked := by decide
theorem test_store_buffer : let t := did (.st g0 .b4 .w false .group 3 2 1 255) (st [(1, 8)] [(65, 4), (96, 0x04030201), (97, 0x08070605)])
    t.localBytes .w 0 8 8 = [1, 2, 3, 4, 5, 6, 7, 8] := by decide

/-- 08 worked copies: the lines that 32 lanes of 4 bytes read, and the blocks that they write. -/
theorem test_copy_units : unitCount .glob 4 ((List.range 32).map fun l => 0x10440 + 4 * l) = 2 ∧
    unitCount .a 4 ((List.range 32).map fun l => 256 + 4 * l) = 1 := by decide

/-- 22 R390 to R397: of three puts into a ring of two the third is refused; the oldest value leaves first. -/
def ring2 : State := did (.rnga 0 1) (st [(1, 2), (2, 10), (3, 11)])
theorem test_rings_full : (did (.rput 0 2) (did (.rput 0 3) (did (.rput 0 2) ring2))).grp.lstat = 0x8A09 := by decide
theorem test_rings_order : let t := did (.rget 0 5) (did (.rput 0 3) (did (.rput 0 2) ring2))
    t.grp.S 5 = 10 ∧ t.grp.lstat = 0x8B00 := by decide

/-- 20 R298 to R307: one arrival of one ends the phase. -/
theorem test_barrier : let s := did (.bararrArrival 0 0 2 0) (did (.bararr 2) (did (.barinit 2 1) (st [(1, 1)])))
    (did (.barq 2 5) s).grp.S 5 = 1 ∧ s.grp.lstat = 0x8400 := by decide
theorem test_barrier_unset : (did (.barwait 3) (st [])).grp.lstat = 0x8504 := by decide

/-- 12 worked ring: lane 9 commits tail 9, and both decide by the words that they receive. -/
def ringRun (tail : W32) : StitchRun :=
  let l := [5, tail, 4] ++ List.replicate 29 0
  { core := 0, slot := 0, gid := 2, seq := 0, lane := 9, ctx := 1, key := 0x40000, wide := false, code := [], pc := 0, l := l, old := l,
    t := List.replicate 4 (List.replicate 32 0), m := [1, 0, 0, 0], a := [], off := 0 }
def ringPut (r : StitchRun) : StitchRun :=
  [0x00168001, 0x1020B400, 0x90613402, 0x78733001, 0x0830B001, 0xAA418400, 0x03020000].foldl (fun r w =>
    match (decode32 w).map fun i => exec i { st [] with run := some r } with
    | some (.next t) => t.run.getD r
    | _ => r) r
theorem test_stitch_room : (ringPut (ringRun 8)).l.take 4 = [5, 9, 4, 0] := by decide
theorem test_stitch_full : (ringPut (ringRun 9)).l.take 4 = [5, 9, 4, 0] := by decide
theorem test_stitch_commit : let s : State := { st [] with run := some { ringRun 8 with l := [5, 9, 4] ++ List.replicate 29 0 } }
    (did (.commit 3 12 0) s).mem.bytes 0x40004 1 = [9] ∧ (did (.commit 3 12 0) s).run = none := by decide +kernel
theorem test_stitch_image : verifyRoutine false [0x00168001, 0x1020B400, 0x90613402, 0x78733001, 0x0830B001, 0xAA418400, 0x03020000, 0xF0360000] = none := by
  decide

/-- 09 R182 and its worked windows of context 7: 1,210 lapses of 4,096 raise k, 200 lower it. -/
def cinchOf (k b : Nat) : State := { st [] with cinch := [{ unit := 3, ctx := 7, k := k, e := 4096, b := b }] }
theorem test_cinch_rises : (did (.cinchUpdate 3 7) (cinchOf 2 1210)).cinch = [{ unit := 3, ctx := 7, k := 3, e := 0, b := 0 }] := by decide
theorem test_cinch_falls : (did (.cinchUpdate 3 7) (cinchOf 3 200)).cinch = [{ unit := 3, ctx := 7, k := 2, e := 0, b := 0 }] := by decide

/-- 06 worked launch: scores of the measured pieces, the third band's entry, and its pieces. -/
def worked : Launch :=
  { id := 7, queue := 0, ctx := 1, cell := 0, x := 48, y := 16, z := 1, menu := [⟨16, 2, 0⟩, ⟨4, 8, 1⟩], lag := 2, wd := 256, wl := 64, tail := true }
def rec3 (idx entry band p a l : Nat) : PRec := { idx := idx, entry := entry, band := band, p := p, i := 40, a := a, l := l, f := 0 }
def band3 : Launch := { worked with
  bx := 4, by_ := 4, chosen := [0, 1, 0], firsts := [5, 3, 0], tails := [false, false, false], nextIdx := 8, c := some 8
  recs := [rec3 0 0 0 32 1120 24, rec3 1 0 0 32 1120 24, rec3 2 0 0 32 1120 24, rec3 3 1 1 32 1280 16, rec3 4 1 1 24 960 12] }
theorem test_scores : PRec.score 8 2 (rec3 0 0 0 32 1120 24) = (8 * 32 * 40 + 8 * 160 + 2 * 24 * 32, 8 * 32 * 32) ∧
    Frac.lt (meanScore worked.score [rec3 3 1 1 32 1280 16, rec3 4 1 1 24 960 12]) (meanScore worked.score [rec3 0 0 0 32 1120 24]) = true ∧
    (PRec.score 8 2 (rec3 0 0 0 32 1120 24)).1 * 32 = 51 * (PRec.score 8 2 (rec3 0 0 0 32 1120 24)).2 := by decide
theorem test_third_band : ({ band3 with running := [5, 6, 7] } : Launch).next 8 = .take 1 false := by decide
theorem test_third_band_held : ({ band3 with running := [4, 5, 6, 7] } : Launch).next 8 = .hold := by decide
theorem test_third_band_pieces : ((band3.cutWith 8 1 false).cutq.map fun p => (p.idx, p.ox, p.oy, p.ex, p.ey)) = [(8, 4, 4, 4, 8), (9, 4, 12, 4, 4)] ∧
    (band3.cutWith 8 1 false).bx = 8 ∧ (band3.cutWith 8 1 false).by_ = 4 := by decide
theorem test_tail : ({ band3 with bx := 8, chosen := [1, 0, 1, 0] } : Launch).next 8 = .take 0 true := by decide

/-- 09 worked set: the key orders of the seven ways, by which the victims are ways 2, 3, 5, 4, 1, 0; with k = 0 for context 7 way 1's key is 200. -/
def ranked (k : Nat) : List (Nat × Int) :=
  let t1 : Tag := ⟨1, 0, 0⟩
  let t2 : Tag := ⟨2, 0, 0⟩
  let s : State := { st [] with
    teamNow := [⟨3, t1, 50000⟩, ⟨3, t2, 9000⟩], cinch := [{ unit := 3, ctx := 7, k := k, e := 0, b := 0 }]
    dev := { (st []).dev with record := { unkd := 4096 } } }
  let line := fun (way due : Nat) (t : Option Tag) (kind ctx cp : Nat) =>
    ({ unit := 3, set := 0, way := way, line := way, due := due, tag := t, kind := kind, h := false, ctx := ctx, cp := cp, wc := 0, dirty := false,
       age := way } : RLine)
  [line 0 50300 t1 0 3 0, line 1 9200 t2 0 7 0, line 2 49900 t1 0 3 0, line 3 8950 t2 0 7 0, line 4 0 none 2 9 0, line 5 51000 t1 0 3 1].map s.rank
theorem test_victim_keys : ranked 2 = [(5, -300), (5, -800), (3, -100), (3, -50), (5, -4096), (4, 0)] := by decide
theorem test_victim_keys_without_cinch : (ranked 0)[1]? = some (5, -200) := by decide

/-- 19 Table 19-1, R288: a command answers; an unknown one answers too; the register that the host writes keeps its value. -/
theorem test_negotiate : let t := did (.registerWrite 0x100 5) (did (.registerWrite 0x108 1) { State.reset with dev := { state := 2 } })
    t.dev.val = 1 ∧ t.dev.res = 0 ∧ t.dev.msix = [0] := by decide
theorem test_reset_stops : step State.reset = .fault .clocksStopped := rfl
theorem test_fetched_word_runs : (match step (State.reset.withFetchWord 64 0x0007800000000000) with
    | .next t => t.core.issued
    | _ => 0) = 1 := by decide

/-! ## Witnesses: for every statement, a state and operands that meet its hypotheses -/

open Sys2Proof.Slice0

/-- An instruction that nothing holds, whose registers lie below the caps: what `Clear` asks. -/
def free (i : Instr) (s : State) : Bool := !s.holds i && (s.grp.bounds i).isNone

theorem clear_of_free {i : Instr} {s : State} (h : free i s = true) : Clear i s := by
  simp only [free, Bool.and_eq_true, Bool.not_eq_true', Option.isNone_iff_eq_none] at h
  exact h

theorem witness_ScalarResults : ∃ f, scalarValue (.sadd .i64 false 1022 1 63) = some (1022, f) ∧ Clear (.sadd .i64 false 1022 1 63) (st [(1, 5)]) :=
  ⟨_, rfl, clear_of_free (by decide)⟩
theorem witness_ScalarCompare : Clear (.scmp .n32 .ge 15 1 63) (st [(1, 5)]) := clear_of_free (by decide)
theorem witness_SpecialRead : Clear (.rdsr 0x10 5) (st []) ∧ (∃ f, (0x10, f) ∈ specials) ∧ Clear (.rdsr 9 5) (st []) ∧ Clear (.rdsr 0x11 5) (st []) :=
  ⟨clear_of_free (by decide), ⟨_, .tail _ (.tail _ (.tail _ (.tail _ (.tail _ (.tail _ (.tail _ (.tail _ (.tail _ (.tail _ (.tail _ (.tail _
    (.tail _ (.tail _ (.tail _ (.head _)))))))))))))))⟩, clear_of_free (by decide), clear_of_free (by decide)⟩
theorem witness_SpecialWrite : Clear (.wrsr 0 5) (st []) ∧ Clear (.wrsr 0x0B 5) (st []) ∧ Clear (.wrsr 0x0C 5) (st []) ∧ Clear (.wrsr 0x0D 63) (st []) :=
  ⟨clear_of_free (by decide), clear_of_free (by decide), clear_of_free (by decide), clear_of_free (by decide)⟩
theorem witness_VectorResults : ∃ r, vectorRow (.iadd g0 .i64 false 62 (.v 1) (.s 63)) = some r ∧ r.g.isNever = false ∧
    Clear (.iadd g0 .i64 false 62 (.v 2) (.s 63)) (st []) := ⟨_, rfl, by decide, clear_of_free (by decide)⟩
theorem witness_FloatResults : ∃ r, floatRow (.fadd g0 .f32 .rne 3 (.v 1) (.v 2)) = some r ∧ r.g.isNever = false ∧
    Clear (.fadd g0 .f32 .rne 3 (.v 1) (.v 2)) (st []) := ⟨_, rfl, by decide, clear_of_free (by decide)⟩
theorem witness_ScaledConversion : g0.isNever = false ∧ Clear (.cvti g0 .i64 true 5 62 64) (st []) := ⟨by decide, clear_of_free (by decide)⟩
theorem witness_PredicateResults : ∃ f, predicateRow (.pand g0 false true 15 1 2) = some (g0, 15, f) ∧ g0.isNever = false ∧
    Clear (.pand g0 false true 15 1 2) (st []) := ⟨_, rfl, by decide, clear_of_free (by decide)⟩
theorem witness_FloatCompare : g0.isNever = false ∧ Clear (.fcmp g0 .f64 .un 15 (.v 62) (.s 63)) (st []) := ⟨by decide, clear_of_free (by decide)⟩
theorem witness_LaneToScalar : g0.isNever = false ∧ Clear (.v2s g0 .d 63 62) (st [] [] [] 8) ∧ ((st [] [] [] 8).lanes g0).getLsbD 3 = true ∧
    (∀ k, k < 3 → ((st [] [] [] 8).lanes g0).getLsbD k = false) ∧ (st [] [] [] 0).lanes g0 = 0 ∧ Clear (.v2s g0 .zx 63 62) (st [] [] [] 0) :=
  ⟨by decide, clear_of_free (by decide), by decide, by decide, by decide, clear_of_free (by decide)⟩
theorem witness_UnpackPredicates : g0.isNever = false ∧ Clear (.unpackp g0 true 63) (st []) := ⟨by decide, clear_of_free (by decide)⟩
theorem witness_WeightDecode : g0.isNever = false ∧ Clear (.lxdec g0 (some (.v 12, 2)) false 56 (.v 3)) (st []) :=
  ⟨by decide, clear_of_free (by decide)⟩
theorem witness_RandomResult : g0.isNever = false ∧ Clear (.rand g0 63) (st []) := ⟨by decide, clear_of_free (by decide)⟩
theorem witness_LongLatencyIssue : ∃ r, longRow (.fdiv g0 15 .f32 .rne 3 (.v 1) (.v 2)) = some (0x48, 15, r) ∧ r.g.isNever = false ∧
    Clear (.fdiv g0 15 .f32 .rne 3 (.v 1) (.v 2)) (st []) ∧ (st []).lanes r.g ≠ 0 ∧ (st [] [] [] 0).lanes r.g = 0 ∧
    Clear (.fdiv g0 15 .f32 .rne 3 (.v 1) (.v 2)) (st [] [] [] 0) :=
  ⟨_, rfl, by decide, clear_of_free (by decide), by decide, by decide, clear_of_free (by decide)⟩
theorem witness_PrefixIssue : g0.isNever = false ∧ Clear (.pfx g0 0 .f64 .rne .add 62 60) (st []) := ⟨by decide, clear_of_free (by decide)⟩
theorem witness_ReductionIssue : g0.isNever = false ∧ Clear (.redux g0 0 .i32 .rne .min 63 60) (st []) := ⟨by decide, clear_of_free (by decide)⟩
theorem witness_ScalarDivisionIssue : Clear (.sdiv 0 .i64 true 1022 1 2) (st []) ∧ Clear (.srem 0 .n32 1023 1 2) (st []) :=
  ⟨clear_of_free (by decide), clear_of_free (by decide)⟩

/-! ### Control -/

/-- A position from which a displacement of 4 names the clause at 0x228, whose header is in the cache. -/
def ctl (xm : W32 := 3) : State := withHeaders [0x228, 0x238] (st [(5, 0x228), (6, 64)] [] [(2, 1), (3, 4)] xm)

theorem lands (addr : Nat) (s : State) (h1 : addr < 2 ^ 53) (h2 : addr % 8 = 0) (h3 : s.core.cached? s.team.ctx addr = some w1) : Lands addr s s :=
  ⟨h1, h2, w1, by simp only [State.fetch, h3], by decide⟩

theorem witness_NoOperation : g0.isNever = false ∧ Clear (.nop g0) (ctl 0) := ⟨by decide, clear_of_free (by decide)⟩
theorem witness_UniformGuards : uniformRow (.bra ⟨false, 3⟩ 4) = some (0x01, ⟨false, 3⟩) ∧ uniformRow (.join ⟨false, 2⟩) = some (0x03, ⟨false, 2⟩) ∧
    Idle ⟨false, 3⟩ (ctl 3) ∧ Idle ⟨false, 3⟩ (ctl 0) ∧ ¬ Acts ⟨false, 2⟩ (ctl 3) ∧ ¬ Idle ⟨false, 2⟩ (ctl 3) ∧
    Clear (.bra ⟨false, 3⟩ 4) (ctl 3) ∧ Clear (.bra ⟨false, 3⟩ 4) (ctl 0) ∧ Clear (.join ⟨false, 2⟩) (ctl 3) := by
  refine ⟨rfl, rfl, .inr ?_, .inl ?_, ?_, ?_, clear_of_free (by decide), clear_of_free (by decide), clear_of_free (by decide)⟩
  · decide
  · decide
  · unfold Acts; decide
  · unfold Idle; decide
theorem witness_Transfers : g0.isNever = false ∧ Acts g0 (ctl 3) ∧ Acts g0 (ctl 0) ∧ displaced 29 4 (ctl 3) = 0x228 ∧ Lands 0x228 (ctl 3) (ctl 3) ∧
    Clear (.bra g0 4) (ctl 3) ∧ Clear (.ret g0 5) (ctl 3) ∧ ((ctl 3).grp.S 5).toNat = 0x228 ∧ Clear (.call g0 4) (ctl 3) ∧ Clear (.callReg g0 5) (ctl 3) :=
  ⟨by decide, .inr (by decide), .inl (by decide), by decide, lands _ _ (by decide) (by decide) (by decide), clear_of_free (by decide),
    clear_of_free (by decide), by decide, clear_of_free (by decide), clear_of_free (by decide)⟩
theorem witness_ControlTargets :
    (let s := { ctl with grp := (ctl).grp.setS 5 (2 ^ 53) }
     ((s.grp.S 5).toNat = 2 ^ 53 ∧ Acts g0 s ∧ Clear (.ret g0 5) s)) ∧
    (let s := { ctl with grp := (ctl).grp.setS 5 (2 ^ 53 - 1) }
     ((s.grp.S 5).toNat < 2 ^ 53 ∧ (s.grp.S 5).toNat % 8 ≠ 0 ∧ Acts g0 s ∧ Clear (.ret g0 5) s)) ∧
    (let s : State := { ctl with core := { icache := [((1, 0x228), 0xF700000000000000#64)] } }
     s.fetch 0x228 = (.word 0xF700000000000000#64, s) ∧ (0xF700000000000000#64).toNat / 2 ^ 56 ≠ 0xF8 ∧ displaced 29 4 s = 0x228 ∧ Acts g0 s ∧
     Clear (.bra g0 4) s) :=
  ⟨⟨by decide, .inr (by decide), clear_of_free (by decide)⟩, ⟨by decide, by decide, .inr (by decide), clear_of_free (by decide)⟩,
    ⟨rfl, by decide, by decide, .inr (by decide), clear_of_free (by decide)⟩⟩
theorem witness_FetchKeeps : (ctl).fetch 0x228 = (.word w1, ctl) ∧ (ctl).core.cached? (ctl).team.ctx 0x228 = some w1 ∧ (ctl).mem.wf = true :=
  ⟨rfl, by decide, by decide⟩

/-- The same with so many entries on the reconvergence stack. -/
def deep (n : Nat) (xm : W32 := 3) : State :=
  { ctl xm with grp := { (ctl xm).grp with stack := List.replicate n ⟨0x200, 15, 12, 0x210, 2, none⟩ } }
theorem witness_Divergence : (⟨false, 3⟩ : Guard).isNever = false ∧ (deep 31).holds (.brd ⟨false, 3⟩ 4 6) = false ∧ displaced 22 4 (deep 31) = 0x228 ∧
    displaced 22 6 (deep 31) = 0x238 ∧ Lands 0x228 (deep 31) (deep 31) ∧ Lands 0x238 (deep 31) (deep 31) ∧ (deep 31).grp.stack.length < 32 ∧
    (deep 31).grp.active ⟨false, 3⟩ = 0 ∧ (deep 31).grp.active ⟨false, 2⟩ ≠ 0 ∧ (deep 31).holds (.brd ⟨false, 2⟩ 4 6) = false ∧
    32 ≤ (deep 32).grp.stack.length ∧ Lands 0x228 (deep 32) (deep 32) ∧ Lands 0x238 (deep 32) (deep 32) ∧
    (deep 32).holds (.brd ⟨false, 2⟩ 4 6) = false := by
  refine ⟨by decide, by decide, by decide, by decide, lands _ _ ?_ ?_ ?_, lands _ _ ?_ ?_ ?_, by decide, by decide, by decide, by decide, by decide,
    lands _ _ ?_ ?_ ?_, lands _ _ ?_ ?_ ?_, by decide⟩ <;> decide
theorem witness_Divergence_targets :
    (let s : State := { ctl with core := { icache := [((1, 0x228), w1), ((1, 0x238), 0xF700000000000000#64)] } }
     Lands 0x228 s s ∧ s.fetch 0x238 = (.word 0xF700000000000000#64, s) ∧ s.holds (.brd g0 4 6) = false ∧ s.holds (.brd g0 6 4) = false ∧
     displaced 22 6 s = 0x238) :=
  ⟨lands _ _ (by decide) (by decide) (by decide), rfl, by decide, by decide, by decide⟩
theorem witness_Reconvergence : g0.isNever = false ∧ Acts g0 (deep 2) ∧ (deep 2).holds (.join g0) = false ∧
    (∃ top rest, (deep 2).grp.stack = top :: rest ∧ (deep 2).grp.base = top.join ∧ top.pending ≠ 0) ∧
    (let s := { deep 1 with grp := { (deep 1).grp with stack := [⟨0x200, 15, 0, 0x210, 2, none⟩] } }
     Acts g0 s ∧ s.holds (.join g0) = false ∧ ∃ top rest, s.grp.stack = top :: rest ∧ s.grp.base = top.join ∧ top.pending = 0) ∧
    (deep 0).holds (.join g0) = false ∧ ∀ top rest, (deep 0).grp.stack = top :: rest → (deep 0).grp.base ≠ top.join :=
  ⟨by decide, .inr (by decide), by decide, ⟨_, _, rfl, by decide, by decide⟩, ⟨.inr (by decide), by decide, _, _, rfl, by decide, by decide⟩,
    by decide, by intro top rest h; cases h⟩

/-- Another group of the team. -/
def other (susp : Susp := .ready) (pend : List Pend := []) : Group := { (st []).grp with gid := 3, susp := susp, pend := pend }
/-- A body descriptor of one group stands at address 0x10040 of the context. -/
def withBody (s : State) : State :=
  let m := Memory.puts [] (leCells 0x3000 8 0x0000000020000017)
  { s with
    tlb := [pg]
    mem := Memory.puts m (leCells 0x40040 8 0x228 ++ leCells 0x40048 8 1 ++ leCells 0x40058 8 0x1004004)
    grp := { s.grp with gid := 0, s := [(6, 0x10040)] } }
theorem witness_GroupExit_successor : let s := withBody ctl
    Acts g0 s ∧ Clear (.exitNext g0 6) s ∧ (s.grp.S 6).toNat % 64 = 0 ∧ MayExit (.next (s.grp.S 6)) s ∧ s.lastGroup = true ∧
      ∃ s' b, s.readBody 0x06 (s.grp.S 6).toNat = .inr (s', some b) ∧ s'.holdingsOk b = true :=
  ⟨.inr (by decide), clear_of_free (by decide), by decide, ⟨by decide, by decide⟩, by decide, _, _, rfl, by decide⟩
theorem witness_GroupExit : Acts g0 ctl ∧ Clear (.exit g0) ctl ∧ MayExit .plain ctl ∧ (ctl).lastGroup = true ∧
    (let s := { ctl with groups := [other] }
     Acts g0 s ∧ Clear (.exit g0) s ∧ MayExit .plain s ∧ s.lastGroup = false ∧ Clear (.exitNext g0 6) s ∧ (s.grp.S 6).toNat % 64 = 0 ∧
       MayExit (.next (s.grp.S 6)) s) ∧
    (let s := { ctl with team := { (ctl).team with exk := some .plain } }
     Clear (.exitNext g0 6) s ∧ s.gangLatched = false ∧ (s.grp.S 6).toNat % 64 = 0 ∧ s.team.exk = some .plain ∧ ExitKind.plain ≠ .next (s.grp.S 6)) :=
  ⟨.inr (by decide), clear_of_free (by decide), ⟨by decide, by decide⟩, by decide,
    ⟨.inr (by decide), clear_of_free (by decide), ⟨by decide, by decide⟩, by decide, clear_of_free (by decide), by decide, ⟨by decide, by decide⟩⟩,
    ⟨clear_of_free (by decide), by decide, by decide, rfl, by decide⟩⟩
theorem witness_YieldWaits : g0.isNever = false ∧ Acts g0 ctl ∧ Clear (.yield g0 2 4) ctl ∧ displaced 29 4 ctl = 0x228 ∧ Lands 0x228 ctl ctl ∧
    ((ctl).team.bar 2).init = false ∧
    (let s := { ctl with team := { (ctl).team with bars := [(2, { init := true, exp := 2 })] } }
     Clear (.yield g0 2 4) s ∧ Lands 0x228 s s ∧ (s.team.bar 2).init = true) :=
  ⟨by decide, .inr (by decide), clear_of_free (by decide), by decide, lands _ _ (by decide) (by decide) (by decide), by decide,
    ⟨clear_of_free (by decide), lands _ _ (by decide) (by decide) (by decide), by decide⟩⟩
theorem witness_SoftwareTraps : (ctl).holds (.trap 256) = false ∧ (ctl).holds (.trap 255) = false ∧ Acts g0 ctl ∧ Clear (.bkpt g0) ctl :=
  ⟨by decide, by decide, .inr (by decide), clear_of_free (by decide)⟩
theorem witness_StackAllocate : (st [(1023, 256)]).holds (.stka 256) = false ∧ (st [(1023, 256)]).holds (.stka 260) = false ∧
    (((st [(1023, 256)]).grp.slim.toNat : Int) ≤ ((st [(1023, 256)]).grp.S 1023).toInt - (256#32).toInt) := by decide

/-! ### Memory -/

/-- The page, and the registers of a load or store of two lanes into it: S1 its base, V2 the offsets, V3 the words. -/
def ms : State := withPage (st [(1, 0x10000), (2, 0x40)] [(64, 4), (65, 8), (96, 0x04030201), (97, 0x08070605)])
/-- Lane 1's address lies on a page that is not mapped. -/
def msFault : State := { ms with grp := { ms.grp with v := [(65, 0x2000)] } }
/-- S1 names the last word of a buffer, or one past it; PRIV offsets. -/
def atOffset (n : W64) : State := { ms with grp := { ms.grp with s := [(1, n)], v := [] } }
/-- Lane-private memory is 256 bytes, a W-buffer 16,384. -/
theorem witness_LoadIssue : ∃ r dst, loadRow (.ld g0 3 .b4 false .glob false .group 3 2 1 45) = some (r, 3, false, dst) ∧
    Instr.isNever (.ld g0 3 .b4 false .glob false .group 3 2 1 45) = false ∧ Clear (.ld g0 3 .b4 false .glob false .group 3 2 1 45) ms ∧
    (∀ x ∈ r.lanes ms, ms.team.isShared x.2 = false) ∧ Fits r ms ∧ (∀ a ∈ laneAccs (ms.lanesX .r true (r.lanes ms)), ms.bad a.key = false) ∧
    pageFaults (r.lanes ms) (ms.lanesX .r true (r.lanes ms)) = [] ∧ Fits r msFault ∧
    pageFaults (r.lanes msFault) (msFault.lanesX .r true (r.lanes msFault)) ≠ [] ∧
    (∀ a ∈ laneAccs (msFault.lanesX .r true (r.lanes msFault)), msFault.bad a.key = false) ∧
    (∃ t, turnedAway 10 .glob (fun x => decide (x.2 % 4 ≠ 0)) (r.lanes (atOffset 0xFFFF)) t) := by
  refine ⟨_, _, rfl, by decide, clear_of_free (by decide), by decide, fun x hx => ⟨?_, fun h => absurd rfl h⟩, by decide, by decide,
    fun x hx => ⟨?_, fun h => absurd rfl h⟩, by decide, by decide, ⟨_, _, _, rfl, rfl⟩⟩
  · revert x; decide
  · revert x; decide
theorem witness_LoadIssue_buffer : ∃ r dst, loadRow (.ld g0 0 .b4 false .w false .group 3 2 1 255) = some (r, 0, false, dst) ∧
    Clear (.ld g0 0 .b4 false .w false .group 3 2 1 255) (atOffset 16380) ∧ Fits r (atOffset 16380) ∧
    (∀ x ∈ r.lanes (atOffset 16384), x.2 % r.w = 0) ∧
    (∃ t, turnedAway 11 .w (fun x => decide ((atOffset 16384).spaceSize .w < x.2 + 4)) (r.lanes (atOffset 16384)) t) := by
  refine ⟨_, _, rfl, clear_of_free (by decide), ?_, by decide, ⟨_, _, _, rfl, rfl⟩⟩
  unfold Fits; decide
/-- A load and a store of two lanes have issued. -/
def loads : State := did (.ld g0 0 .b4 false .glob false .group 5 2 1 255) ms
def stores : State := did (.st g0 .b4 .glob false .device 3 2 1 255) ms
theorem witness_LoadBinds : InFocus 0 0 2 loads loads ∧ ∃ p as dst a, loads.grp.findPend? 0 = some p ∧ p.kind = .load as 4 false false none dst ∧
    as.filter (fun a => (2#32).getLsbD a.lane) = [a] ∧ loads.canBind p 4 false a = true ∧ loads.bad a.key = false ∧
    (∃ b ∈ as, (2#32).getLsbD b.lane = false) := by
  refine ⟨⟨rfl, rfl, rfl⟩, _, _, _, _, rfl, rfl, rfl, by decide, by decide, ?_⟩
  decide
theorem witness_StoreIssue : ∃ r data, storeRow (.st g0 .b4 .glob true .device 3 2 1 255) = some (r, data) ∧
    Instr.isNever (.st g0 .b4 .glob true .device 3 2 1 255) = false ∧ Clear (.st g0 .b4 .glob true .device 3 2 1 255) ms ∧
    ms.storeWaits r.w r.sp r.ordered r.sc (r.lanes ms) = false ∧ Fits r ms ∧ (∀ a ∈ laneAccs (ms.lanesX .w true (r.lanes ms)), ms.bad a.key = false) ∧
    pageFaults (r.lanes ms) (ms.lanesX .w true (r.lanes ms)) = [] ∧ pageFaults (r.lanes msFault) (msFault.lanesX .w true (r.lanes msFault)) ≠ [] ∧
    msFault.storeWaits r.w r.sp r.ordered r.sc (r.lanes msFault) = false ∧
    (∃ t, turnedAway 10 .glob (fun x => decide (x.2 % 4 ≠ 0)) (r.lanes (atOffset 2)) t) := by
  refine ⟨_, _, rfl, by decide, clear_of_free (by decide), by decide, fun x hx => ⟨?_, fun h => absurd rfl h⟩, by decide, by decide, by decide,
    by decide, ⟨_, _, _, rfl, rfl⟩⟩
  revert x; decide
theorem witness_StoreIssue_buffer : ∃ r data, storeRow (.st g0 .b4 .priv false .group 3 2 1 255) = some (r, data) ∧
    Clear (.st g0 .b4 .priv false .group 3 2 1 255) (atOffset 252) ∧ Fits r (atOffset 252) ∧
    (atOffset 252).storeWaits r.w r.sp r.ordered r.sc (r.lanes (atOffset 252)) = false ∧ (∀ x ∈ r.lanes (atOffset 256), x.2 % r.w = 0) ∧
    (∃ t, turnedAway 11 .priv (fun x => decide ((atOffset 256).spaceSize .priv < x.2 + 4)) (r.lanes (atOffset 256)) t) := by
  refine ⟨_, _, rfl, clear_of_free (by decide), ?_, by decide, by decide, ⟨_, _, _, rfl, rfl⟩⟩
  unfold Fits; decide
theorem witness_StorePerforms : InFocus 0 0 2 stores stores ∧ ∃ p ls a bs, stores.grp.findPend? 0 = some p ∧ p.kind = .store .device ls ∧
    ls.filter (fun z => (1#32).getLsbD z.1.lane) = [(a, bs)] ∧ stores.writeBefore 0 (a.key / 128) = false ∧ stores.served a.key = true ∧
    stores.bad a.key = false ∧ a.key % 128 + bs.length ≤ 128 ∧ ∃ b ∈ ls, (1#32).getLsbD b.1.lane = false := by
  refine ⟨⟨rfl, rfl, rfl⟩, _, _, _, _, rfl, rfl, rfl, by decide, by decide, by decide, by decide, ?_⟩
  decide
theorem witness_PrefetchAndFence : Clear (.pfch g0 0 .b4 .group 2 1 45) ms ∧
    (∀ x ∈ lanesAt .glob 1 2 (ms.lanes g0) ms, x.2 % 4 = 0) ∧ Clear (.fence .device true true true) ms ∧
    ¬ FenceWaits .device true true true ms ∧ FenceWaits .device false true false stores ∧ Clear (.fence .device false true false) stores := by
  refine ⟨clear_of_free (by decide), by decide, clear_of_free (by decide), ?_, ?_, clear_of_free (by decide)⟩
  · rintro (⟨-, -, h⟩ | ⟨p, hp, -⟩)
    · exact absurd h (by decide)
    · cases hp
  · exact .inr ⟨_, .head _, rfl, rfl, by decide⟩
/-- An exclusive team with 2 granules of A, dispatched with 1, asks for n. -/
def ex (n : W64) (excl : Bool := true) : State :=
  let s := st [(1, n)]
  { s with team := { s.team with aNow := 2, body := { s.team.body with excl := excl } }, core := { s.core with l1w := 15 } }
theorem witness_BufferResize : Clear (.resize 3 1) (ex 2 false) ∧ (ex 2 false).team.body.excl = false ∧
    (∀ n ∈ [0, 14], Clear (.resize 3 1) (ex n) ∧ (ex n).team.body.excl = true ∧
      (((ex n).grp.S 1).toNat < max (ex n).team.agBase (ex n).team.body.ag ∨ (ex n).team.agBase + 12 < ((ex n).grp.S 1).toNat)) ∧
    (∀ n ∈ [1, 2, 13], Clear (.resize 3 1) (ex n) ∧ max (ex n).team.agBase (ex n).team.body.ag ≤ ((ex n).grp.S 1).toNat ∧
      ((ex n).grp.S 1).toNat ≤ (ex n).team.agBase + 12 ∧ (ex n).resizeWaits ((ex n).grp.S 1).toNat = false) := by
  refine ⟨clear_of_free (by decide), by decide, ?_, ?_⟩
  · intro n h; simp only [List.mem_cons, List.not_mem_nil, or_false] at h
    rcases h with rfl | rfl <;> exact ⟨clear_of_free (by decide), by decide, by decide⟩
  · intro n h; simp only [List.mem_cons, List.not_mem_nil, or_false] at h
    rcases h with rfl | rfl | rfl <;> exact ⟨clear_of_free (by decide), by decide, by decide, by decide⟩
/-- The same group in a `cpy` role and a C clause; in a `mat` role and an M clause. -/
def inCpy (s : State) : State := { s with grp := { s.grp with kind := .cpy, hdr := some (hd .c) } }
def inMat (s : State) : State := { s with grp := { s.grp with kind := .mat, hdr := some (hd .m) } }
theorem witness_CopyIssue : copyRow (.cpy g0 0 .b4 .w (some 3) 2 2 1 255) = some (false, g0, 4, .w, some 3, 2, 2, 1, 255) ∧
    Clear (.cpy g0 0 .b4 .w (some 3) 2 2 1 255) ms ∧ ¬ InRole .cpy .c ms ∧ Clear (.cpy g0 0 .b4 .w (some 3) 2 2 1 255) (inCpy ms) ∧
    InRole .cpy .c (inCpy ms) ∧ (let gl := lanesAt .glob 1 2 ((inCpy ms).lanes g0) (inCpy ms)
      (∀ x ∈ gl, x.2 % 4 = 0) ∧ (∀ x ∈ gl.map fun x => (x.1, ((inCpy ms).grp.V 2 x.1).toNat), x.2 % 4 = 0 ∧ x.2 + 4 ≤ (inCpy ms).spaceSize .w) ∧
      (inCpy ms).copyWaits false gl = false ∧ pageFaults gl ((inCpy ms).lanesX .r false gl) = []) ∧
    (let s := inCpy msFault
     let gl := lanesAt .glob 1 2 (s.lanes g0) s
     InRole .cpy .c s ∧ (∀ x ∈ gl, x.2 % 4 = 0) ∧ s.copyWaits false gl = false ∧ pageFaults gl (s.lanesX .r false gl) ≠ []) :=
  ⟨rfl, clear_of_free (by decide), fun h => absurd h.1 (by decide), clear_of_free (by decide), ⟨rfl, _, rfl, rfl⟩,
    ⟨by decide, by decide, by decide, by decide⟩, ⟨⟨rfl, _, rfl, rfl⟩, by decide, by decide, by decide⟩⟩
/-- A copy from global memory and one to it have issued. -/
def copyIn : State := did (.cpy g0 0 .b4 .w (some 3) 2 2 1 255) (inCpy ms)
def copyOut : State := did (.cpyToGlobal g0 0 .b4 .w none 2 2 1 255) (inCpy ms)
theorem witness_CopyCompletes : (InFocus 0 0 2 copyIn copyIn ∧ ∃ p know xs, copyIn.grp.findPend? 0 = some p ∧
      p.kind = .copy false 4 .w (some 3) false know xs ∧ copyIn.copyMay p 4 .w xs = true ∧ ∀ z ∈ xs, copyIn.bad z.1.key = false) ∧
    (InFocus 0 0 2 copyOut copyOut ∧ ∃ p know xs, copyOut.grp.findPend? 0 = some p ∧
      p.kind = .copy true 4 .w none false know xs ∧ copyOut.copyMay p 4 .w xs = true ∧ ∀ z ∈ xs, copyOut.bad z.1.key = false) :=
  ⟨⟨⟨rfl, rfl, rfl⟩, _, _, _, rfl, rfl, by decide, by decide⟩, ⟨rfl, rfl, rfl⟩, _, _, _, rfl, rfl, by decide, by decide⟩

/-! ### Stitches -/

/-- A routine at its first operation. -/
def inRun : State := { st [] with run := some (ringRun 8) }
theorem witness_StitchOperations : (∃ p f, vectorOp (.wmov 0 1 13 1) = some (1, p, f)) ∧ inRun.run = some (ringRun 8) ∧
    stitchOk (ringRun 8).wide (.wmov 0 1 13 1) = true ∧ Shaped (ringRun 8) ∧ (∃ m f, maskOp (.wcmpLtu 0 6 2 13 2) = some (6, m, f)) ∧
    stitchOk (ringRun 8).wide (.wcmpLtu 0 6 2 13 2) = true ∧ vectorOp (.wmov 0 15 13 1) ≠ none ∧ stitchOk (ringRun 8).wide (.wmov 0 15 13 1) = false ∧
    (st []).run = none :=
  ⟨⟨_, _, rfl⟩, rfl, by decide, ⟨by decide, by decide, by decide, by decide, by decide⟩, ⟨_, _, rfl⟩, by decide, by simp [vectorOp], by decide, rfl⟩
/-- An STCH of one lane has issued, and its routine holds its line. -/
def stched : State :=
  let c : Ctx := { num := 1, root := 0, unkd := 0, dzBase := 0, dzPages := 0, pool := 0, poolN := 0, table := 0x80000 }
  did (.stch g0 0 40 .device 16 12 2 1) { ms with
    grp := { ms.grp with xm := 1 }
    ctxs := [c]
    mem := ms.mem.puts (leCells 0x81400 8 1 ++ leCells 0x81408 4 0xF0360000) }
def stitching : State :=
  { stched with run := some { ringRun 8 with core := 0, slot := 0, gid := 2, seq := 0, lane := 0, ctx := 1, key := 0x40004 } }
theorem witness_StitchEnds : ∃ r p zero lanes, stitching.run = some r ∧ Shaped r ∧ stitchOk r.wide (.commit 3 12 0) = true ∧
    stitchOk r.wide (.abort 3 12 0) = true ∧
    InFocus r.core r.slot r.gid { stitching.writeMem (wordCells r.key r.l) with run := none } { stitching.writeMem (wordCells r.key r.l) with run := none } ∧
    InFocus r.core r.slot r.gid { stitching with run := none } { stitching with run := none } ∧
    stitching.grp.findPend? r.seq = some p ∧ p.kind = .stch 40 .device 16 zero lanes ∧ r.lane < 32 ∧ stitching.poisoned.contains (r.key / 128) = false :=
  ⟨_, _, _, _, rfl, ⟨by decide, by decide, by decide, by decide, by decide⟩, by decide, by decide, ⟨rfl, rfl, rfl⟩, ⟨rfl, rfl, rfl⟩, rfl, rfl, by decide,
    by decide⟩
theorem witness_StitchIssue_waits : (∃ t, turnedAway 10 .glob (fun x => decide (x.2 % 4 ≠ 0)) (lanesAt .glob 1 2 ((atOffset 2).lanes g0) (atOffset 2)) t) ∧
    Clear (.stch g0 0 40 .device 16 12 2 1) (atOffset 2) ∧ Clear (.stch g0 0 40 .device 16 12 2 1) stores ∧
    (∀ x ∈ lanesAt .glob 1 2 (stores.lanes g0) stores, x.2 % 4 = 0) ∧ stores.releaseReady .device = false :=
  ⟨⟨_, _, _, rfl, rfl⟩, clear_of_free (by decide), clear_of_free (by decide), by decide, by decide⟩
theorem witness_StitchIssue : Clear (.stch g0 0 40 .device 16 12 2 1) ms ∧ (∀ x ∈ lanesAt .glob 1 2 (ms.lanes g0) ms, x.2 % 4 = 0) ∧
    ms.releaseReady .device = true ∧ ms.stchOverflows (laneAccs (ms.lanesX .rw false (lanesAt .glob 1 2 (ms.lanes g0) ms))) = false ∧
    pageFaults (lanesAt .glob 1 2 (ms.lanes g0) ms) (ms.lanesX .rw false (lanesAt .glob 1 2 (ms.lanes g0) ms)) = [] ∧
    pageFaults (lanesAt .glob 1 2 (msFault.lanes g0) msFault) (msFault.lanesX .rw false (lanesAt .glob 1 2 (msFault.lanes g0) msFault)) ≠ [] ∧
    Clear (.stch g0 0 40 .device 16 12 2 1) msFault ∧ msFault.releaseReady .device = true :=
  ⟨clear_of_free (by decide), by decide, by decide, by decide, by decide, by decide, clear_of_free (by decide), by decide⟩
/-- Under DET every address is shared and the commit area holds 512 slots. -/
def areaFull (s : State) : State :=
  let h : Held := { chain := 0, gid := 0, seq := 0, lane := 0, core := 0, team := 0, base := 0, slot := 0, opc := 0x71, slots := 512, cp := 0, wc := 0,
                    order := 0, thread := none, kind := .bytes [] }
  { s with team := { s.team with det := true, shared := [(0, 2 ^ 40)], held := [h] } }
theorem witness_StitchIssue_full : (areaFull ms).team.through = false ∧ Clear (.stch g0 0 40 .device 16 12 2 1) (areaFull ms) ∧
    (∀ x ∈ lanesAt .glob 1 2 ((areaFull ms).lanes g0) (areaFull ms), x.2 % 4 = 0) ∧ (areaFull ms).releaseReady .device = true ∧
    (let xs := (areaFull ms).lanesX .rw false (lanesAt .glob 1 2 ((areaFull ms).lanes g0) (areaFull ms))
     pageFaults (lanesAt .glob 1 2 ((areaFull ms).lanes g0) (areaFull ms)) xs = [] ∧
       0 < ((laneAccs xs).filter fun a => (areaFull ms).team.isShared a.va).length) :=
  ⟨by decide, clear_of_free (by decide), by decide, by decide, by decide, by decide⟩
/-- Under DET with an earlier piece of its launch uncommitted a load waits, and with the commit area full a store; a lane's line is poisoned. -/
theorem witness_LoadIssue_waits : (let s := { areaFull ms with
        launches := [{ id := 7, queue := 0, ctx := 1, cell := 0, det := true }]
        team := { (areaFull ms).team with piece := { (areaFull ms).team.piece with idx := 1 } } }
      Clear (.ld g0 3 .b4 false .glob false .group 3 2 1 45) s ∧ (∀ x ∈ lanesAt .glob 1 2 (s.lanes g0) s, x.2 % 4 = 0) ∧
      (∃ x ∈ lanesAt .glob 1 2 (s.lanes g0) s, s.team.isShared x.2 = true) ∧ s.oldest = false) ∧
    Clear (.st g0 .b4 .glob false .group 3 2 1 255) (areaFull ms) ∧
    (areaFull ms).storeWaits 4 .glob false .group (lanesAt .glob 1 2 ((areaFull ms).lanes g0) (areaFull ms)) = true ∧
    (let s := { ms with poisoned := [0x800] }
     ((laneAccs (s.lanesX .r true (lanesAt .glob 1 2 (s.lanes g0) s))).find? fun a => s.bad a.key).isSome = true) :=
  ⟨⟨clear_of_free (by decide), by decide, by decide, by decide⟩, clear_of_free (by decide), by decide, by decide⟩
/-- The line of the invocation stands at its home, which it has been asked for. -/
def resident (s : State) : State :=
  { s with
    rlines := [{ unit := homeUnit 0x40004, set := setOf (homeUnit 0x40004) 0x40004, way := 0, line := 0x40004 / 128, due := 0, tag := none, kind := 2,
                 h := true, ctx := 1, cp := 0, wc := 0, dirty := false, age := 0 }]
    grp := { s.grp with pend := s.grp.pend.map fun p => { p with asked := [0] } } }
/-- An invocation of lane 0 that may go on where its line is there, in a state like `stched`. -/
def invoking (s : State) (held : Bool) : Prop := InFocus 0 0 2 s s ∧ ∃ p lanes a words, s.grp.findPend? 0 = some p ∧
  p.kind = .stch 40 .device 16 0 lanes ∧ s.run = none ∧ lanes.find? (fun z => z.1.lane == 0) = some (a, words) ∧
  s.writeBefore 0 (a.key / 128) = false ∧ s.lineThere a = held ∧ s.lineComes a.key = false ∧ (held = true → 0 ∈ p.asked) ∧ a.key = 0x40004
theorem witness_StitchEvents : invoking stched false ∧ (∀ s ∈ [stched, { stched with poisoned := [0x800] }, { stched with ctxs := [] },
      { stched with routineErrors := [(1, 40)] }, { stched with lineErrors := [0x800] }], invoking (resident s) true) ∧
    stched.bad 0x40004 = false ∧ { stched with poisoned := [0x800] }.bad 0x40004 = true ∧ stched.tableRoutine? 1 40 = some (false, [0xF0360000]) ∧
    stched.routines = [] ∧ { stched with ctxs := [] }.tableRoutine? 1 40 = none ∧ stched.routineErrors = [] ∧ stched.lineErrors = [] ∧ 0x40004 / 128 = 0x800 := by
  refine ⟨⟨⟨rfl, rfl, rfl⟩, _, _, _, _, rfl, rfl, rfl, rfl, by decide, by decide, by decide, by decide, rfl⟩, ?_, by decide, by decide, by decide,
    by decide, by decide, by decide, by decide, by decide⟩
  intro s hs; simp only [List.mem_cons, List.not_mem_nil, or_false] at hs
  rcases hs with rfl | rfl | rfl | rfl | rfl <;>
    exact ⟨⟨rfl, rfl, rfl⟩, _, _, _, _, rfl, rfl, rfl, rfl, by decide, by decide, by decide, by decide, rfl⟩
theorem witness_StitchEvents_ends :
    (let s := did (.commit 3 12 0) stitching
     InFocus 0 0 2 s s ∧ ∃ p, s.grp.findPend? 0 = some p ∧ p.kind = .stch 40 .device 16 0 []) :=
  ⟨⟨rfl, rfl, rfl⟩, _, rfl, rfl⟩
/-- An image stands at 0x10040; S1 names it, S2 a slot. -/
def withImage (hdr word slot : Nat) : State :=
  { ms with
    ctxs := [{ num := 1, root := 0, unkd := 0, dzBase := 0, dzPages := 0, pool := 0, poolN := 0, table := 0x80000 }]
    mem := ms.mem.puts (leCells 0x40040 8 hdr ++ leCells 0x40048 4 word ++ leCells 0x81080 8 1)
    grp := { ms.grp with s := mapSet 0 [(1, 0x10040)] 2 (BitVec.ofNat 64 slot) } }
def readsImage (s : State) : Prop := s.team.det = false ∧ Clear (.stdef 3 1 2) s ∧ s.onceMay 0x10040 8 = true ∧ ∃ h s1 bs s2,
  s.readOnce 0x10040 8 = .bytes h s1 ∧ s1.onceMay 0x10040 (8 + 4 * (leNat h / 2 ^ 16 % 16 + 1)) = true ∧ s1.readOnce 0x10040 (8 + 4 * (leNat h / 2 ^ 16 % 16 + 1)) = .bytes bs s2 ∧ s1.team.det = false
/-- A routine holds the line of the image. -/
def heldImage : State := { withImage 1 0xF0360000 32 with run := some { ringRun 8 with core := 0, slot := 0, gid := 5, key := 0x40040 } }
theorem witness_StitchDefinition_held : Clear (.stdef 3 1 2) heldImage ∧ (heldImage.grp.S 2).toNat = 32 ∧ (heldImage.grp.S 1).toNat % 8 = 0 ∧
    heldImage.team.det = false ∧ heldImage.onceMay (heldImage.grp.S 1).toNat 8 = false ∧ Clear (.strel 2) heldImage ∧ heldImage.run ≠ none :=
  ⟨clear_of_free (by decide), by decide, by decide, by decide, by decide, clear_of_free (by decide), by decide⟩
theorem witness_StitchDefinition : Clear (.stdef 3 1 2) (withImage 1 0xF0360000 256) ∧ 255 < ((withImage 1 0xF0360000 256).grp.S 2).toNat ∧
    (let s := { withImage 1 0xF0360000 255 with grp := { (withImage 1 0xF0360000 255).grp with s := [(1, 0x10044), (2, 255)] } }
     Clear (.stdef 3 1 2) s ∧ (s.grp.S 2).toNat ≤ 255 ∧ (s.grp.S 1).toNat % 8 ≠ 0) ∧
    readsImage (withImage 1 0xF0360000 32) ∧ readsImage (withImage 2 0xF0360000 255) ∧ readsImage (withImage 1 0xF0360000 31) ∧
    verifyRoutine false [0xF0360000] = none ∧ (∃ det, verifyRoutine false [0xB8000000] = some det) ∧
    (∃ c, (withImage 1 0xF0360000 32).findCtx? (withImage 1 0xF0360000 32).team.ctx = some c ∧ (withImage 1 0xF0360000 32).mem.word (c.table + 128 * 32) 8 = 0 ∧
      (withImage 1 0xF0360000 33).mem.word (c.table + 128 * 33) 8 ≠ 0) ∧ readsImage (withImage 1 0xF0360000 33) ∧ Clear (.strel 2) (withImage 1 0 31) ∧ Clear (.strel 2) (withImage 1 0 32) ∧
    Clear (.strel 2) (withImage 1 0 255) ∧ Clear (.strel 2) (withImage 1 0 256) ∧ (withImage 1 0 256).run = none :=
  ⟨clear_of_free (by decide), by decide, ⟨clear_of_free (by decide), by decide, by decide⟩,
    ⟨by decide, clear_of_free (by decide), by decide, _, _, _, _, rfl, by decide, rfl, by decide⟩, ⟨by decide, clear_of_free (by decide), by decide, _, _, _, _, rfl, by decide, rfl, by decide⟩,
    ⟨by decide, clear_of_free (by decide), by decide, _, _, _, _, rfl, by decide, rfl, by decide⟩, by decide, ⟨_, rfl⟩,
    ⟨_, rfl, by decide, by decide⟩, ⟨by decide, clear_of_free (by decide), by decide, _, _, _, _, rfl, by decide, rfl, by decide⟩, clear_of_free (by decide), clear_of_free (by decide), clear_of_free (by decide), clear_of_free (by decide), rfl⟩

/-! ### Barriers and rings -/

/-- Barrier 2 expects n arrivals in phase 0 and has none; S1 holds 1, S2 holds 65535. -/
def barS (n : Nat) (susp : Susp := .ready) (gs : List Group := []) : State :=
  let s := st [(1, 1), (2, 65535), (3, 65536)]
  { s with team := { s.team with bars := [(2, { init := true, exp := n })] }, grp := { s.grp with susp := susp }, groups := gs }
theorem witness_BarrierOperations :
    (Waited 2 (barS 2 .ready [other (.bar 2 0 0x85)]) ∧ Clear (.barinit 2 1) (barS 2 .ready [other (.bar 2 0 0x85)])) ∧
    (CopyDue 3 copyIn ∧ Clear (.barinit 3 1) copyIn ∧ Clear (.barkill 3) copyIn) ∧
    (∀ a ∈ [1, 2, 3, 4], Clear (.barinit 2 a) (barS 2) ∧ ¬ (Waited 2 (barS 2) ∨ CopyDue 2 (barS 2))) ∧
    ((barS 2).grp.S 1).toNat = 1 ∧ ((barS 2).grp.S 2).toNat = 65535 ∧ 65535 < ((barS 2).grp.S 3).toNat ∧ ((barS 2).grp.S 4).toNat = 0 ∧
    Clear (.barkill 1) (barS 2) ∧ ((barS 2).team.bar 1).init = false ∧ ¬ Waited 1 (barS 2) ∧ ¬ CopyDue 1 (barS 2) ∧ Clear (.barkill 2) (barS 2) ∧
    ((barS 2).team.bar 2).init = true ∧ Clear (.bararr 2) (barS 2) ∧ Clear (.bararrToken 2 5) (barS 2) := by
  have idle : ∀ b : BReg, ¬ Waited b (barS 2) ∧ ¬ CopyDue b (barS 2) := fun b =>
    ⟨by rintro ⟨g, hg, h⟩
        rw [show (barS 2).teamGroups = [(barS 2).grp] from rfl, List.mem_singleton] at hg
        subst hg; exact h,
     by rintro ⟨g, hg, p, hp, -⟩
        rw [show (barS 2).teamGroups = [(barS 2).grp] from rfl, List.mem_singleton] at hg
        subst hg; cases hp⟩
  refine ⟨⟨⟨other (.bar 2 0 0x85), .tail _ (.head _), rfl⟩, clear_of_free (by decide)⟩,
    ⟨⟨copyIn.grp, .head _, _, .head _, _, _, _, _, _, rfl⟩, clear_of_free (by decide), clear_of_free (by decide)⟩, ?_, by decide, by decide, by decide,
    by decide, clear_of_free (by decide), by decide, (idle 1).1, (idle 1).2, clear_of_free (by decide), by decide, clear_of_free (by decide),
    clear_of_free (by decide)⟩
  intro a ha
  refine ⟨?_, by simp [idle 2]⟩
  simp only [List.mem_cons, List.not_mem_nil, or_false] at ha
  rcases ha with rfl | rfl | rfl | rfl <;> exact clear_of_free (by decide)
theorem witness_BarrierWaits : Clear (.barwait 1) (barS 2) ∧ ((barS 2).team.bar 1).init = false ∧ Clear (.barwaitPhase 2 1) (barS 2) ∧
    ((barS 2).team.bar 2).init = true ∧ ((barS 2).team.bar 2).ph ≠ ((barS 2).grp.S 1).setWidth 32 ∧
    ((barS 2).team.bar 2).ph = ((barS 2).grp.S 5).setWidth 32 ∧ Clear (.barwaitPhase 2 5) (barS 2) ∧ Clear (.barwait 2) (barS 2) ∧
    Clear (.barsync 1) (barS 2) ∧ Clear (.barsync 2) (barS 2) :=
  ⟨clear_of_free (by decide), by decide, clear_of_free (by decide), by decide, by decide, by decide, clear_of_free (by decide),
    clear_of_free (by decide), clear_of_free (by decide), clear_of_free (by decide)⟩
/-- A BARARR, or a BARSYNC, of the group waits for its arrival at a barrier of two, or of one. -/
def arriving (b : BReg) (n : Nat) : State := did (.bararrToken b 5) (barS n)
theorem witness_BarrierArrivals : (∀ x ∈ [(2, 1), (2, 2), (1, 2)], InFocus 0 0 2 (arriving x.1 x.2) (arriving x.1 x.2) ∧
      ∃ p know, (arriving x.1 x.2).grp.findPend? 0 = some p ∧ p.kind = .arrive x.1 (some 5) know) ∧
    (∀ q ∈ (arriving 2 1).grp.pend, q.seq < 0 → False) ∧ ((arriving 1 2).team.bar 1).init = false ∧ ((arriving 2 2).team.bar 2).init = true ∧
    (∀ n ∈ [1, 2], InFocus 0 0 2 (barS n (.sync 2)) (barS n (.sync 2)) ∧ (barS n (.sync 2)).grp.susp = .sync 2 ∧
      ((barS n (.sync 2)).team.bar 2).init = true ∧ (barS n (.sync 2)).grp.pend = []) := by
  refine ⟨?_, by intro q hq h; omega, by decide, by decide, ?_⟩
  · intro x hx; simp only [List.mem_cons, List.not_mem_nil, or_false] at hx
    rcases hx with rfl | rfl | rfl <;> exact ⟨⟨rfl, rfl, rfl⟩, _, _, rfl, rfl⟩
  · intro n hn; simp only [List.mem_cons, List.not_mem_nil, or_false] at hn
    rcases hn with rfl | rfl <;> exact ⟨⟨rfl, rfl, rfl⟩, rfl, by decide, rfl⟩
/-- Ring 0 of two entries with n values in it; S1 holds 128, S2 holds 129. -/
def ringS (n : Nat) (susp : Susp := .ready) : State :=
  let s := st [(1, 128), (2, 129), (3, 126)]
  { s with
    team := { s.team with rings := mapSet {} [] 0 { init := true, cap := 2, first := 0, head := 1, tail := (1 + n) % 4 } }, grp := { s.grp with susp := susp } }
theorem witness_RingAllocation : (∀ x ∈ [(0, 1), (1, 1), (1, 2), (1, 4), (1, 3)], Clear (.rnga x.1 x.2) (ringS 0)) ∧ ((ringS 0).team.ring 0).init = true ∧
    ((ringS 0).team.ring 1).init = false ∧ ((ringS 0).grp.S 1).toNat = 128 ∧ 128 < ((ringS 0).grp.S 2).toNat ∧ ((ringS 0).grp.S 4).toNat = 0 ∧
    ((ringS 0).grp.S 3).toNat = 126 ∧
    (∀ k : Fin 8, ((ringS 0).team.ring k).init = true → ∀ e, 2 ≤ e → e < 128 →
      e < ((ringS 0).team.ring k).first ∨ ((ringS 0).team.ring k).first + ((ringS 0).team.ring k).cap ≤ e) ∧
    Clear (.rfree 0) (ringS 0) ∧ Clear (.rfree 1) (ringS 0) := by
  refine ⟨?_, by decide, by decide, by decide, by decide, by decide, by decide, ?_, clear_of_free (by decide), clear_of_free (by decide)⟩
  · intro x hx; simp only [List.mem_cons, List.not_mem_nil, or_false] at hx
    rcases hx with rfl | rfl | rfl | rfl | rfl <;> exact clear_of_free (by decide)
  · intro k hk e h1 h2
    have : k = 0 := by revert k; decide
    subst this; right; exact h1
theorem witness_RingTransfers : (∀ n ∈ [0, 1, 2], Clear (.rput 0 1) (ringS n) ∧ Clear (.rputW 0 1) (ringS n) ∧ Clear (.rget 0 5) (ringS n) ∧
      Clear (.rgetW 0 5) (ringS n) ∧ (ringS n).releaseReady .team = true ∧ ((ringS n).team.ring 0).init = true) ∧
    Clear (.rput 1 1) (ringS 0) ∧ Clear (.rget 1 5) (ringS 0) ∧ ((ringS 0).team.ring 1).init = false ∧
    inRing (ringS 2).team 0 = ((ringS 2).team.ring 0).cap ∧ inRing (ringS 1).team 0 ≠ ((ringS 1).team.ring 0).cap ∧
    ((ringS 0).team.ring 0).tail = ((ringS 0).team.ring 0).head ∧ ((ringS 1).team.ring 0).tail ≠ ((ringS 1).team.ring 0).head ∧
    (∀ sp ∈ [Susp.ring 0 true 1, .ring 0 false 1, .rput 0 true 1, .rput 0 false 1, .ring 1 true 1], ∀ n ∈ [1, 2],
      InFocus 0 0 2 (ringS n sp) (ringS n sp) ∧ (ringS n sp).releaseReady .team = true) := by
  refine ⟨?_, clear_of_free (by decide), clear_of_free (by decide), by decide, by decide, by decide, by decide, by decide, ?_⟩
  · intro n hn; simp only [List.mem_cons, List.not_mem_nil, or_false] at hn
    rcases hn with rfl | rfl | rfl <;> exact ⟨clear_of_free (by decide), clear_of_free (by decide), clear_of_free (by decide), clear_of_free (by decide),
      by decide, by decide⟩
  · intro sp hsp n hn; simp only [List.mem_cons, List.not_mem_nil, or_false] at hsp hn
    rcases hsp with rfl | rfl | rfl | rfl | rfl <;> rcases hn with rfl | rfl <;> exact ⟨⟨rfl, rfl, rfl⟩, by decide⟩
/-- An access of the group stands before its RPUT. -/
def early : State := did (.ld g0 3 .b4 false .glob false .group 5 2 1 255) ms
theorem witness_RingTransfers_early : early.releaseReady .team = false ∧ Clear (.rput 0 1) early ∧ Clear (.rputW 0 1) early :=
  ⟨by decide, clear_of_free (by decide), clear_of_free (by decide)⟩

/-! ### The matrix engine -/

/-- Groups 2 and 3 of the team are a gang of F32: A in the W-buffer with rows of 32 bytes, one column, one step. -/
def matS (buckle : W64 := 12) (a : W64 := 0x100000) : State :=
  let s := inMat (withPage (st [(4, a), (5, 0x80001), (6, 12), (7, 4), (9, 0x80001), (11, 0x40001), (12, 0x10000), (13, 0x40001)]))
  { s with
    team := { s.team with gcnt := 4 }
    grp := { s.grp with buckle := buckle }
    groups := [{ s.grp with gid := 3, buckle := buckle }] }
/-- The other member waits at the latch with this column. -/
def matWith (c : VReg) : State :=
  let s := matS
  { s with groups := [{ s.grp with gid := 3, susp := .latched, latch := some ⟨0, .f32, none, false, c, 16, 4⟩ }] }
def mmaI : Instr := .mma 0 .f32 none false 8 16 4
theorem witness_MatrixIssue_role : ∀ i ∈ [Instr.mgang 6, mmaI, .mldb 0 .f32 false 16 8 255, .mdrain 0 false true .f32 .device 8 10 255],
    (st []).grp.windowShut i = false ∧ ¬ InRole .mat .m (st []) := by
  intro i hi
  refine ⟨?_, fun h => absurd h.1 (by decide)⟩
  simp only [List.mem_cons, List.not_mem_nil, or_false] at hi
  rcases hi with rfl | rfl | rfl | rfl <;> decide
theorem witness_MatrixIssue_gang : InRole .mat .m matS ∧ Clear (.mgang 6) matS ∧ matS.buckleBad (matS.grp.S 6) = false ∧ Clear (.mgang 7) matS ∧
    matS.buckleBad (matS.grp.S 7) = true := ⟨⟨rfl, _, rfl, rfl⟩, clear_of_free (by decide), by decide, clear_of_free (by decide), by decide⟩
theorem mat_unread (reads writes : List Nat) : ¬ Unready reads writes matS := by
  rintro ⟨p, hp, -⟩; cases hp
theorem matWith_unread (c : VReg) (reads writes : List Nat) : ¬ Unready reads writes (matWith c) := by
  rintro ⟨p, hp, -⟩; cases hp
theorem witness_MatrixIssue_mma : Clear mmaI (matS 0) ∧ (matS 0).grp.buckle = 0 ∧ (∀ c ∈ [8, 9], Clear mmaI (matWith c) ∧ InRole .mat .m (matWith c) ∧
      (matWith c).grp.buckle ≠ 0 ∧ ((matWith c).grp.S 4).toNat / 2 ^ 20 = 1 ∧ CfgOk .f32 2 false ((matWith c).grp.S 5).toNat ∧
      ((matWith c).gangSet (matWith c).grp).length = 2 ∧ (∀ k ∈ regKeys 8 1 ++ regKeys 16 1, k < (matWith c).grp.vcap) ∧
      ElemsIn .w 4 0 (mcfg 0x80001).rs (aElems .f32 (mcfg 0x80001) 0) (matWith c)) ∧
    (matWith 8).disagrees ⟨0, .f32, none, false, 8, 16, 4⟩ = false ∧ (matWith 9).disagrees ⟨0, .f32, none, false, 8, 16, 4⟩ = true := by
  refine ⟨clear_of_free (by decide), by decide, ?_, by decide, by decide⟩
  intro c hc; simp only [List.mem_cons, List.not_mem_nil, or_false] at hc
  rcases hc with rfl | rfl <;>
    exact ⟨clear_of_free (by decide), ⟨rfl, _, rfl, rfl⟩, by decide, by decide, by unfold CfgOk; decide, by decide, by decide,
      by unfold ElemsIn; decide +kernel⟩
theorem witness_MatrixIssue_mldb : Clear (.mldb 0 .f32 false 16 8 255) matS ∧ matS.grp.buckle ≠ 0 ∧ (matS.grp.S 8).toNat < 2 ^ 20 ∧
    CfgOk .f32 (matS.gangSet matS.grp).length false (matS.grp.S 9).toNat ∧ (∀ k ∈ regKeys 16 1, k < matS.grp.vcap) ∧
    ElemsIn .w 4 0 (mcfg 0x80001).rs (mldbElems .f32 (mcfg 0x80001) 0 0 2) matS :=
  ⟨clear_of_free (by decide), by decide, by decide, by unfold CfgOk; decide, by decide, by unfold ElemsIn; decide⟩
/-- Both members are latched. -/
def latched2 : State := let s := matWith 8
  { s with grp := { s.grp with susp := .latched, latch := some ⟨0, .f32, none, false, 8, 16, 4⟩ } }
theorem witness_MatrixRendezvous : ∃ ms : List Group, latched2.findGroup? 0 0 2 = some latched2.grp ∧ latched2.grp.susp = .latched ∧
    (latched2.gangSet latched2.grp).map latched2.groupAt? = ms.map some ∧ ∀ x ∈ ms, x.susp = .latched ∧ x.latch.isSome = true :=
  ⟨[latched2.grp, latched2.groups.headD {}], rfl, rfl, rfl, by decide⟩
/-- A division has issued; an MLDB has issued. -/
def divided : State := did (.sdiv 0 .i64 false 3 1 2) (st [(1, 7), (2, 2)])
def columns : State := did (.mldb 0 .f32 false 16 8 255) matS
theorem witness_ResultsWritten : (InFocus 0 0 2 divided divided ∧ ∃ p res, divided.grp.findPend? 0 = some p ∧ p.kind = .arith res) ∧
    (InFocus 0 0 2 columns columns ∧ ∃ p parts, columns.grp.findPend? 0 = some p ∧ p.kind = .mldb parts) :=
  ⟨⟨⟨rfl, rfl, rfl⟩, _, _, rfl, rfl⟩, ⟨rfl, rfl, rfl⟩, _, _, rfl, rfl⟩
theorem witness_DrainIssue : InRole .mat .m matS ∧ (∀ x ∈ [(true, 10), (false, 12)], Clear (.mdrain 0 false x.1 .f32 .device 8 x.2 255) matS) ∧
    (matS.grp.S 11).toNat % 512 = 1 ∧ (matS.grp.S 11).toNat / 2 ^ 9 % 2 ^ 7 = 0 ∧ (matS.grp.S 11).toNat < 2 ^ 48 ∧ (∀ k ∈ regKeys 8 1, k < matS.grp.vcap) ∧
    (∀ e ∈ (drainElems matS.grp .f32 8 0 4 1).map (·.1), e.2.1 % 4 = 0 ∧ e.2.1 + 4 ≤ matS.spaceSize .d) ∧
    (let heads := drainHeads ((drainElems matS.grp .f32 8 0x10000 4 1).map (·.1))
     pageFaults heads (matS.lanesX .w false heads) = [] ∧ matS.overflows 0 = false) ∧
    (let heads := drainHeads ((drainElems matS.grp .f32 8 0x20000 4 1).map (·.1))
     pageFaults heads (matS.lanesX .w false heads) ≠ []) := by
  refine ⟨⟨rfl, _, rfl, rfl⟩, ?_, by decide, by decide, by decide, by decide, by decide, ⟨by decide, by decide⟩, by decide⟩
  intro x hx; simp only [List.mem_cons, List.not_mem_nil, or_false] at hx
  rcases hx with rfl | rfl <;> exact clear_of_free (by decide)
/-- Drains have issued: to the D-buffer, to global memory, and one that adds. -/
def drainD : State := did (.mdrain 0 true true .f32 .device 8 10 255) matS
def drainG : State := did (.mdrain 0 false false .f32 .device 8 12 255) matS
def drainA : State := did (.mdrain 0 true false .f32 .device 8 12 255) matS
/-- The operation that the drain has left. -/
def drainOf (s : State) : Bool × List (LaneAcc × List Host.Cell) × List Host.Cell := match s.grp.pend.map (fun p : Pend => p.kind) with
  | [.mdrain _ add _ lines dc] => (add, lines, dc)
  | _ => (false, [], [])
theorem pending {g : Group} {q : Nat} {k : PKind} (h : (g.findPend? q).map (fun p => p.kind) = some k) : ∃ p, g.findPend? q = some p ∧ p.kind = k := by
  simpa using h
theorem witness_DrainCompletes : (∀ s ∈ [drainD, drainG, drainA], InFocus 0 0 2 s s ∧ ∃ p, s.grp.findPend? 0 = some p ∧
      p.kind = .mdrain .device (drainOf s).1 false (drainOf s).2.1 (drainOf s).2.2) ∧
    (drainOf drainD).2.2 ≠ [] ∧ drainD.grp.pend.length = 1 ∧ (drainOf drainG).1 = false ∧ (drainOf drainG).2.2 = [] ∧
    (∀ z ∈ (drainOf drainG).2.1, LineFree drainG 0 z) ∧ (drainOf drainA).1 = true ∧ (∃ z ∈ (drainOf drainA).2.1, z.1.key / 128 = 0x800) ∧
    (∀ z ∈ (drainOf drainA).2.1, z.1.key / 128 = 0x800 → drainA.lineMay 0 z = true) ∧ drainA.bad (0x800 * 128) = false := by
  refine ⟨?_, by decide +kernel, by decide +kernel, by decide +kernel, by decide +kernel, ?_, by decide +kernel, by decide +kernel, by decide +kernel, by decide +kernel⟩
  · intro s hs; simp only [List.mem_cons, List.not_mem_nil, or_false] at hs
    rcases hs with rfl | rfl | rfl <;> exact ⟨⟨by decide +kernel, by decide +kernel, by decide +kernel⟩, pending (by decide +kernel)⟩
  · unfold LineFree; decide +kernel
theorem witness_DrainCompletes_added : (let s := did (.mdrainLineInvocation 0 0 2 0 0x800) drainA
    InFocus 0 0 2 s s ∧ ∃ p, s.grp.findPend? 0 = some p ∧ p.kind = .mdrain .device true false [] []) :=
  ⟨⟨by decide +kernel, by decide +kernel, by decide +kernel⟩, pending (by decide +kernel)⟩

/-! ### Headers, words that are no instruction, LAUNCH -/

/-- A group of a kind with a header to come at 0x228: this word. -/
def atHeader (w : W64) (k : RoleKind := .vec) : State :=
  { st [] with
    grp := { (st []).grp with hdr := none, base := 0x228, kind := k }
    core := { icache := [((1, 0x228), w)] } }
theorem witness_HeadersAndWords : (∀ w ∈ [0xF700000000000000#64, 0xF800FFFF00000001#64, 0xF803FFFF00000000#64, 0xF801FFFF00000000#64, 0xF8000FFF00000000#64],
      (atHeader w).grp.hdr = none ∧ (atHeader w).grp.susp = .ready ∧ (atHeader w).grp.base < 2 ^ 53 ∧ (atHeader w).grp.base % 8 = 0 ∧
      (atHeader w).fetch 0x228 = (.word w, atHeader w)) ∧
    (0xF801FFFF00000000#64).toNat / 2 ^ 56 = 0xF8 ∧ (0xF801FFFF00000000#64).toNat % 2 ^ 32 = 0 ∧ (0xF801FFFF00000000#64).toNat / 2 ^ 48 % 16 = 1 ∧
    (atHeader 0xF801FFFF00000000#64).grp.kind ≠ .mat ∧ CountsMet (headerOf 0xF8000FFF00000000 .g) (atHeader 0xF8000FFF00000000#64).grp ∧
    (let g := { (atHeader 0).grp with pend := [{ Pend.new 0x70 (.load [] 4 false false none (.v 1)) with count := some .loads }] }
     ¬ CountsMet (headerOf 0xF8000FFF00000000 .g) g) := by
  refine ⟨?_, by decide, by decide, by decide, by decide, by unfold CountsMet; decide, by simp only [CountsMet]; decide⟩
  intro w hw; simp only [List.mem_cons, List.not_mem_nil, or_false] at hw
  rcases hw with rfl | rfl | rfl | rfl | rfl <;> exact ⟨rfl, rfl, by decide, by decide, rfl⟩
theorem witness_HeadersAndWords_foreign : (st []).grp.windowShut (.nop Guard.always) = false ∧ (st []).grp.hdr = some (hd .g) ∧
    0x90 ≤ (0x9007800000400001#64).toNat / 2 ^ 56 ∧ (0x7407800000000000#64).toNat / 2 ^ 56 = 0x74 ∧ (0x0C00000000000000#64).toNat / 2 ^ 56 = 0x0C := by
  decide
/-- A record stands at 0x10040 or not: its header word; the team's launch is 7. -/
def withRecord (h : Nat) (s : State) : State :=
  { s with
    mem := s.mem.puts (leCells 0x40040 8 h)
    grp := { s.grp with s := [(1, 0x10040), (2, 0x10041)] }
    launches := [{ id := 7, queue := 0, ctx := 1, cell := 0 }] }
def detS (s : State) : State := { s with team := { s.team with det := true } }
theorem witness_LaunchIssue : Clear (.launch 3 2) (withRecord 1 ms) ∧ ((withRecord 1 ms).grp.S 2).toNat % 64 ≠ 0 ∧
    (∀ h ∈ [1 + 22 * 256, 1, 2 + 20 * 256], Clear (.launch 3 1) (withRecord h ms) ∧ (withRecord h ms).releaseReady .device = true ∧
      (withRecord h ms).sharedWait [(0, 0x10040)] = false ∧ ∃ hb s1, (withRecord h ms).readOnce 0x10040 8 = .bytes hb s1 ∧ leNat hb = h ∧
      s1.sharedWait [(0, 0x10040), (0, 0x10040 + 16 * (h / 256) - 1)] = false ∧ ∃ bs s2, s1.readOnce 0x10040 (16 * (h / 256)) = .bytes bs s2 ∧
      s2.team.det = false ∧ s2.team.live = true ∧ s2.team.nlaunch < 65535 ∧ ∃ l, s2.findLaunch? s2.team.launch = some l) := by
  refine ⟨clear_of_free (by decide), by decide, ?_⟩
  intro h hh; simp only [List.mem_cons, List.not_mem_nil, or_false] at hh
  rcases hh with rfl | rfl | rfl <;>
    exact ⟨clear_of_free (by decide), by decide, by decide, _, _, rfl, by decide +kernel, by decide +kernel, _, _, rfl, by decide +kernel,
      by decide +kernel, by decide +kernel, _, rfl⟩
theorem witness_LaunchIssue_det : (let s := detS (withRecord (1 + 22 * 256) ms)
    Clear (.launch 3 1) s ∧ s.team.det = true ∧ s.team.through = false ∧ s.overflows 3 = false ∧ s.sharedWait [(0, 0x10040)] = false) :=
  ⟨clear_of_free (by decide), by decide, by decide, by decide, by decide⟩

/-! ### Line fills, the cinch, issue selection -/

/-- A fill for a home slice whose set holds lines in the ways below w; the line stands at its MSC. -/
def filling (w : Nat) : State :=
  let q : Req := { key := 0x1000, cp := 0, wc := 0, ctx := 1, tag := none, r := 0, code := some 254, due := 7, dirty := true, die := 0 }
  let x : RLine := { unit := mscUnit 0x1000, set := 0, way := 0, line := 0x20, due := 0, tag := none, kind := 2, h := false, ctx := 1, cp := 0, wc := 0,
                     dirty := false, age := 0 }
  { rlines := x :: (List.range w).map fun v => { x with unit := 3, set := setOf 3 0x1000, way := v, line := 100 + v }, fills := [⟨3, q, none⟩] }
theorem witness_LineFills : ∀ w ∈ [0, 15], ∃ f m, (filling w).fills = [f] ∧ isMsc f.unit = false ∧ f.req.key % 128 = 0 ∧
    (filling w).findLine? f.unit f.req.key = none ∧ (filling w).findLine? (mscUnit f.req.key) f.req.key = some m ∧
    (∀ x ∈ (filling w).rlines, x.unit = f.unit → x.set = setOf f.unit f.req.key → x.way ≠ w) ∧ w < 16 ∧
    (∀ v < w, ∃ x ∈ (filling w).rlines, x.unit = f.unit ∧ x.set = setOf f.unit f.req.key ∧ x.way = v) ∧
    f.req.dirty = true ∧ f.req.code = some 254 := by
  intro w hw; simp only [List.mem_cons, List.not_mem_nil, or_false] at hw
  rcases hw with rfl | rfl <;> exact ⟨_, _, rfl, rfl, rfl, by decide, rfl, by decide, by decide, by decide, rfl, rfl⟩
theorem witness_CinchSteps : ∀ b ∈ [255, 256, 1024, 1025], ∃ x, (cinchOf 7 b).cinch[0]? = some x ∧ x.unit = 3 ∧ x.ctx = 7 ∧ 4096 ≤ x.e ∧ x.b = b := by
  intro b hb; exact ⟨_, rfl, rfl, rfl, Nat.le_refl _, rfl⟩
/-- Two groups of a quadrant; this one issued last, and the other, where it did, waits. -/
def pair2 (last : Nat) : State :=
  { st [] with
    groups := [{ (st []).grp with gid := 6, susp := if last = 7 then .parked else .ready }]
    core := { lastQuad := [(2, last)] } }
/-- The group that issued last has its next word, which is no wait point. -/
def amid : State := { pair2 3 with core := { (pair2 3).core with icache := [((1, (pair2 3).grp.addr), 0x0007800000000000#64)] } }
theorem witness_IssueSelection_stays : amid.maySwitch 0 2 = false ∧
    (∀ x ∈ (pair2 0).allGroups, ¬ (x.core = 1 ∧ (pair2 0).canIssue x = true)) ∧ (pair2 0).maySwitch 0 2 = true ∧ (pair2 7).maySwitch 0 2 = true ∧
    ∃ g ∈ (pair2 0).allGroups, (pair2 0).canIssue g = true ∧ 1 + 32 * g.slot + g.gid = 7 := by decide
theorem witness_IssueSelection : ∀ last ∈ [0, 7], (let s := pair2 last
    let may := fun x : Group => x ∈ s.allGroups ∧ x.core = 0 ∧ x.gid % 4 = 2 ∧ s.canIssue x = true
    let turn := fun x : Group => 1 + 32 * x.slot + x.gid
    (∀ x y, may x → may y → turn x = turn y → x = y) ∧ may s.grp ∧ mapGet 0 s.core.lastQuad 2 = last ∧
    ((last < turn s.grp ∧ ∀ x, may x → last < turn x → turn s.grp ≤ turn x) ∨
      ((∀ x, may x → turn x ≤ last) ∧ ∀ x, may x → turn s.grp ≤ turn x))) := by
  intro last hl; simp only [List.mem_cons, List.not_mem_nil, or_false] at hl
  rcases hl with rfl | rfl
  · exact ⟨fun x y hx hy => (by decide : ∀ x ∈ (pair2 0).allGroups, ∀ y ∈ (pair2 0).allGroups, 1 + 32 * x.slot + x.gid = 1 + 32 * y.slot + y.gid → x = y)
      x hx.1 y hy.1, by decide, by decide, .inl ⟨by decide, fun x hx _ =>
        (by decide : ∀ x ∈ (pair2 0).allGroups, 1 + 32 * (pair2 0).grp.slot + (pair2 0).grp.gid ≤ 1 + 32 * x.slot + x.gid) x hx.1⟩⟩
  · exact ⟨fun x y hx hy => (by decide : ∀ x ∈ (pair2 7).allGroups, ∀ y ∈ (pair2 7).allGroups, 1 + 32 * x.slot + x.gid = 1 + 32 * y.slot + y.gid → x = y)
      x hx.1 y hy.1, by decide, by decide, .inr ⟨fun x hx =>
        (by decide : ∀ x ∈ (pair2 7).allGroups, 1 + 32 * x.slot + x.gid ≤ 7) x hx.1, fun x hx =>
        (by decide : ∀ x ∈ (pair2 7).allGroups, 1 + 32 * (pair2 7).grp.slot + (pair2 7).grp.gid ≤ 1 + 32 * x.slot + x.gid) x hx.1⟩⟩

/-! ### Faults -/

theorem witness_FaultTaken : InFocus 0 0 2 (st []) (st []) ∧ (st []).grp.susp ≠ .exited ∧ (st []).grp.susp ≠ .stopped :=
  ⟨⟨rfl, rfl, rfl⟩, by decide, by decide⟩
/-- Context 1 maps 8 GiB, each address to itself; its entry's word is e. Pages 8 to 23 of its second 8 GiB are for demand backing. -/
def mapped (s : State) (e : Nat := 0x3F) : State :=
  { s with
    ctxs := [{ num := 1, root := 0x100000, unkd := 1, dzBase := 0x200010000, dzPages := 16, pool := 0x200000, poolN := 8 }]
    mem := [(0x100000, 1), (0x100003, 0x81)] ++ (leCells 0x102000 8 e).filter fun c => c.2 != 0 }
/-- The group in focus is parked with this record, which is in its cell's ring too. -/
def faulted (kind cause va : Nat) (e : Nat := 0x3F) : State :=
  let s := mapped (st []) e
  let r := { s.record 0x70 { kind := kind, cause := cause, d0 := BitVec.ofNat 64 va, d1 := 1 } with seq := 0 }
  { s with
    grp := { s.grp with susp := .parked, unf := 1, recs := [r] }
    cells := [{ id := 0, clusters := [0], ring := [r] }]
    launches := [{ id := 7, queue := 0, ctx := 1, cell := 0 }] }
theorem witness_FaultResolution : (∀ x ∈ [(1, 0, 0x20001E000, 0x3F), (1, 1, 0x10000, 0x3F), (1, 0, 0x200008000, 0x3F), (2, 0, 0x10000, 0x800000000000003B)],
      let s := faulted x.1 x.2.1 x.2.2.1 x.2.2.2
      InFocus 0 0 2 s s ∧ s.grp.susp = .parked ∧ s.grp.unwritten = false ∧ s.ending = false ∧ ∃ r, s.grp.recs = [r] ∧
        r.kind = x.1 ∧ r.cause = x.2.1 ∧ r.d0.toNat = x.2.2.1) ∧
    InFocus 0 0 2 (st []) (st []) ∧ (st []).grp.susp ≠ .parked ∧
    (faulted 1 0 0x20001E000).walk 1 0x20001E000 = .notMapped ∧ ((faulted 1 0 0x20001E000).backPage 1 0x20001E000).isSome = true ∧
    (faulted 1 0 0x200008000).walk 1 0x200008000 = .notMapped ∧ (faulted 1 0 0x200008000).backPage 1 0x200008000 = none ∧
    (∃ l, (faulted 2 0 0x10000 0x800000000000003B).walk 1 0x10000 = .leaf l ∧ l.mig = true) := by
  refine ⟨?_, ⟨rfl, rfl, rfl⟩, by decide, by decide +kernel, by decide +kernel, by decide +kernel, by decide +kernel, _, rfl, rfl⟩
  intro x hx; simp only [List.mem_cons, List.not_mem_nil, or_false] at hx
  rcases hx with rfl | rfl | rfl | rfl <;> exact ⟨⟨rfl, rfl, rfl⟩, rfl, rfl, rfl, _, rfl, rfl, rfl, rfl⟩
/-- The group was parked with its record not written, and its cell's ring holds this many. -/
def unwritten (n : Nat) : State :=
  let s := faulted 1 0 0x10000
  let r := s.record 0x70 { kind := 1 }
  { s with
    grp := { s.grp with unwritten := true }
    cells := [{ id := 0, clusters := [0], ring := List.replicate n r, overflow := true }] }
theorem witness_FaultResolution_lost : (∃ c, (faulted 1 0 0x10000).findCell? 0 = some c ∧
      ((faulted 1 0 0x10000).allGroups.all fun g => !(g.live && c.has g.core) || !g.unwritten) = true) ∧
    ∃ c, (unwritten 63).findCell? 0 = some c ∧ (unwritten 63).grp.live = true ∧ c.has (unwritten 63).grp.core = true ∧
      (unwritten 63).grp.unwritten = true ∧ (∀ h ∈ (unwritten 63).groups, h.unwritten = false) ∧
      (∀ h ∈ (unwritten 63).groups, h.live = true → h.is (unwritten 63).grp.core (unwritten 63).grp.slot (unwritten 63).grp.gid = false) ∧
      c.ring.length + (unwritten 63).grp.recs.length ≤ 64 ∧ (∀ q ∈ (unwritten 63).cells, q.id = 0 → q = c) :=
  ⟨⟨_, rfl, by decide⟩, _, rfl, rfl, by decide, by decide, by decide, by decide, by decide, by
    intro q hq _; simpa [unwritten] using hq⟩
/-- The team's launch 7 has a status, its first fault at piece 1. -/
def ended : State := { st [] with launches := [{ id := 7, queue := 0, ctx := 1, cell := 0, status := some 9, faultIdx := some 1 }] }
theorem witness_LaunchEnds : ∃ l, ended.findLaunch? 7 = some l ∧ (l.fault.isSome = true ∨ l.status.isSome = true) ∧ ended.launchBusy 7 = false :=
  ⟨_, rfl, .inr rfl, by decide⟩

/-! ### Pages and teams -/

/-- The page at 0x10000 before its migration, in it, and with its copy at 8 GiB. -/
def paged : State := mapped { dev := { state := 2 } }
def migrating (copied : Option Nat) : State :=
  { mapped { dev := { state := 2 } } 0x800000000000003B with
    migs := [{ ctx := 1, va := 0, w := true, copied := copied }] }
theorem witness_PageMigration : (∃ l, paged.walk 1 0x10000 = .leaf l ∧ paged.mem.wf = true ∧ l.mig = false ∧
      (paged.inFlight 1 (ofPage l 0x10000) || paged.heldFor 1 (framesOf (pageStart l 0x10000) l.size)) = false) ∧
    (∃ l, (migrating none).walk 1 0x10000 = .leaf l ∧ (migrating none).mem.wf = true ∧ l.mig = true ∧
      (∃ m ∈ (migrating none).migs, m.ctx = 1 ∧ m.va = pageBase l 0x10000) ∧ (migrating none).run = none ∧ 2 ^ 33 % l.size = 0 ∧ 2 ^ 33 + l.size ≤ 2 ^ 39) ∧
    (∃ l m, (migrating (some (2 ^ 33))).walk 1 0x10000 = .leaf l ∧ (migrating none).mem.wf = true ∧
      (migrating (some (2 ^ 33))).mig? 1 (pageBase l 0x10000) = some m ∧ m.copied = some (2 ^ 33) ∧ (migrating none).dev.devid < 2048 ∧
      (migrating (some (2 ^ 33))).fillsIn (pageStart l 0x10000) l.size = false ∧ (migrating (some (2 ^ 33))).fillsIn (2 ^ 33) l.size = false) ∧
    ∃ l m, (migrating none).walk 1 0x10000 = .leaf l ∧ (migrating none).mig? 1 (pageBase l 0x10000) = some m ∧ m.copied ≠ some (2 ^ 33) := by
  refine ⟨⟨_, rfl, by decide +kernel, rfl, by decide +kernel⟩, ⟨_, rfl, by decide +kernel, rfl, by decide +kernel, rfl, by decide +kernel, by decide +kernel⟩,
    ⟨_, _, rfl, by decide +kernel, by rfl, rfl, by decide +kernel, by decide +kernel, by decide +kernel⟩, _, _, rfl, by rfl, by decide⟩
/-- A forwarding entry; with a copy that it serves. -/
def forwarded (p : List Pend) : State :=
  { st [] with
    core := { fwd := [⟨0, .w, 0, 1, 5⟩] }
    grp := { (st []).grp with pend := p } }
def copying : Pend := { Pend.new 0x74 (.copy true 4 .w none false {} []) with seq := 4 }
theorem witness_Compaction : TeamInFocus 0 0 (st []) (st []) ∧ (st []).team.retiring = false ∧
    (∀ x ∈ [(Buf.w, 63), (.a, 31), (.d, 15)], buddy ((st []).team.bufSize x.1) ≠ 0 ∧ x.2 % buddy ((st []).team.bufSize x.1) = 0 ∧
      x.2 + buddy ((st []).team.bufSize x.1) ≤ (match x.1 with | .w => 64 | .a => 32 | .d => 16) ∧
      (∀ u ∈ (st []).othersBlocks x.1, x.2 + buddy ((st []).team.bufSize x.1) ≤ u.1 ∨ u.1 + u.2 ≤ x.2)) ∧
    (st []).core.fwd.length < 16 ∧ (∀ g ∈ (st []).teamGroups, g.pend = []) ∧
    (∃ c f, (forwarded []).findCore? 0 = some c ∧ c.fwd[0]? = some f ∧ ∀ g ∈ (forwarded []).allGroups, g.pend = []) ∧
    (∃ c f, (forwarded [copying]).findCore? 0 = some c ∧ c.fwd[0]? = some f ∧ ∃ g ∈ (forwarded [copying]).allGroups, g.live = true ∧ g.core = 0 ∧
      ∃ p ∈ g.pend, p.seq < f.before ∧ ∃ o w b r d k xs, p.kind = .copy o w b r d k xs) :=
  ⟨⟨rfl, rfl, rfl⟩, rfl, by decide, by decide, by decide, ⟨_, _, rfl, rfl, by decide⟩, _, _, rfl, rfl, _, .head _, rfl, rfl, _, .head _, by decide,
    _, _, _, _, _, _, _, rfl⟩
/-- The team's queue is privileged, its group waits at a barrier. -/
def parkable (out : Bool) : State :=
  { st [] with
    grp := { (st []).grp with susp := .bar 1 0 0x85 }
    team := { (st []).team with inL2 := out }
    launches := [{ id := 7, queue := 4, ctx := 1, cell := 0 }]
    queues := [{ num := 4, qcb := 0, prio := 0, ceil := 0, priv := true, sla := false, ctx := 1, cell := 0, ring := 0, log2 := 12, rd := 0, wr := 0 }] }
theorem witness_TeamParking : (TeamInFocus 0 0 (parkable false) (parkable false) ∧ ∃ l q, (parkable false).team.retiring = false ∧
      (parkable false).findLaunch? (parkable false).team.launch = some l ∧ (parkable false).findQueue? l.queue = some q ∧ q.priv = true ∧
      (∀ g ∈ (parkable false).teamGroups, g.pend = [] ∧ (match g.susp with
        | .yield _ _ _ | .bar _ _ _ | .ring _ _ _ | .exited => True
        | _ => False))) ∧
    TeamInFocus 0 0 (parkable true) (parkable true) ∧ (parkable true).team.inL2 = true ∧
    (∀ q < 4, vNeed ((parkable true).groupsOn 0 false) q + vNeed (parkable true).teamGroups q ≤ 32) ∧
    sNeed ((parkable true).groupsOn 0 false) + sNeed (parkable true).teamGroups ≤ 1024 := by
  refine ⟨⟨⟨rfl, rfl, rfl⟩, _, _, rfl, rfl, rfl, rfl, ?_⟩, ⟨rfl, rfl, rfl⟩, rfl, by decide, by decide⟩
  intro g hg
  have : g = (parkable false).grp := by simpa [State.teamGroups, State.allGroups, parkable, st] using hg
  subst this; exact ⟨rfl, trivial⟩

/-! ### The Skiver -/

/-- The access succeeds, with this of its outcome. -/
def okWith {α : Type} (p : α → State → Bool) (r : Reach α) : Bool := match r with
  | .ok a s => p a s
  | _ => false
theorem ok_of {α : Type} {p : α → State → Bool} {r : Reach α} (h : okWith p r = true) : ∃ a s, r = .ok a s ∧ p a s = true := by
  cases r with
  | ok a s => exact ⟨a, s, rfl, h⟩
  | waits => exact absurd h (by simp [okWith])
  | fails => exact absurd h (by simp [okWith])
/-- The access fails, or waits. -/
def failsOrWaits {α : Type} (r : Reach α) : Option Bool := match r with
  | .ok _ _ => none
  | .waits => some true
  | .fails => some false
theorem fails_of {α : Type} {r : Reach α} (h : failsOrWaits r = some false) : r = .fails := by cases r <;> first | rfl | cases h
theorem waits_of {α : Type} {r : Reach α} (h : failsOrWaits r = some true) : r = .waits := by cases r <;> first | rfl | cases h

/-- A running device with the contexts, memory and cores of `mapped`, one cell, this launch. -/
def skiving (l : Launch) : State :=
  { mapped { dev := { state := 2 } } with
    cells := [{ id := 0, clusters := [0] }]
    cores := (List.range 7).map fun i => { id := i + 1 }
    launches := [l] }
def recorded : Launch := { worked with cut := 1, cutAddr := 0x10000 }
theorem witness_BandChoice : ∀ l ∈ [worked, { band3 with running := [5] }, { band3 with running := [4] }, { band3 with timed := true },
      { band3 with bx := 8, chosen := [1, 0, 1, 0] }, { worked with replay := some [1, 0] }, recorded],
    (skiving l).findLaunch? 7 = some l ∧ l.harness = false ∧ l.slice < l.z ∧ l.ends = false ∧ ∃ cell, (skiving l).findCell? l.cell = some cell ∧
      cell.halting = false ∧ (skiving l).isSaved 7 = false ∧ (∀ r ∈ l.recs, 0 < r.p ∧ 0 < r.i) ∧ (l.replay.all fun es => decide (es.headD 0 < l.menu.length)) = true ∧
      (∀ e ∈ l.chosen, e < l.menu.length) ∧ l.menu ≠ [] := by
  intro l hl; simp only [List.mem_cons, List.not_mem_nil, or_false] at hl
  rcases hl with rfl | rfl | rfl | rfl | rfl | rfl | rfl <;>
    exact ⟨rfl, rfl, by decide, rfl, _, rfl, rfl, rfl, by decide, by decide, by decide, by decide⟩
theorem witness_BandChoice_recorded : recorded.cut = 1 ∧ recorded.recLost = false ∧ (recorded.cutWith 8 0 false).slice < recorded.z ∧
    (match (launchWith 7 (fun _ => recorded.cutWith 8 0 false) (skiving recorded)).writeCtx recorded.ctx (recorded.cutAddr + 16 * (recorded.chosen.length + 1))
      (leBytes 8 0 ++ leBytes 8 recorded.nextIdx) with
      | .ok _ _ => true
      | _ => false) = true := by decide +kernel
/-- A body of one group for the points and one other; a launch of it with a piece cut; a harness of two; a pair. -/
def body2 : Body := { addr := 0x20000, entry := 0x30000, wg := 3, ag := 1, dg := 16, priv := 256, roles := [⟨.vec, 0, 64, 64⟩, ⟨.cpy, 1, 8, 16⟩] }
def cutPiece : Piece := { idx := 0, ex := 16, ey := 2 }
def dispatching (k : Nat) : Launch :=
  { worked with
    bodies := if k = 2 then [(body2, [5]), (body2, [6])] else [({ body2 with pair := k == 1 }, [5])]
    harness := k == 2, cutq := [cutPiece], menu := [⟨16, 2, 0⟩] }
theorem witness_PieceDispatch : ∀ k ∈ [0, 1, 2], ∃ l x c ps, (skiving (dispatching k)).findLaunch? 7 = some l ∧
    (skiving (dispatching k)).ready? l = some (x, c, ps) ∧ (skiving (dispatching k)).goesFirst l = false := by
  intro k hk; simp only [List.mem_cons, List.not_mem_nil, or_false] at hk
  rcases hk with rfl | rfl | rfl <;> exact ⟨_, _, _, _, rfl, rfl, by decide⟩
theorem witness_PieceDispatch_spot : ∃ p, (skiving worked).spot? body2 32 7 = some p := ⟨_, rfl⟩
/-- A held write of these bytes. -/
def heldBytes (slots : Nat) (cs : List Host.Cell) : Held :=
  { chain := 0, gid := 0, seq := 0, lane := 0, core := 0, team := 0, base := 0, slot := 0, opc := 0x71, slots := slots, cp := 0, wc := 0, order := 0,
    thread := none, kind := .bytes cs }
def done0 : Retired := { idx := 0, held := [(1, 0, heldBytes 1 [(0x40000, 7)]), (0, 0, heldBytes 1 [(0x40000, 8)])] }
def retiredL : Launch := { worked with retired := [done0], faultIdx := some 1 }
theorem witness_Commit : ∃ l, (skiving retiredL).findLaunch? 7 = some l ∧ l.retired.find? (fun r => r.idx == l.committed) = some done0 ∧
    done0.idx ∉ l.running ∧ (∀ f, l.faultIdx = some f → done0.idx < f) ∧ (skiving retiredL).commitHeld l = false ∧
    (skiving retiredL).cellChildren l.cell + 0 ≤ 256 ∧ (skiving retiredL).commitServed done0.held = true ∧
    ((skiving retiredL).applyAll l done0.idx done0.held).isSome = true ∧
    (((commitOrder done0.held).filter fun h => !h.2.2.isChild).map (fun h => h.2.2.kind) = [[(0x40000, 8)], [(0x40000, 7)]].map HeldKind.bytes ∧
      ∀ cs ∈ [[((0x40000 : Nat), (8 : Byte))], [(0x40000, 7)]], ∀ c ∈ cs, (skiving retiredL).poisoned.contains (c.1 / 128) = false) :=
  ⟨_, rfl, rfl, by decide, fun f h => by cases h; decide, rfl, by decide, by decide, by decide +kernel, by decide, by decide⟩
/-- The commit area of the team is full, and a store to a shared page comes next. -/
def crammed : State :=
  let i := Instr.st g0 .b4 .glob false .group 3 2 1 255
  let s := withPage (st [(1, 0x10000)] [(65, 4)])
  { s with
    team := { s.team with det := true, shared := [(0x10000, 8192)], held := [heldBytes Config.commitSlots [(0x40000, 9)]] }
    core := { icache := [((1, s.grp.addr), BitVec.ofNat 64 (encode i))] }
    launches := [{ id := 7, queue := 0, ctx := 1, cell := 0, det := true, running := [0] }] }
theorem witness_Commit_overflow : InFocus 0 0 2 crammed crammed ∧ crammed.grp.susp = .ready ∧ ∃ ins l, crammed.inHand? = some ins ∧
    crammed.findLaunch? crammed.team.launch = some l ∧ crammed.overflows (crammed.slotNeed ins) = true ∧ crammed.oldest = true ∧ crammed.ending = false ∧
    crammed.commitHeld l = false ∧ (let held := crammed.pieceTeams.flatMap (fun t => t.held.map fun h => (t.core, t.slot, h)) ++
        (l.retired.filter fun r => r.idx == crammed.team.piece.idx).flatMap (·.held)
      crammed.commitServed held = true ∧ (crammed.applyAll l crammed.team.piece.idx held).isSome = true ∧ crammed.holds ins = false ∧
      Instr.isNever ins = false ∧ crammed.grp.bounds ins = none ∧
      ((commitOrder held).filter fun h => !h.2.2.isChild).map (fun h => h.2.2.kind) = [[(0x40000, 9)]].map HeldKind.bytes) ∧ crammed.team.live = true :=
  ⟨⟨rfl, rfl, rfl⟩, rfl, _, _, rfl, rfl, by decide +kernel, by decide +kernel, by decide +kernel, by decide +kernel,
    by decide +kernel, rfl⟩
/-- A child of launch 7 whose record has these flags; a launch that has nothing left. -/
def childS (flags : Nat) : State :=
  { skiving worked with
    children := [{ id := 9, queue := 0, ctx := 1, cell := 0, parent := 7, k := 0, i := 0, bytes := leBytes 8 (1 + 22 * 256 + flags) ++ List.replicate 344 0 }]
    launches := if flags = 0 then [worked] else [] }
theorem witness_LaunchBoundaries_child : ∀ fl ∈ [0, 2 ^ 17], ∃ c k, (childS fl).children.find? (fun c => c.id == 9) = some c ∧
    ((childS fl).children.find? fun x => x.queue == c.queue).map (·.id) = some 9 ∧ (childS fl).findCell? c.cell = some k ∧ (childS fl).mayRun k c.ctx = true ∧ (childS fl).childDue c = true ∧ (∀ l ∈ (childS fl).launches, l.id ≠ 9) ∧
    (leNat (c.bytes.take 8) / 2 ^ 17 % 2 = 1 → ∀ l ∈ (childS fl).launches, l.queue = c.queue → 9 ≤ l.id) := by
  intro fl hfl; simp only [List.mem_cons, List.not_mem_nil, or_false] at hfl
  rcases hfl with rfl | rfl <;> exact ⟨_, _, rfl, rfl, rfl, by decide, by decide, by decide, by decide⟩
/-- A child of a piece of a DET launch: not committed, committed, or with the parent ending. -/
theorem witness_LaunchBoundaries_due : ∀ x ∈ [(0, none, false), (1, none, true), (1, some 3, false)],
    let s := { childS 0 with launches := [{ worked with det := true, committed := x.1, status := x.2.1 }] }
    ∃ c ∈ s.children, s.childDue c = x.2.2 := by decide
def spent (signal : Nat) : Launch := { worked with slice := 1, signal := signal, stop := true, status := some 9 }
theorem witness_LaunchBoundaries : (∀ a ∈ [0, 0x10000, 0x400000000], ∃ l, (skiving (spent a)).findLaunch? 7 = some l ∧ (skiving (spent a)).launchDone l = true ∧
      l.signal = a ∧ l.stop = true ∧ statusOf l ≠ 0 ∧ (skiving (spent a)).qcbServed l.queue = true) ∧
    (∃ s1, (skiving (spent 0x10000)).writeCtx 1 0x10000 (leBytes 8 (statusOf (spent 0x10000))) = .ok () s1) ∧
    (skiving (spent 0x400000000)).writeCtx 1 0x400000000 (leBytes 8 (statusOf (spent 0x400000000))) = .fails ∧
    (let s := { skiving (spent 0x10000) with run := some { ringRun 8 with gid := 5, key := 0x10000 } }
     s.writeCtx 1 0x10000 (leBytes 8 (statusOf (spent 0x10000))) = .waits) := by
  refine ⟨?_, ?_, fails_of (by decide +kernel), waits_of (by decide +kernel)⟩
  case refine_2 =>
    obtain ⟨_, s1, h, -⟩ := ok_of (p := fun _ _ => true) (r := (skiving (spent 0x10000)).writeCtx 1 0x10000 (leBytes 8 (statusOf (spent 0x10000)))) (by decide +kernel)
    exact ⟨s1, h⟩
  intro a ha; simp only [List.mem_cons, List.not_mem_nil, or_false] at ha
  rcases ha with rfl | rfl | rfl <;> exact ⟨_, rfl, by decide, rfl, rfl, by decide, by decide⟩

/-! ### The queue front end -/

/-- Queue 4 of context 1 stands on slot 0 of cell 0; its ring holds these words from 0x300000 on. -/
def q4 (ws : List Nat) : Queue :=
  { num := 4, qcb := 0x280000, prio := 1, ceil := 3, priv := false, sla := false, ctx := 1, cell := 0, ring := 0x300000, log2 := 12, rd := 0
    wr := 8 * ws.length }
def fronted (ws : List Nat) : State :=
  let s := skiving worked
  { s with
    mem := s.mem ++ (ws.mapIdx fun i w => if w = 0 then [] else (leCells (0x300000 + 8 * i) 8 w).filter fun c => c.2 != 0).flatten
    launches := [], slots := [{ idx := 0, cell := 0, queue := some 4 }], queues := [q4 ws], nextLaunch := 3 }
def packet (ws : List Nat) : List Byte := ws.flatMap (leBytes 8)
/-- `InTurn` and `Looks`, evaluated. -/
def looksIn (s : State) (q : Queue) : Bool :=
  s.slotQueue? 0 == some q && (match s.slotOf? 0 with
    | some x => (s.slotsBefore x).all fun y => !s.slotReady y.idx
    | none => false) && !q.halt && decide (q.rd + 8 ≤ q.wr) &&
  (match s.findCell? q.cell with
    | some k => !k.halting
    | none => false) && s.dev.lockWanted.isNone && s.children.all (fun c => c.queue != q.num) && s.served q.qcb
theorem looks {s : State} {q : Queue} (h : looksIn s q = true) : Looks 0 q s := by
  simp only [looksIn, Bool.and_eq_true, beq_iff_eq, decide_eq_true_eq, Bool.not_eq_true', Option.isNone_iff_eq_none, List.all_eq_true, bne_iff_ne] at h
  obtain ⟨⟨⟨⟨⟨⟨⟨h1, h2⟩, h3⟩, h4⟩, h5⟩, h6⟩, h7⟩, h8⟩ := h
  refine ⟨h1, ?_, h3, h4, ?_, h6, h7, h8⟩
  · cases hx : s.slotOf? 0 with
    | none => simp [hx] at h2
    | some x => exact ⟨x, hx, by simpa [hx] using h2⟩
  · cases hk : s.findCell? q.cell with
    | none => simp [hk] at h5
    | some k => exact ⟨k, rfl, by simpa [hk] using h5⟩
/-- Context 1 maps its first 8 GiB to itself, A and D set; no stitch holds a line from 2 MiB on, and none is poisoned. -/
def flat (s : State) : Bool :=
  (match s.findCtx? 1 with
    | some c => c.root == 0x100000
    | none => false) && s.mem.word 0x100000 8 == 0x81000001 && s.mem.word 0x102000 8 == 0x3F && s.mem.byte 0x102000 == 0x3F && s.dev.devid == 0 &&
  s.poisoned.isEmpty && (match s.run with
    | some r => decide (r.key < 2 ^ 21)
    | none => true)
/-- The access of one byte of it. -/
def byteAt (va : Nat) : LaneAcc := { lane := 0, va := va, key := va, leaf := leafOf 0 2 0x3F 0x102000 va }

theorem reach_flat {s : State} (h : flat s = true) {va : Nat} (hv : va < 2 ^ 33) (hv' : 2 ^ 21 ≤ va) : s.reach 1 va .r = .ok (byteAt va) s := by
  simp only [flat, Bool.and_eq_true, beq_iff_eq, List.isEmpty_iff] at h
  obtain ⟨⟨⟨⟨⟨⟨h1, h2⟩, h3⟩, h4⟩, h5⟩, h7⟩, h6⟩ := h
  have hn : nonCanonical va = false := by simp only [nonCanonical, decide_eq_false_iff_not]; omega
  have hw : s.walk 1 va = .leaf (leafOf 0 2 0x3F 0x102000 va) := by
    cases hc : s.findCtx? 1 with
    | none => simp [hc] at h1
    | some c =>
      simp only [hc, beq_iff_eq] at h1
      have e3 : vaIndex 3 va = 0 := by simp only [vaIndex, bits]; omega
      have e2 : vaIndex 2 va = 0 := by simp only [vaIndex, bits]; omega
      simp only [State.walk, hc, h1, h5]
      rw [walkFrom, e3, Nat.mul_zero, Nat.add_zero, h2]
      simp only [show bitAt 0x81000001 0 = true from rfl, show bits 0x81000001 3 1 = 0 from rfl, show pointerBad 0x81000001 = false from rfl,
        show bits 0x81000001 62 24 * 8192 = 0x102000 from rfl]
      rw [walkFrom, e2, Nat.mul_zero, Nat.add_zero, h3]
      rfl
  have hb : s.backed 1 va = s := by simp only [State.backed, hw]
  have hk : (leafOf 0 2 0x3F 0x102000 va).base + va % 8192 = va := by
    simp only [Machine.leafOf, pageSize, show frameKey 0 0x3F = 0 from rfl]; omega
  have hg : (leafOf 0 2 0x3F 0x102000 va).grants .r = true := by simp [Leaf.grants, Machine.leafOf, show bitAt 63 1 = true from rfl]
  have hs : s.served va = true := by
    cases hr : s.run with
    | none => simp only [State.served, hr]
    | some r =>
      simp only [hr, decide_eq_true_eq] at h6
      simp only [State.served, hr, bne_iff_ne]; omega
  have hp : s.bad va = false := by
    simp only [State.bad, h7, Bool.or_eq_false_iff, Bool.and_eq_false_iff]
    exact ⟨rfl, .inl (decide_eq_false (by simp only [peerBase]; omega))⟩
  have he : (leafOf 0 2 0x3F 0x102000 va).entry = 0x102000 := rfl
  simp only [State.reach, hn, hb, hw, hk, hg, hs, hp, byteAt, State.setAD, Need.writes, he, h4]
  simp

theorem readCtx_flat {s : State} (h : flat s = true) (n va : Nat) (hv : va + n ≤ 2 ^ 33) (hv' : 2 ^ 21 ≤ va) :
    s.readCtx 1 va n = .ok ((List.range n).map fun i => s.mem.byte (va + i)) (s.askHome 1 false ((List.range n).map fun i => byteAt (va + i))) := by
  have all : ∀ l : List Nat, (∀ a ∈ l, a < 2 ^ 33 ∧ 2 ^ 21 ≤ a) → s.reachAll 1 .r l = .ok (l.map byteAt) s := by
    intro l
    induction l with
    | nil => intro _; rfl
    | cons a l ih =>
      intro hl
      simp only [State.reachAll, reach_flat h (hl a (.head _)).1 (hl a (.head _)).2, Reach.bind, ih fun b hb => hl b (.tail _ hb), List.map_cons]
  simp only [State.readCtx]
  rw [all _ (by intro a ha; simp only [List.mem_map, List.mem_range] at ha; obtain ⟨i, hi, rfl⟩ := ha; omega)]
  simp only [Reach.bind, List.map_map, Function.comp_def]
  rfl
/-- `Offered`, evaluated, with something more of the state after the packet has been read. -/
def offeredIn (ty : Nat) (ws : List Nat) (s : State) (q : Queue) (more : State → Bool) : Bool :=
  let bs := packet ws
  let va := q.ring + q.rd % 2 ^ q.log2
  let hd := (List.range 8).map fun i => s.mem.byte (va + i)
  let h := leNat (hd.take 8)
  let n := 16 * (h / 2 ^ 8 % 2 ^ 8)
  let m := if ty = 7 then 8 else n
  let s0 := s.askHome 1 false ((List.range 8).map fun i => byteAt (va + i))
  let w := (List.range 8).map fun i => s0.mem.byte (va + 8 + i)
  let s1 := if ty = 2 then s0.askHome 1 false ((List.range 8).map fun i => byteAt (va + 8 + i)) else s0
  let s2 := s1.askHome 1 false ((List.range m).map fun i => byteAt (va + i))
  looksIn s q && flat s && flat s0 && flat s1 && q.ctx == 1 && decide (va + m ≤ 2 ^ 33) && decide (va + 16 ≤ 2 ^ 33) && decide (2 ^ 21 ≤ va) &&
  (decide (h < 2 ^ 17) && h % 2 ^ 8 == ty && lenOk ty (h / 2 ^ 8 % 2 ^ 8) &&
    (ty != 2 || leNat (w.take 8) % 16 == (h / 2 ^ 8 % 2 ^ 8 - 2) / 9) &&
    decide (q.rd % 2 ^ q.log2 + n ≤ 2 ^ q.log2) && decide (n ≤ 2 ^ q.log2) && decide (q.rd + n ≤ q.wr)) &&
  (((List.range m).map fun i => s1.mem.byte (va + i)) == (if ty = 7 then bs.take 8 else bs)) && s2.findQueue? q.num == some q && more s2
theorem offers {ty : Nat} {ws : List Nat} {s : State} {q : Queue} {more : State → Bool} {bs : List Byte} (h : offeredIn ty ws s q more = true)
    (hb : (if ty = 7 then (packet ws).take 8 else packet ws) = bs) : ∃ s2, Offered 0 ty q bs s s2 ∧ more s2 = true := by
  subst hb
  simp only [offeredIn, Bool.and_eq_true, beq_iff_eq, decide_eq_true_eq, Bool.or_eq_true, bne_iff_ne] at h
  obtain ⟨⟨⟨⟨⟨⟨⟨⟨⟨⟨⟨hl, f1⟩, f0⟩, f2⟩, hq⟩, v1⟩, v2⟩, v3⟩, ⟨⟨⟨⟨⟨⟨h1, h2⟩, h3⟩, h4⟩, h5⟩, h6⟩, h7⟩⟩, h8⟩, h9⟩, h10⟩ := h
  refine ⟨_, ⟨looks hl, _, s.askHome 1 false ((List.range 8).map fun i => byteAt (q.ring + q.rd % 2 ^ q.log2 + i)),
    if ty = 2 then (s.askHome 1 false ((List.range 8).map fun i => byteAt (q.ring + q.rd % 2 ^ q.log2 + i))).askHome 1 false
      ((List.range 8).map fun i => byteAt (q.ring + q.rd % 2 ^ q.log2 + 8 + i)) else
      s.askHome 1 false ((List.range 8).map fun i => byteAt (q.ring + q.rd % 2 ^ q.log2 + i)),
    by rw [hq]; exact readCtx_flat f1 8 _ (by omega) v3, ?_⟩, h10⟩
  refine ⟨by omega, h2, h3, fun ht => if_neg ht, fun ht => ?_, fun _ => h5, h6, h7, fun hb => ?_, ?_, h9⟩
  · rcases h4 with h | h
    · exact absurd ht h
    · exact ⟨_, by rw [hq, if_pos ht]; exact readCtx_flat f0 8 _ (by omega) (by omega), h⟩
  · exfalso; omega
  · rw [← h8, hq]; exact readCtx_flat f2 _ _ v1 v3
def spaceWs (signal : Nat) : List Nat := [1 + 22 * 256] ++ List.replicate 9 0 ++ [signal] ++ List.replicate 33 0
def harnessWs (signal : Nat) : List Nat := [2 + 20 * 256, 2, signal] ++ List.replicate 37 0
/-- The cell runs context 2. -/
def elsewhere (s : State) : State :=
  { s with
    cells := [{ id := 0, clusters := [0], ctx := some 2 }]
    launches := [{ worked with id := 1, ctx := 2 }] }
/-- What is made of a launch packet. -/
def madeOf (ws : List Nat) (s2 : State) : Option State :=
  acceptRecord s2.nextLaunch 4 1 0 none none (packet ws) (cellWith 0 (fun k => { k with ctx := some 1 })
    (State.bindCtx 1 { accepted (q4 ws) (packet ws) ((q4 ws).rd + (packet ws).length) s2 with nextLaunch := s2.nextLaunch + 1 }))
/-- A launch packet is offered, its cell may take it or not, and the launch is made. -/
def launchable (ty : Nat) (ws : List Nat) (may : Bool) (s : State) : Prop :=
  ∃ s2 k, Offered 0 ty (q4 ws) (packet ws) s s2 ∧ (packet ws).length = 16 * (leNat ((packet ws).take 8) / 2 ^ 8 % 2 ^ 8) ∧
  leNat ((packet ws).take 8) % 2 ^ 8 = ty ∧ s2.findCell? 0 = some k ∧ s2.mayRun k 1 = may ∧ (∀ m ∈ s2.launches, m.id ≠ s2.nextLaunch) ∧
  madeOf ws s2 ≠ none
theorem launches {ty : Nat} {ws : List Nat} {may : Bool} {s : State} (h7 : ty ≠ 7) (h : offeredIn ty ws s (q4 ws) (fun s2 =>
      (match s2.findCell? 0 with
        | some k => s2.mayRun k 1 == may
        | none => false) && s2.launches.all (fun m => m.id != s2.nextLaunch) && (madeOf ws s2).isSome) = true)
    (h1 : ((packet ws).length == 16 * (leNat ((packet ws).take 8) / 2 ^ 8 % 2 ^ 8) && leNat ((packet ws).take 8) % 2 ^ 8 == ty) = true) :
    launchable ty ws may s := by
  simp only [Bool.and_eq_true, beq_iff_eq] at h1
  obtain ⟨s2, ho, hm⟩ := offers h (if_neg h7)
  simp only [Bool.and_eq_true, List.all_eq_true, bne_iff_ne] at hm
  obtain ⟨⟨hk, hl⟩, ha⟩ := hm
  cases hc : s2.findCell? 0 with
  | none => simp [hc] at hk
  | some k => exact ⟨s2, k, ho, h1.1, h1.2, hc, by simpa [hc] using hk, hl, by intro h; simp [h] at ha⟩
theorem witness_LaunchPackets_space : launchable 1 (spaceWs 0x10000) true (fronted (spaceWs 0x10000)) ∧
    launchable 1 (spaceWs 4) true (fronted (spaceWs 4)) ∧ launchable 1 (spaceWs 0x10000) false (elsewhere (fronted (spaceWs 0x10000))) ∧
    packetWord (packet (spaceWs 0x10000)) 10 % 8 = 0 ∧ packetWord (packet (spaceWs 4)) 10 % 8 ≠ 0 :=
  ⟨launches (by decide) (by decide +kernel) (by decide +kernel), launches (by decide) (by decide +kernel) (by decide +kernel),
    launches (by decide) (by decide +kernel) (by decide +kernel), by decide +kernel, by decide +kernel⟩
theorem witness_LaunchPackets_harness : launchable 2 (harnessWs 0x10000) true (fronted (harnessWs 0x10000)) ∧
    launchable 2 (harnessWs 4) true (fronted (harnessWs 4)) ∧
    packetWord (packet (harnessWs 0x10000)) 2 % 8 = 0 ∧ packetWord (packet (harnessWs 4)) 2 % 8 ≠ 0 :=
  ⟨launches (by decide) (by decide +kernel) (by decide +kernel), launches (by decide) (by decide +kernel) (by decide +kernel), by decide +kernel,
    by decide +kernel⟩
/-- A header at an offset of the ring, with the word after it where that stands in the ring. -/
def headed (h nt rd : Nat) : State :=
  let s := fronted [h, nt]
  { s with
    queues := [{ q4 [h, nt] with rd := rd, wr := 4096 }]
    mem := s.mem.puts (leCells (0x300000 + rd) 8 h ++ if rd + 16 ≤ 4096 then leCells (0x300008 + rd) 8 nt else []) }
/-- The header is looked at and is read; and the word after it. -/
def headerAt (h nt rd : Nat) : Prop := Looks 0 { q4 [h, nt] with rd := rd, wr := 4096 } (headed h nt rd) ∧
  ∃ hd s1, (headed h nt rd).readCtx 1 (0x300000 + rd) 8 = .ok hd s1 ∧ (leNat (hd.take 8) == h) = true
def wordAfter (h nt rd : Nat) : Prop := ∃ hd s1, (headed h nt rd).readCtx 1 (0x300000 + rd) 8 = .ok hd s1 ∧
  okWith (fun w _ => leNat (w.take 8) == nt) (s1.readCtx 1 (0x300000 + rd + 8) 8) = true
theorem header_at {h nt rd : Nat} (h1 : looksIn (headed h nt rd) { q4 [h, nt] with rd := rd, wr := 4096 } = true)
    (h2 : okWith (fun hd _ => leNat (hd.take 8) == h) ((headed h nt rd).readCtx 1 (0x300000 + rd) 8) = true) : headerAt h nt rd :=
  ⟨looks h1, ok_of h2⟩
theorem word_after {h nt rd : Nat} (h2 : okWith (fun _ s1 => okWith (fun w _ => leNat (w.take 8) == nt) (s1.readCtx 1 (0x300000 + rd + 8) 8))
    ((headed h nt rd).readCtx 1 (0x300000 + rd) 8) = true) : wordAfter h nt rd := ok_of h2
theorem witness_LaunchPackets_header : (headerAt (2 ^ 19 + 3 + 2 * 256) 0 0 ∧ headerAt (3 + 3 * 256) 0 0 ∧ headerAt (8 + 256) 0 0 ∧
      headerAt (1 + 22 * 256) 0 (4096 - 16) ∧ headerAt (2 + 20 * 256) 0 (4096 - 8) ∧ headerAt (2 + 20 * 256) 3 0 ∧
      headerAt (2 + 20 * 256) 2 (4096 - 16)) ∧
    2 ^ 19 ≤ 2 ^ 19 + 3 + 2 * 256 ∧ lenOk 3 3 = false ∧ lenOk 8 1 = false ∧ lenOk 1 22 = true ∧ lenOk 2 20 = true ∧ 2 ^ 12 < 4096 - 16 + 16 * 22 ∧
    2 ^ 12 < 4096 - 8 + 16 := by
  refine ⟨⟨?_, ?_, ?_, ?_, ?_, ?_, ?_⟩, by decide, by decide, by decide, by decide, by decide, by decide, by decide⟩ <;>
    exact header_at (by decide +kernel) (by decide +kernel)
/-- NT is wrong, or right before a straddle; WR does not cover it. -/
theorem witness_LaunchPackets_nt : wordAfter (2 + 20 * 256) 3 0 ∧ wordAfter (2 + 20 * 256) 2 (4096 - 16) ∧ 3 % 16 ≠ (20 - 2) / 9 ∧ 2 % 16 = (20 - 2) / 9 ∧
    (let q := { q4 [2 + 20 * 256, 2] with wr := 8 }
     Looks 0 q { headed (2 + 20 * 256) 2 0 with queues := [q] }) :=
  ⟨word_after (by decide +kernel), word_after (by decide +kernel), by decide, by decide, looks (by decide +kernel)⟩
/-- The ring's page is not mapped; a stitch holds the header's line. -/
def headless : State := { headed (3 + 2 * 256) 0 0 with ctxs := [] }
def headHeld : State := { headed (3 + 2 * 256) 0 0 with run := some { ringRun 8 with gid := 5, key := 0x300000 } }
theorem witness_LaunchPackets_unread : Looks 0 { q4 [3 + 2 * 256, 0] with rd := 0, wr := 4096 } headless ∧
    headless.readCtx 1 0x300000 8 = .fails ∧ Looks 0 { q4 [3 + 2 * 256, 0] with rd := 0, wr := 4096 } headHeld ∧
    headHeld.readCtx 1 0x300000 8 = .waits :=
  ⟨looks (by decide +kernel), fails_of (by decide +kernel), looks (by decide +kernel), waits_of (by decide +kernel)⟩

/-- WAIT on the word at 0x10000, or on one in host memory; SIGNAL, CUTLOAD, STDEF, PAD. -/
def waitWs (addr v cond : Nat) : List Nat := [3 + 2 * 256, addr, v, cond]
def signalWs (addr op : Nat) : List Nat := [4 + 2 * 256, addr, 5, op]
/-- The same with virtual addresses from 16 GiB on in host memory. -/
def hosted (s : State) : State := { s with mem := s.mem.puts (leCells 0x102010 8 0x103F) }
/-- The comparison of a WAIT. -/
def holdsIn (cond v x : Nat) : Bool := (cond == 0 && v == x) || (cond == 1 && v != x) || (cond == 2 && decide (x ≤ v)) || (cond == 3 && decide (v < x))
theorem holdsIn_iff (cond v x : Nat) : Holds cond v x ↔ holdsIn cond v x = true := by
  simp only [Holds, holdsIn, Bool.or_eq_true, Bool.and_eq_true, beq_iff_eq, bne_iff_ne, decide_eq_true_eq, or_assoc]
/-- A WAIT on this word is offered, and the word is reached at this key, where the comparison holds or not. -/
def waiting (addr v cond key : Nat) (holds : Bool) (s : State) : Prop :=
  ∃ s2 a s3, Offered 0 3 (q4 (waitWs addr v cond)) (packet (waitWs addr v cond)) s s2 ∧
    s2.reach 1 (packetWord (packet (waitWs addr v cond)) 1) .r = .ok a s3 ∧ a.key = key ∧
    packetWord (packet (waitWs addr v cond)) 1 % 8 = 0 ∧ packetWord (packet (waitWs addr v cond)) 3 < 4 ∧
    (Holds (packetWord (packet (waitWs addr v cond)) 3) (s3.mem.word a.key 8) (packetWord (packet (waitWs addr v cond)) 2) ↔ holds = true)
theorem waits {addr v cond key : Nat} {holds : Bool} {s : State} (h : offeredIn 3 (waitWs addr v cond) s (q4 (waitWs addr v cond)) (fun s2 =>
      okWith (fun a s3 => a.key == key && (holdsIn (packetWord (packet (waitWs addr v cond)) 3) (s3.mem.word a.key 8)
        (packetWord (packet (waitWs addr v cond)) 2) == holds)) (s2.reach 1 (packetWord (packet (waitWs addr v cond)) 1) .r)) = true)
    (h1 : packetWord (packet (waitWs addr v cond)) 1 % 8 = 0 ∧ packetWord (packet (waitWs addr v cond)) 3 < 4) : waiting addr v cond key holds s := by
  obtain ⟨s2, ho, hm⟩ := offers h (if_neg (by decide))
  obtain ⟨a, s3, hr, hm⟩ := ok_of hm
  simp only [Bool.and_eq_true, beq_iff_eq] at hm
  exact ⟨s2, a, s3, ho, hr, hm.1, h1.1, h1.2, by rw [holdsIn_iff, hm.2]⟩
theorem witness_QueuePackets_wait : ∀ x ∈ [(0, 0, true), (1, 1, true), (1, 2, false), (0, 3, false)],
    waiting 0x10000 x.1 x.2.1 0x10000 x.2.2 (fronted (waitWs 0x10000 x.1 x.2.1)) := by
  intro x hx; simp only [List.mem_cons, List.not_mem_nil, or_false] at hx
  rcases hx with rfl | rfl | rfl | rfl <;> exact waits (by decide +kernel) (by decide +kernel)
theorem witness_QueuePackets_host : waiting 0x400000000 0 0 (2 ^ 52) true (hosted (fronted (waitWs 0x400000000 0 0))) :=
  waits (by decide +kernel) (by decide +kernel)
/-- A SIGNAL of this word is offered, and the word is reached, waits for, or fails. -/
def signalling (addr op : Nat) (s : State) (out : Option Bool) : Prop :=
  ∃ s2, Offered 0 4 (q4 (signalWs addr op)) (packet (signalWs addr op)) s s2 ∧
    failsOrWaits (s2.reach 1 (packetWord (packet (signalWs addr op)) 1) (if packetWord (packet (signalWs addr op)) 3 = 1 then .rw else .w)) = out
theorem signals {addr op : Nat} {s : State} {out : Option Bool} (h : offeredIn 4 (signalWs addr op) s (q4 (signalWs addr op)) (fun s2 =>
      failsOrWaits (s2.reach 1 (packetWord (packet (signalWs addr op)) 1) (if packetWord (packet (signalWs addr op)) 3 = 1 then .rw else .w)) == out) = true) :
    signalling addr op s out := by
  obtain ⟨s2, ho, hm⟩ := offers h (if_neg (by decide))
  exact ⟨s2, ho, by simpa using hm⟩
theorem witness_QueuePackets_signal : (∀ op ∈ [0, 1], signalling 0x10000 op (fronted (signalWs 0x10000 op)) none) ∧
    signalling 0x400000000 0 (fronted (signalWs 0x400000000 0)) (some false) ∧
    signalling 0x10000 0 { fronted (signalWs 0x10000 0) with run := some { ringRun 8 with gid := 5, key := 0x10000 } } (some true) ∧
    packetWord (packet (signalWs 0x10000 1)) 1 % 8 = 0 ∧ packetWord (packet (signalWs 0x10000 1)) 3 = 1 := by
  refine ⟨?_, signals (by decide +kernel), signals (by decide +kernel), by decide +kernel, by decide +kernel⟩
  intro op hop; simp only [List.mem_cons, List.not_mem_nil, or_false] at hop
  rcases hop with rfl | rfl <;> exact signals (by decide +kernel)
/-- CUTLOAD of the record at 0x20000; STDEF of the bytes at 0x40000 for slot 255; PAD. -/
def cutWs : List Nat := [5 + 256, 0x20000]
def defWs : List Nat := [6 + 2 * 256, 0x40000, 255, 0x50000]
def padWs : List Nat := [7 + 256, 0]
theorem witness_QueuePackets : (∃ s2, Offered 0 5 (q4 cutWs) (packet cutWs) (fronted cutWs) s2) ∧
    (∃ s2, Offered 0 6 (q4 defWs) (packet defWs) (fronted defWs) s2 ∧ okWith (fun img s3 =>
      let r := s3.install 1 255 img
      okWith (fun _ s4 => s4.findQueue? 4 == some (q4 defWs)) (r.2.2.writeCtx 1 0x50000 (leBytes 8 (r.1 + 256 * r.2.1)))) (s2.readImage 1 0x40000) = true) ∧
    ∃ s2, Offered 0 7 (q4 padWs) ((packet padWs).take 8) (fronted padWs) s2 := by
  refine ⟨?_, offers (by decide +kernel) (if_neg (by decide)), ?_⟩
  · obtain ⟨s2, h, -⟩ := offers (ty := 5) (ws := cutWs) (s := fronted cutWs) (q := q4 cutWs) (more := fun _ => true) (by decide +kernel) (if_neg (by decide))
    exact ⟨s2, h⟩
  · obtain ⟨s2, h, -⟩ := offers (ty := 7) (ws := padWs) (s := fronted padWs) (q := q4 padWs) (more := fun _ => true) (by decide +kernel) (if_pos rfl)
    exact ⟨s2, h⟩
/-- Queue 4 off its slot, with a doorbell, pending, halted. -/
def queued (slots : List SlotSt) (f : Queue → Queue) : State :=
  { fronted cutWs with
    slots := slots, queues := [f (q4 cutWs)]
    mem := (fronted cutWs).mem.puts (leCells 0x280020 8 16) }
theorem witness_QueueEvents : (∃ q, (queued [] id).findQueue? 4 = some q ∧ (0xABC004#64).toNat % 2 ^ 12 = 4 ∧ q.halt = false ∧
      (∀ x ∈ (queued [] id).slots, x.queue ≠ some 4)) ∧
    (∃ q, (queued [] fun q => { q with doorbell := true }).findQueue? 4 = some q ∧ q.doorbell = true ∧ q.halt = false ∧
      (queued [] fun q => { q with doorbell := true }).mapped 4 = false ∧
      q.rd < (queued [] fun q => { q with doorbell := true }).mem.word (q.qcb + 0x20) 8 ∧
      (queued [] fun q => { q with doorbell := true }).mem.word (q.qcb + 0x20) 8 ≤ q.rd + 2 ^ q.log2) ∧
    (let s := queued [{ idx := 5, cell := 0 }] fun q => { q with pending := true, steps := 9 }
     ∃ q x, s.findQueue? 4 = some q ∧ q.pending = true ∧ q.halt = false ∧ s.mapsFirst q = false ∧ s.slotFor q = some 5 ∧ s.slotOf? 5 = some x ∧
       x.queue = none ∧ s.mem.firmwareClear q.qcb = true ∧ q.rd ≤ s.mem.word (q.qcb + 0x20) 8 ∧ s.mem.word (q.qcb + 0x20) 8 ≤ q.rd + 2 ^ q.log2 ∧
       ∀ x ∈ s.queues, x.num = 4 → x = q) := by
  refine ⟨⟨_, rfl, by decide, rfl, by decide +kernel⟩, ⟨_, rfl, rfl, rfl, by decide +kernel, by decide +kernel, by decide +kernel⟩,
    _, _, rfl, rfl, rfl, by decide +kernel, by decide +kernel, rfl, rfl, by decide +kernel, by decide +kernel, by decide +kernel, ?_⟩
  intro x hx _; simpa [queued] using hx
/-- A slot of cell 0 that is free, one whose queue is empty, one whose queue has a lower effective priority. -/
def slotted (k : Nat) : State :=
  let q := q4 cutWs
  { fronted cutWs with
    slots := [{ idx := 5, cell := 0, queue := if k = 0 then none else some 6 }]
    queues := [{ q with pending := true, steps := 9 }, { q with num := 6, rd := if k = 1 then 16 else 0 }] }
theorem witness_SlotChoice : ∀ k ∈ [0, 1, 2], ∃ q, (slotted k).findQueue? 4 = some q ∧ (slotted k).slotFor q = some 5 := by
  intro k hk; simp only [List.mem_cons, List.not_mem_nil, or_false] at hk
  rcases hk with rfl | rfl | rfl <;> exact ⟨_, rfl, by decide +kernel⟩

/-! ### Pre-emption -/

/-- The cell runs context 1, is halting and has reported it; the team's launch 7 goes on. -/
def halted (shw : Nat) : State :=
  { st [] with
    cells := [{ id := 0, clusters := [0], ctx := some 1, halting := true, reported := true }]
    launches := [{ worked with running := [0] }]
    dev := { state := 2, record := { shw := shw } } }
/-- An image of the team in focus, with room for this many bytes below 4 GiB in the overflow area. -/
def imaged (out : Bool) : State :=
  let t := (st []).team
  { mapped { dev := { state := 2, record := { shw := 2 } } } with
    images := [{ num := 3, ctx := 1, die := 0, launches := [7], teams := [{ t with slot := 9 }], groups := [{ (st []).grp with slot := 9 }], inOverflow := out }]
    cells := [{ id := 0, clusters := [0] }]
    launches := [{ worked with running := [0] }] }
/-- An image too large for both areas: its groups' registers. -/
def huge : State :=
  { imaged false with
    images := [{ num := 3, ctx := 1, die := 0, launches := [], teams := [{ aNow := 262143 }], groups := [] },
      { num := 4, ctx := 1, die := 0, launches := [], teams := [{ aNow := 262143 }], groups := [], inOverflow := true }]
    team := (st []).team, grp := (st []).grp
    cells := [{ id := 0, clusters := [0], halting := true }] }
theorem witness_PreemptionRequests : (∃ c, (halted 2).findCell? 0 = some c ∧ c.halting = true ∧
      (halted 2).imageBytes c.die false + imageSize ((halted 2).cellTeams c) ((halted 2).cellGroups c) 1 ≤ 2 ^ 27 * (halted 2).dev.record.shw ∧
      (halted 2).run = none ∧ (halted 2).fills = [] ∧ ∀ g ∈ (halted 2).allGroups, g.pend = [] ∧ g.susp = .ready ∧ g.resizing = false) ∧
    (∃ c, huge.findCell? 0 = some c ∧ 2 ^ 27 * huge.dev.record.shw < huge.imageBytes c.die false + imageSize (huge.cellTeams c) (huge.cellGroups c) 0 ∧
      2 ^ 32 < huge.imageBytes c.die true + imageSize (huge.cellTeams c) (huge.cellGroups c) 0) ∧
    (∀ out ∈ [true, false], ∃ m, (imaged !out).images.find? (fun m => m.num == 3) = some m ∧ m.inOverflow ≠ out ∧
      (imaged !out).imageBytes m.die out + imageSize m.teams m.groups m.launches.length ≤
        (if out then 2 ^ 32 else 2 ^ 27 * (imaged !out).dev.record.shw)) := by
  refine ⟨⟨_, rfl, rfl, by decide, rfl, rfl, by decide⟩, ⟨_, rfl, by decide +kernel, by decide +kernel⟩, ?_⟩
  intro out ho; simp only [List.mem_cons, List.not_mem_nil, or_false] at ho
  rcases ho with rfl | rfl <;> exact ⟨_, rfl, by decide, by decide +kernel⟩
theorem witness_ContextSaved : (∃ c, (halted 2).findCell? 0 = some c ∧ c.reported = true ∧ c.ctx = some 1 ∧
      (let ls := (halted 2).launches.filter fun l => l.cell == 0 && !(halted 2).isSaved l.id
       ls ≠ [] ∧ (∀ l ∈ ls, l.ends = false ∧ (halted 2).launchDone l = false) ∧
       (halted 2).imageBytes c.die false + imageSize ((halted 2).cellTeams c) ((halted 2).cellGroups c) ls.length ≤ 2 ^ 27 * (halted 2).dev.record.shw)) ∧
    (∃ c, (halted 0).findCell? 0 = some c ∧ 2 ^ 27 * (halted 0).dev.record.shw <
      (halted 0).imageBytes c.die false + imageSize ((halted 0).cellTeams c) ((halted 0).cellGroups c) 1) ∧
    (∃ c, huge.findCell? 0 = some c ∧ { huge with cells := [{ c with reported := true }] }.findCell? 0 = some { c with reported := true } ∧
      huge.launches.length = 1) ∧ ({ worked with status := some 9 } : Launch).ends = true :=
  ⟨⟨_, rfl, rfl, rfl, by decide⟩, ⟨_, rfl, by decide⟩, ⟨_, rfl, rfl, rfl⟩, rfl⟩
theorem witness_ContextRestored : (∃ s1 m c, (imaged false).images.find? (fun m => m.num == 3) = some m ∧ (imaged false).findCell? 0 = some c ∧
      [(0, 31)].length = m.teams.length ∧ (imaged false).mayRun c m.ctx = true ∧ (imaged false).outranked 0 m = false ∧
      placesOk (m.teams.zip [(0, 31)]) = true ∧ (∀ p ∈ [((0 : Nat), (31 : Nat))], p.1 / 8 ∈ c.clusters) ∧
      ((imaged false).raiseSlice c.die).placeAll m (m.teams.zip [(0, 31)]) = some s1) ∧
    ∃ m c, (imaged false).images.find? (fun m => m.num == 3) = some m ∧ (imaged false).findCell? 0 = some c ∧
      ∃ p ∈ [((8 : Nat), (31 : Nat))], p.1 / 8 ∉ c.clusters :=
  ⟨⟨_, _, _, rfl, rfl, rfl, by decide, by decide, by decide, by decide, rfl⟩, _, _, rfl, rfl, _, .head _, by decide⟩

/-! ### The host -/

/-- A running device with CMDARG and more. -/
def commanded (arg : Nat) (s : State := {}) : State := { s with dev := { s.dev with state := 2, cmdarg := BitVec.ofNat 64 arg } }
theorem witness_CommandFrame_waits : commandRow .create = some (1, 2 ^ 64 - 1) ∧ (let s := { commanded 0x280000 with run := some (ringRun 8) }
      s.dev.busy = false ∧ s.dev.state = 2 ∧ carg s &&& (2 ^ 64 - 1) = carg s ∧ s.run.isSome = true) := by decide
theorem witness_CommandFrame : commandRow .clock = some (3, 1) ∧ (let s : State := { dev := { state := 2, busy := true, cmd := 7 } }
      s.dev.busy = true ∧ s.dev.cmd ≠ 3) ∧ (State.reset.dev.busy = false ∧ State.reset.dev.state ≠ 2) ∧
    ((commanded 2).dev.busy = false ∧ (commanded 2).dev.state = 2 ∧ carg (commanded 2) &&& 1 ≠ carg (commanded 2)) ∧
    commandRow .readout = some (11, 2 ^ 48 - 1) ∧ commandRow .resume = some (9, 0x10FFF) ∧
    ({ state := 3, frzc := 1, cmdarg := 2 ^ 48 } : Dev).state = 3 := by decide
/-- A QCB at 0x280000 of a queue of context 1 and cell 0, with these counts; the queue 4 besides. -/
def created (arg : Nat) (rd wr : Nat) (f : Queue → Queue := id) : State :=
  let s := { mapped {} with cells := [{ id := 0, clusters := [0] }] }
  commanded arg { s with
    queues := [{ f (q4 []) with rd := rd, wr := wr }]
    mem := s.mem.puts (leCells 0x280000 8 (1 + 2 * 2 ^ 8 + 3 * 2 ^ 12 + 2 ^ 32) ++ leCells 0x280008 8 0x300000 ++ leCells 0x280010 8 12 ++
      leCells 0x280018 8 rd ++ leCells 0x280020 8 wr) }
theorem witness_QueueCommands_create : MayCommand (created 0x280000 0 0) ∧
    carg (created 0x280000 0 0) % 256 = 0 ∧ carg (created 0x280000 0 0) + 256 ≤ 2 ^ 39 ∧ (∀ x ∈ (created 0x280000 0 0).queues, x.num ≠ 0) ∧
    (∀ m < 0, ∃ x ∈ (created 0x280000 0 0).queues, x.num = m) ∧ ((created 0x280000 0 0).parseQcb 0 (carg (created 0x280000 0 0))).isSome = true := by
  exact ⟨⟨rfl, rfl⟩, by decide +kernel, by decide +kernel, by decide +kernel, fun _ h => absurd h (Nat.not_lt_zero _), by decide +kernel⟩
theorem witness_QueueCommands_bad : MayCommand (created 0x380000 0 0) ∧ carg (created 0x380000 0 0) % 256 = 0 ∧ carg (created 0x380000 0 0) + 256 ≤ 2 ^ 39 ∧
    ∀ n, (created 0x380000 0 0).parseQcb n (carg (created 0x380000 0 0)) = none := by
  refine ⟨⟨rfl, rfl⟩, by decide +kernel, by decide +kernel, fun n => ?_⟩
  have h : ((created 0x380000 0 0).mem.word (carg (created 0x380000 0 0) + 8 * 0) 8) = 0 := by decide +kernel
  have hq : (created 0x380000 0 0).dev.qver = 1 := rfl
  simp only [State.parseQcb, h, hq]; rfl
theorem witness_QueueCommands_destroy : (∃ q, (created 4 16 16).findQueue? (carg (created 4 16 16)) = some q ∧ (created 4 16 16).mapped 4 = false ∧
      (created 4 16 16).mem.word (q.qcb + 0x20) 8 ≤ q.rd ∧ q.wr ≤ q.rd ∧ (created 4 16 16).queueBusy q.num = false) ∧
    (∃ q, (created 4 0 16).findQueue? (carg (created 4 0 16)) = some q ∧ q.halt = false ∧ q.rd < q.wr) ∧
    ∃ q, (created 4 0 16 fun q => { q with halt := true, hstat := 2 }).findQueue? 4 = some q ∧ q.halt = true ∧ q.hstat ≠ 5 ∧ q.hstat ≠ 4 ∧
      (created 4 0 16 fun q => { q with halt := true, hstat := 2 }).mapped 4 = false :=
  ⟨⟨_, rfl, rfl, by decide +kernel, by decide, rfl⟩, ⟨_, rfl, rfl, by decide⟩, _, rfl, rfl, by decide, by decide, rfl⟩
/-- A context descriptor at 0x280000; context 1 is there. -/
def described (arg : Nat) : State :=
  let s := mapped {}
  commanded arg { s with mem := s.mem.puts (leCells 0x280000 8 1 ++ leCells 0x280008 8 0x100000 ++ leCells 0x280030 8 8) }
theorem witness_ContextCommands : (MayCommand (described 0x280000) ∧ carg (described 0x280000) % 64 = 0 ∧ carg (described 0x280000) + 64 ≤ 2 ^ 39 ∧
      (∀ x ∈ (described 0x280000).ctxs, x.num ≠ 0) ∧ ((described 0x280000).parseCtx 0 (carg (described 0x280000))).isSome = true) ∧
    (carg (described 1) < 65536 ∧ ((described 1).findCtx? (carg (described 1))).isSome = true ∧ (described 1).inFlight (carg (described 1)) (fun _ => true) = false ∧
      (∀ q ∈ (described 1).queues, q.ctx ≠ carg (described 1)) ∧ (∀ l ∈ (described 1).launches, l.ctx ≠ carg (described 1)) ∧
      ∀ c ∈ (described 1).children, c.ctx ≠ carg (described 1)) ∧
    (carg (described 0xFFFF) < 65536 ∧ (described 0xFFFF).findCtx? (carg (described 0xFFFF)) = none) ∧
    (let s := commanded 1 (mapped (did (.ld g0 0 .b4 false .glob false .group 3 2 1 255) (withPage (st [(1, 0x10000)]))))
     (s.findCtx? (carg s)).isSome = true ∧ s.inFlight (carg s) (fun _ => true) = true) := by
  refine ⟨⟨⟨rfl, rfl⟩, by decide +kernel, by decide +kernel, by decide +kernel, by decide +kernel⟩, ?_, ?_, ?_⟩ <;> decide +kernel
theorem witness_DeviceCommands : (MayCommand (commanded 1) ∧ carg (commanded 1) < 2 ∧ ∀ l ∈ (commanded 1).launches, (commanded 1).isSaved l.id = true) ∧
    (MayCommand (commanded 1 (skiving worked)) ∧ ∃ l ∈ (commanded 1 (skiving worked)).launches, (commanded 1 (skiving worked)).isSaved l.id = false) ∧
    (let t : State := { dev := { state := 2, busy := true, cmd := 3, lockWanted := some true } }
     t.dev.lockWanted = some true ∧ (∀ l ∈ t.launches, t.isSaved l.id = true) ∧ t.dev.busy = true ∧ t.dev.cmd = 3) ∧
    carg (commanded 0) = 0 ∧ (∀ k < 4, carg (commanded (k * 2 ^ 16 + 0xFFFF)) < 2 ^ 20 ∧ carg (commanded (k * 2 ^ 16 + 0xFFFF)) % 2 ^ 16 ≠ 0 ∧
      carg (commanded (k * 2 ^ 16 + 0xFFFF)) / 2 ^ 16 = k) ∧
    (∀ u < 8, (List.range 16).any (fun u => decide (0 < unitCountOf u) && decide (256 ≤ unitSpace u)) = true) := by
  refine ⟨⟨⟨rfl, rfl⟩, by decide, by decide⟩, ⟨⟨rfl, rfl⟩, _, .head _, rfl⟩, by decide, by decide, by decide, by decide⟩
theorem witness_HostAccess : (let s : State := { dev := { state := 2, winctx := 0xFFFF, winstk := 7 } }
      s.dev.state = 2 ∧ 2 ^ 36 - 8 + 8 ≤ 2 ^ 36 ∧ s.dev.winctx = 0xFFFF ∧ s.run = none ∧
      ∀ j < 8, s.poisoned.contains ((2 ^ 36 * s.dev.winstk + (2 ^ 36 - 8) + j) / 128) = false) ∧
    (let s := mapped { dev := { state := 2, winctx := 1 } }
     (∃ l, s.dev.state = 2 ∧ s.dev.winctx ≠ 0xFFFF ∧ s.walk s.dev.winctx 0x10000 = .leaf l ∧ s.run = none ∧ l.r = true ∧ l.w = true ∧
       s.poisoned.contains ((l.base + 0x10000 % 8192) / 128) = false) ∧
     ∀ l, s.walk s.dev.winctx 0x400000000 = .leaf l → l.w = false) := by
  refine ⟨by decide +kernel, ⟨_, rfl, by decide, rfl, rfl, rfl, rfl, rfl⟩, ?_⟩
  have h : (mapped { dev := { state := 2, winctx := 1 } }).walk 1 0x400000000 = .notMapped := by decide +kernel
  intro l hl; exact absurd (h.symm.trans hl) (by simp)

/-! ### Management -/

/-- A group waits for the load of a line of device 5. -/
def faraway : State :=
  let l : Leaf := { r := true, w := true, x := false, d := true, cp := 0, wc := 0, mig := false, size := 8192, base := peerBase + 5 * peerSize, entry := 0x3000 }
  did (.ld g0 0 .b4 false .glob false .group 3 2 1 255) { withPage (st [(1, 0x10000)]) with tlb := [{ pg with leaf := l }] }
theorem witness_LinkEvents : (let s := mapped { dev := { state := 2 } }
      s.dev.state = 2 ∧ 0x40000 < 2 ^ 39 ∧ s.run = none ∧ s.bad 0x40000 = false ∧ 0x40000 % 128 + 4 ≤ 128 ∧ 4 ≤ 4 * [(7 : W32)].length ∧
      (s.bring (peerReq 1 0x40000 true true { dev := 5, ops := [7], routine := some (false, [0xF0360000]) })).isSome = true ∧ s.routines = [] ∧
      s.routineErrors = [] ∧ s.lineErrors = []) ∧
    (let s1 := devWith (fun d => { d with unreachable := if d.unreachable.contains 5 then d.unreachable else d.unreachable ++ [5] }) faraway
     InFocus 0 0 2 s1 s1 ∧ ∃ p key, s1.grp.pend.find? (fun p => (p.kind.peerKey 5).isSome) = some p ∧ p.kind.peerKey 5 = some key) :=
  ⟨by decide +kernel, ⟨rfl, rfl, rfl⟩, _, _, rfl, rfl⟩
/-- The record of a well-formed device with three watchers. -/
def bootRecord (unkd : Nat) : List Byte :=
  leBytes 8 (1 + 1535 * 2 ^ 16 + 2 ^ 27) ++ leBytes 8 (unkd + 3 * 2 ^ 20 + 8 * 2 ^ 24 + 2 ^ 28) ++ leBytes 16 0x07FF00020001 ++
  (List.range 24).map (fun k => BitVec.ofNat 8 (k / 6)) ++ List.replicate 1040 0
theorem witness_Booting : recordOk (bootRecord 983024) = true ∧ recordOk (bootRecord 983025) = false ∧ State.reset.dev.state = 0 ∧ ({ state := 2 } : Dev).state ≠ 0 := by
  decide +kernel
/-- Two of three watchers have asked for a reset and for a freeze. -/
def watched : State :=
  { dev := { state := 2, resetReqs := [1], freezeReqs := [1], record := { nw := 3, watch := [1, 2, 0x7FF], wkeys := [11, 12, 13], fkeys := [14] } } }
theorem witness_Liveness : watched.dev.state = 2 ∧ ({} : Dev).state ≠ 2 ∧ watched.dev.record.nw < 2 * (askedBy 2 watched.dev.resetReqs).length ∧
    2 * (askedBy 1 watched.dev.resetReqs).length ≤ watched.dev.record.nw ∧ watched.dev.record.fkeys[0]? = some 14 ∧ watched.dev.record.fkeys[1]? = none ∧
    (2, 12) ∈ watched.dev.record.watch.zip watched.dev.record.wkeys ∧ ¬ SignedBy watched 0 3 [] := by
  refine ⟨rfl, by decide, by decide, by decide, rfl, rfl, by decide, ?_⟩
  rintro ⟨x, hx, h3, -⟩
  exact absurd h3 ((by decide : ∀ x ∈ watched.dev.record.watch.zip watched.dev.record.wkeys, x.1 ≠ 3) x hx)
theorem witness_PowerEvents : (let s : State := { dev := { state := 2, locked := true } }; s.dev.state = 2 ∧ s.dev.locked = true) ∧
    (let s : State := { cells := [{ id := 0, clusters := [6], halting := true }], dev := { state := 2, sliceMhz := [3000, 3000, 3000, 3000] } }
     s.dev.state = 2 ∧ s.dev.locked = false ∧ s.dev.sliceMhz[1]? = some 3000 ∧ (∃ c ∈ s.cells, c.die = 1 ∧ c.halting = true) ∧
       ∀ c ∈ s.cells, c.halting = true → c.die ≠ 0) := by decide

/-! ### Issue, decoding, the step -/

/-- What has issued and not completed: it writes V1, under a window with this many places. -/
def pendingOn (left : Nat) (s : State) : State :=
  { s with grp := { s.grp with pend := [{ Pend.new 0x70 (.load [] 4 false false (some .team) (.v 1)) with window := true, left := left, writes := [1] }] } }
theorem violates (s : State) (h : s.grp.held = false ∧ (s.grp.pend.any fun p => p.window && p.left != 0 &&
      dependsOn (Instr.uses (.vmov g0 false 2 (.v 1))).allReads (Instr.uses (.vmov g0 false 2 (.v 1))).allWrites p) = true)
    (hw : ∀ p ∈ s.grp.pend, 1 ∈ p.writes) : Violates (.vmov g0 false 2 (.v 1)) s := by
  obtain ⟨h1, h2⟩ := h
  obtain ⟨p, hm, hq⟩ := List.any_eq_true.1 h2
  simp only [Bool.and_eq_true, bne_iff_ne] at hq
  exact ⟨by decide, fun h => absurd h.2 (by decide), h1, p, hm, hq.1.1, hq.1.2, .inl ⟨1, by decide, hw p hm⟩⟩
theorem witness_HeldInstructions : (MayStand (.vmov g0 false 2 (.v 1)) (pendingOn 3 (st [])) ∧ (pendingOn 3 (st [])).holds (.vmov g0 false 2 (.v 1)) = true ∧
      Violates (.vmov g0 false 2 (.v 1)) (pendingOn 3 (st [])) ∧ (pendingOn 3 (st [])).team.strict = false) ∧
    (MayStand (.nop g0) (pendingOn 0 (st [])) ∧ (pendingOn 0 (st [])).holds (.nop g0) = true ∧ ¬ Violates (.nop g0) (pendingOn 0 (st []))) ∧
    (pendingOn 3 (st [])).holds (.bra g0 4) = true ∧ (pendingOn 3 (st [])).holds (.sst .b4 .w false .group 5 6 255 0) = true ∧
    Instr.bits (.vmov g0 false 2 (.v 1)) = 64 := by
  refine ⟨⟨?_, by decide, violates _ (by decide) (by decide), rfl⟩, ⟨?_, by decide, ?_⟩, by decide, by decide, rfl⟩
  · have h : opClass (opcodeOf (.vmov g0 false 2 (.v 1))) = .g := by decide
    simp only [MayStand, h]
  · have h : opClass (opcodeOf (.nop g0)) = .g := by decide
    simp only [MayStand, h]
  · rintro ⟨-, -, -, p, hp, -, h0, -⟩
    exact h0 ((by decide : ∀ p ∈ (pendingOn 0 (st [])).grp.pend, p.left = 0) p hp)
/-- A group of the team waits in a RESIZE; a BARARR has still to arrive before an EXIT; a control instruction ends an open window. -/
theorem witness_HeldInstructions_others :
    (let s := { st [(1, 0x10000)] with grp := { (st []).grp with resizing := true } }
     (∃ g ∈ s.teamGroups, g.resizing = true) ∧ s.holds (.ld g0 0 .b4 false .glob false .group 3 2 1 255) = true) ∧
    (let s := { st [] with grp := { (st []).grp with pend := [Pend.new 0x21 (.arrive 0 none {})] } }
     s.holds (.exit g0) = true ∧ (∃ p ∈ s.grp.pend, ∃ b token k, p.kind = .arrive b token k)) ∧ Controls (.bra g0 4) :=
  ⟨by decide, ⟨by decide, _, .head _, _, _, _, rfl⟩, by decide, by decide⟩
theorem witness_RegisterCaps : MayStand (.smov 64 1) (st []) ∧ (st []).holds (.smov 64 1) = false ∧ Instr.isNever (.smov 64 1) = false ∧ (st []).run = none ∧
    ((Instr.uses (.smov 64 1)).dst ++ (Instr.uses (.smov 64 1)).src).filter (beyond (st []).grp) = [.s 64] ∧
    ¬ MayStand (.mgang 6) (st []) ∧ (st []).grp.windowShut (.mgang 6) = false ∧
    Instr.isNever (.vmov ⟨true, 15⟩ false 2 (.v 1)) = true ∧ (st []).holds (.vmov ⟨true, 15⟩ false 2 (.v 1)) = false := by
  refine ⟨?_, by decide, rfl, rfl, by decide, ?_, by decide, by decide, by decide⟩
  · have h : opClass (opcodeOf (.smov 64 1)) = .g := by decide
    simp only [MayStand, h]
  · have h : opClass (opcodeOf (.mgang 6)) = .m := by decide
    simp only [MayStand, h]
    exact fun h => absurd h.1 (by decide)
theorem witness_StepRunsDecodedWord : (let s := State.reset.withFetchWord 64 0x0007800000000000
      s.agenda = [] ∧ s.dev.state = 2 ∧ s.run = none ∧ s.canIssue s.grp = true ∧ s.grp.hdr ≠ none ∧ s.fetch (s.grp.base + 8 + 8 * s.grp.pslot) = (.word 0x0007800000000000, s) ∧
      decode64 (0x0007800000000000#64).toNat = .ok (.nop Guard.always)) ∧
    (let s := State.reset.withFetchWord 32 0xF0360000
     ∃ r, s.run = some r ∧ r.code[r.pc]? = some 0xF0360000 ∧ decode32 0xF0360000 = some (.commit 3 12 0)) ∧
    (st []).canIssue { (st []).grp with susp := .parked } = false ∧ State.reset.agenda = [] ∧ State.reset.dev.state ≠ 2 :=
  ⟨⟨rfl, rfl, rfl, by decide, by decide, by decide, by rfl⟩, ⟨_, rfl, rfl, by decide⟩, by decide, rfl, by decide⟩
theorem witness_RoundTrip : Instr.bits (.stka 0xFFFFFFFC) = 64 ∧ Instr.wf (.stka 0xFFFFFFFC) = true ∧ Instr.bits (.commit 15 31 1023) = 32 := by decide
theorem witness_StepKeepsForm : State.reset.MemOk ∧ State.reset.DevOk ∧ (commanded 0 State.reset).MemOk ∧ (commanded 0 State.reset).DevOk := by
  unfold State.MemOk State.DevOk; decide
theorem witness_NothingStops : Instr.bits (.lineFill) ≠ 32 ∧ Instr.bits (.wmov 0 1 13 1) = 32 ∧ (commanded 0).dev.state = 2 ∧ (commanded 0).run = none ∧
    ∀ i ∈ (commanded 0).agenda, Instr.bits i ≠ 32 := by decide
theorem witness_DecodeReadsEveryBit : (∃ i, decode64 0x1907A08020802200 = .ok i) ∧ (0x1907A08020802200 : Nat) < 2 ^ 64 ∧ (decode32 0xF0360000).isSome = true :=
  ⟨⟨_, rfl⟩, by decide, by decide⟩
theorem witness_LiveUpdate : let t := did (.firmwareLiveUpdate 9) { dev := { fverMax := 4 } }
    t.dev.complex = 1 ∧ t.dev.fver = 4 := by decide

/-! ### The other clauses -/

/-- A last group's EXIT.NEXT whose successor fits, whose successor asks for more of the W-buffer, and whose descriptor an earlier piece may write. -/
theorem witness_SuccessorStart : let s := withBody ctl
    Acts g0 s ∧ Clear (.exitNext g0 6) s ∧ (s.grp.S 6).toNat % 64 = 0 ∧ MayExit (.next (s.grp.S 6)) s ∧ s.lastGroup = true ∧
      s.rangeWait (s.grp.S 6).toNat 64 = false ∧ ∃ s' b, s.readBody 0x06 (s.grp.S 6).toNat = .inr (s', some b) ∧ s'.holdingsOk b = true ∧
        0 < groupsUpTo b s.team.piece.points b.roles.length :=
  ⟨.inr (by decide), clear_of_free (by decide), by decide, ⟨by decide, by decide⟩, by decide, by decide, _, _, rfl, by decide, by decide⟩
def waitsBody : State :=
  let s := withBody ctl
  { s with team := { s.team with det := true, shared := [(0x10000, 8192)], piece := { s.team.piece with idx := 1 } }, launches := [{ id := 7, queue := 0, ctx := 1, cell := 0, det := true, running := [0, 1] }] }
theorem witness_SuccessorStart_waits : Acts g0 waitsBody ∧ Clear (.exitNext g0 6) waitsBody ∧ MayExit (.next (waitsBody.grp.S 6)) waitsBody ∧
    waitsBody.lastGroup = true ∧ waitsBody.rangeWait (waitsBody.grp.S 6).toNat 64 = true ∧
    (let s := { withBody ctl with team := { (withBody ctl).team with dAll := 0, wAll := 0, gcnt := 0 } }
     ∃ s' b, s.readBody 0x06 (s.grp.S 6).toNat = .inr (s', some b) ∧ s'.holdingsOk b = false) :=
  ⟨.inr (by decide), clear_of_free (by decide), ⟨by decide, by decide⟩, by decide, by decide, _, _, rfl, by decide⟩
/-- A member of the group's gang is latched; the team's exit kind is EXIT.NEXT. -/
def ganged : State := { matWith 8 with grp := { (matWith 8).grp with susp := .ready } }
theorem witness_GroupExit_gang : Acts g0 ganged ∧ Clear (.exit g0) ganged ∧ ganged.gangLatched = true ∧ Clear (.exitNext g0 6) ganged ∧
    (let s := { ctl with team := { (ctl).team with exk := some (.next 64) } }
     Clear (.exit g0) s ∧ s.gangLatched = false ∧ s.team.exk = some (.next 64)) ∧
    (let s := { ctl with grp := (ctl).grp.setS 6 65 }
     Clear (.exitNext g0 6) s ∧ s.gangLatched = false ∧ (s.grp.S 6).toNat % 64 ≠ 0) :=
  ⟨.inr (by decide), clear_of_free (by decide), by decide, clear_of_free (by decide), ⟨clear_of_free (by decide), by decide, rfl⟩,
    clear_of_free (by decide), by decide, by decide⟩
/-- One group waits on ring 0, to put or to take; the ring was another. -/
theorem witness_RingWaiters : (∀ n ∈ [0, 1, 2], ∀ put ∈ [true, false], (ringS n (.ring 0 put 5)).team.ring 0 ≠ {} ∧
      (ringS n (.ring 0 put 5)).teamGroups.filter (Group.waitsRing 0) = [(ringS n (.ring 0 put 5)).grp] ∧
      ((ringS n (.ring 0 put 5)).team.ring 0).init = true) ∧
    (∀ g ∈ (ringS 1).teamGroups, ∀ put a, g.susp ≠ .ring 0 put a) ∧ ((ringS 1 (.ring 1 true 5)).team.ring 1).init = false ∧
    ([2].Perm (((ringS 1 (.ring 0 true 5)).teamGroups.filter (Group.waitsRing 0)).map (·.gid)) ∧ [2].Pairwise fun a b : Nat => a % 4 < b % 4 ∨ a % 4 = b % 4 ∧ a ≤ b) ∧
    inRing (ringS 2).team 0 = ((ringS 2).team.ring 0).cap ∧ inRing (ringS 1).team 0 ≠ ((ringS 1).team.ring 0).cap ∧
    ((ringS 0).team.ring 0).tail = ((ringS 0).team.ring 0).head ∧ ((ringS 1).team.ring 0).tail ≠ ((ringS 1).team.ring 0).head := by
  refine ⟨?_, ?_, by decide, ⟨by decide, by simp⟩, by decide, by decide, by decide, by decide⟩
  · intro n hn put hp; simp only [List.mem_cons, List.not_mem_nil, or_false] at hn hp
    rcases hn with rfl | rfl | rfl <;> rcases hp with rfl | rfl <;> decide
  · intro g hg put a h
    have : g = (ringS 1).grp := by simpa [State.teamGroups, State.allGroups, ringS, st] using hg
    subst this; cases h
/-- Exact sums, products, quotients and integers that are zero or not, and the operands that are not finite. -/
theorem witness_ExactRounding : rational (.fin false 1 0) + rational (.fin false 1 0) ≠ 0 ∧ rational (.fin false 1 0) + rational (.fin true 1 0) = 0 ∧
    rational (.fin false 0 0) * rational (.fin true 1 0) = 0 ∧ (FVal.nan true).isNan = true ∧ E5M3.kind = .e5m3 ∧ intMax true 8 < 128 ∧
    ¬ intMax false 8 < 128 :=
  ⟨by decide +kernel, by decide +kernel, by decide +kernel, by decide, by decide, by decide, by decide⟩
/-- RESIZE waits for a copy of the team; another group of the team may issue no load to the A-buffer meanwhile. -/
def resizing : State :=
  let s := ex 1
  { s with
    grp := { s.grp with resizing := true, pend := [{ Pend.new 0x74 (.copy false 4 .a none false {} [({ lane := 0, va := 0, key := 0, leaf := noLeaf }, 16384)]) with seq := 0 }] } }
theorem witness_BufferResize_waits : Clear (.resize 3 1) resizing ∧ resizing.team.body.excl = true ∧ (resizing.grp.S 1).toNat = 1 ∧
    max resizing.team.agBase resizing.team.body.ag ≤ 1 ∧ resizing.resizeWaits 1 = true ∧ (∃ g ∈ resizing.teamGroups, g.resizing = true) ∧
    (∃ r dst, loadRow (.ld g0 0 .b4 false .a false .group 3 2 1 255) = some (r, 0, false, dst) ∧ r.sp = .a) ∧
    (∃ r data, storeRow (.st g0 .b4 .priv false .group 3 2 1 255) = some (r, data) ∧ r.sp = .priv) :=
  ⟨clear_of_free (by decide), by decide, by decide, by decide, by decide, ⟨_, .head _, rfl⟩, ⟨_, _, rfl, rfl⟩, _, _, rfl, rfl⟩
/-- Copies that may not issue: 64 are outstanding; misaligned, in either place, or beyond the buffer; a line is poisoned. -/
def copyAt (g b : W32) : State := inCpy { ms with grp := { ms.grp with xm := 1, v := [(64, g), (96, b)] } }
def fullCopies : State := { copyAt 0 0 with grp := { (copyAt 0 0).grp with
  pend := (List.range 64).map fun n => { Pend.new 0x74 (.copy true 4 .w none false {} []) with seq := n } } }
def copyI : Instr := .cpy g0 0 .b4 .w (some 3) 3 2 1 255
theorem witness_CopyIssue_waits : 64 ≤ fullCopies.copiesOut ∧ Clear copyI fullCopies ∧ InRole .cpy .c fullCopies ∧ (copyAt 2 0).copiesOut < 64 ∧
    (∃ t, turnedAway 10 .glob (fun x => decide (x.2 % 4 ≠ 0)) (lanesAt .glob 1 2 ((copyAt 2 0).lanes g0) (copyAt 2 0)) t) ∧
    (∃ t, turnedAway 10 .w (fun x => decide (x.2 % 4 ≠ 0)) [(0, ((copyAt 0 2).grp.V 3 0).toNat)] t) ∧
    (∃ t, turnedAway 11 .w (fun x => decide ((copyAt 0 16384).spaceSize .w < x.2 + 4)) [(0, ((copyAt 0 16384).grp.V 3 0).toNat)] t) ∧
    (let s := { copyAt 0 0 with poisoned := [0x800] }
     let gl := lanesAt .glob 1 2 (s.lanes g0) s
     pageFaults gl (s.lanesX .r false gl) = [] ∧ ((laneAccs (s.lanesX .r false gl)).find? fun a => s.bad a.key).isSome = true) :=
  ⟨by decide, clear_of_free (by decide), ⟨rfl, _, rfl, rfl⟩, by decide, ⟨_, _, _, rfl, rfl⟩, ⟨_, _, _, rfl, rfl⟩, ⟨_, _, _, rfl, rfl⟩, by decide, by decide⟩
/-- A copy to shared memory waits where the commit area is full. -/
def copyFull : State :=
  let s := copyAt 0 0
  { s with
    team := { s.team with det := true, shared := [(0x10000, 8192)], held := [heldBytes Config.commitSlots [(0x40000, 9)]] }
    launches := [{ id := 7, queue := 0, ctx := 1, cell := 0, det := true, running := [0] }] }
theorem witness_CopyIssue_full : InRole .cpy .c copyFull ∧ Clear (.cpyToGlobal g0 0 .b4 .w none 3 2 1 255) copyFull ∧
    copyFull.copyWaits true (lanesAt .glob 1 2 (copyFull.lanes g0) copyFull) = true :=
  ⟨⟨rfl, _, rfl, rfl⟩, clear_of_free (by decide), by decide⟩
/-- Two lanes store the same word: the higher one waits for the lower. -/
def doubled : State := did (.st g0 .b4 .glob false .device 3 2 1 255) { ms with grp := { ms.grp with v := [(96, 1), (97, 2)] } }
theorem witness_StorePerforms_behind : InFocus 0 0 2 doubled doubled ∧ ∃ p ls a bs, doubled.grp.findPend? 0 = some p ∧ p.kind = .store .device ls ∧
    ls.filter (fun z => (2#32).getLsbD z.1.lane) = [(a, bs)] ∧ ∃ z ∈ ls, z.1.lane < a.lane ∧ z.1.key < a.key + bs.length ∧ a.key < z.1.key + z.2.length :=
  ⟨⟨rfl, rfl, rfl⟩, _, _, _, _, rfl, rfl, rfl, _, .head _, by decide, by decide, by decide⟩
/-- Matrix operands that break a check: a wrong buffer, no columns, registers beyond the cap, a misaligned offset, a misaligned stride, an element beyond
the buffer; an accumulator still to be loaded; a member whose cell halts. -/
def matAt (a w : W64) : State := { matS with grp := (matS.grp.setS 4 a).setS 5 w }
theorem witness_MatrixIssue_faults : (∀ s ∈ [matAt 0x300000 0x80001, matAt 0x100000 0x80000, matAt 0x100002 0x80001, matAt 0x100000 0x44001,
      matAt 0x13FFC 0x80001], Clear mmaI s ∧ InRole .mat .m s ∧ s.grp.buckle ≠ 0) ∧ (0x300000 : Nat) / 2 ^ 20 = 3 ∧ ¬ CfgOk .f32 2 false 0x80000 ∧
    (0x100002 % 2 ^ 20) % 4 ≠ 0 ∧ (mcfg 0x44001).rs % 4 ≠ 0 ∧
    (let s := { matS with grp := { matS.grp with vcap := 8 } }
     ([(8, 1), (16, 1)].find? fun r => decide (0 < r.2) && decide (s.grp.vcap < r.1 + r.2)) = some (8, 1)) ∧
    (∃ e ∈ aElems .f32 (mcfg 0x80001) 0xFFFFC, matS.spaceSize .w < e.2 + 4) := by
  refine ⟨?_, rfl, by unfold CfgOk; decide, by decide, by decide, by decide, by decide⟩
  intro s hs; simp only [List.mem_cons, List.not_mem_nil, or_false] at hs
  rcases hs with rfl | rfl | rfl | rfl | rfl <;> exact ⟨clear_of_free (by decide), ⟨rfl, _, rfl, rfl⟩, by decide⟩
theorem witness_MatrixIssue_unready :
    (let s := { matS with grp := { matS.grp with pend := [{ Pend.new 0x70 (.load [] 4 false false none (.v 8)) with writes := [kV 8] }] } }
     Unready (regKeys 8 1) [] s) ∧
    (let s := { matAt 0x200000 0x80001 with groups := [{ matS.grp with gid := 3, buckle := 12, resizing := true }] }
     ∃ g ∈ s.teamGroups, g.resizing = true) :=
  ⟨⟨_, .head _, .inl ⟨kV 8, by decide, by decide⟩⟩, _, .tail _ (.head _), rfl⟩
theorem witness_MatrixRendezvous_stopped : ({ latched2 with cells := [{ id := 0, clusters := [0], halting := true }] } : State).gangStopped
      [latched2.grp, latched2.groups.headD {}] = true ∧ latched2.gangStopped [latched2.grp, latched2.groups.headD {}] = false := by decide
theorem witness_MatrixValues : (matS.grp.S 5).toNat % 512 = 1 := by decide
/-- An MMA has issued. -/
theorem witness_ResultsWritten_mma : (let s := did (.mmaRendezvous 0 0 2) latched2
    InFocus 0 0 2 s s ∧ s.grp.pend.length = 1 ∧ (s.grp.pend.all fun p => match p.kind with
      | .mma _ => true
      | _ => false) = true) := ⟨⟨by decide +kernel, by decide +kernel, by decide +kernel⟩, by decide +kernel, by decide +kernel⟩
/-- A drain to the D-buffer behind a load of it. -/
theorem witness_DrainCompletes_waits : (let s := { drainD with grp := { drainD.grp with pend := drainD.grp.pend.map (fun p : Pend => { p with seq := 1 }) ++
      [{ Pend.new 0x70 (.load [inCore .d (0, 0)] 4 false false none (.v 1)) with seq := 0 }] } }
    ∃ q ∈ s.grp.pend, q.seq < 1 ∧ q.loads 0 (bufBase .d + 0) 1 = true) := by decide +kernel
theorem witness_PieceDispatch_none : (skiving worked).findLaunch? 9 = none ∧ (skiving worked).findLaunch? 7 = some worked ∧
    (skiving worked).ready? worked = none ∧ (∀ k ∈ [0, 1, 2], ∀ b ∈ (dispatching k).bodies, b.2.length ≤ 16) := by
  refine ⟨rfl, rfl, by decide, by decide⟩
/-- LAUNCH waits behind an access, for an earlier piece, and while a stitch holds its record; a cell has 256 children; the commit area is full. -/
theorem witness_LaunchIssue_waits : (let s := withRecord (1 + 22 * 256) stores
      Clear (.launch 3 1) s ∧ s.releaseReady .device = false) ∧
    (let s := { withRecord (1 + 22 * 256) waitsBody with launches := waitsBody.launches }
     Clear (.launch 3 1) s ∧ s.releaseReady .device = true ∧ s.rangeWait 0x10040 8 = true) ∧
    (let s := { withRecord (1 + 22 * 256) ms with run := some { ringRun 8 with gid := 5, key := 0x40040 } }
     Clear (.launch 3 1) s ∧ s.onceMay 0x10040 8 = false) ∧
    (let s := withRecord (1 + 22 * 256) ms
     ({ s with team := { s.team with nlaunch := 65535 } } : State).team.nlaunch = 65535) ∧
    (let s := { detS (withRecord (1 + 22 * 256) ms) with team := { (detS (withRecord (1 + 22 * 256) ms)).team with held := [heldBytes Config.commitSlots []] } }
     s.overflows 3 = true) :=
  ⟨⟨clear_of_free (by decide), by decide⟩, ⟨clear_of_free (by decide), by decide, by decide⟩, ⟨clear_of_free (by decide), by decide⟩, rfl, by decide⟩
/-- Kicks of a halted queue and of one on a slot; a doorbell and an error behind a stitch; a lost dependence with a BAR at the head or none, and of a child. -/
theorem witness_QueueEvents_kicks : (∃ q, (queued [] fun q => { q with halt := true }).findQueue? 4 = some q ∧ q.halt = true) ∧
    (let s := queued [{ idx := 5, cell := 0, queue := some 4 }] id
     ∃ q x, s.findQueue? 4 = some q ∧ q.halt = false ∧ s.slots.find? (fun x => x.queue == some 4) = some x ∧ s.served q.qcb = true ∧
       q.rd ≤ s.mem.word (q.qcb + 0x20) 8 ∧ s.mem.word (q.qcb + 0x20) 8 ≤ q.rd + 2 ^ q.log2) ∧
    (let s := { queued [] (fun q => { q with doorbell := true }) with run := some { ringRun 8 with gid := 5, key := 0x280000 } }
     ∃ q, s.findQueue? 4 = some q ∧ q.doorbell = true ∧ s.served q.qcb = false) ∧
    (∃ q, (queued [] id).findQueue? 4 = some q ∧ (queued [] id).served q.qcb = true ∧ ∀ c ∈ (queued [] id).children, c.queue ≠ 4) ∧
    (∃ c : Child, ({ childS 0 with children := (childS 0).children.map fun c => { c with queue := 4 } } : State).children.find? (fun c => c.queue == 4) = some c) :=
  ⟨⟨_, rfl, rfl⟩, ⟨_, _, rfl, rfl, rfl, rfl, by decide +kernel, by decide +kernel⟩, ⟨_, rfl, rfl, by decide⟩, ⟨_, rfl, rfl, by decide⟩, _, rfl⟩
/-- RESUME with and without SKIP, of queues halted and not; END under way. -/
theorem witness_QueueCommands_resume : (∀ n ∈ [4, 4 + 2 ^ 16], ∀ h ∈ [2, 4], (let s := created n 0 16 fun q => { q with halt := true, hstat := h }
      MayCommand s ∧ s.run = none ∧ carg s % 2 ^ 16 < 4096 ∧ carg s / 2 ^ 16 < 2 ∧ ∃ q, s.findQueue? (carg s % 2 ^ 16) = some q ∧ q.halt = true ∧
        q.hstat ≠ 5)) ∧
    (∃ q, (created 4 0 16).findQueue? (carg (created 4 0 16) % 2 ^ 16) = some q ∧ (q.halt = false ∨ q.hstat = 5)) ∧
    (created 9 0 16).findQueue? (carg (created 9 0 16)) = none ∧ Runs 2 4 (created 4 0 16) ∧
    (let s := created 0 0 16
     Runs 2 4 { s with dev := { s.dev with busy := true, cmd := 2, runArg := 4 } }) := by
  refine ⟨?_, ⟨_, rfl, .inl rfl⟩, rfl, ⟨rfl, rfl, .inl ⟨rfl, by decide⟩⟩, ⟨rfl, rfl, .inr ⟨rfl, rfl, by decide⟩⟩⟩
  intro n hn h hh; simp only [List.mem_cons, List.not_mem_nil, or_false] at hn hh
  rcases hn with rfl | rfl <;> rcases hh with rfl | rfl <;> exact ⟨⟨rfl, rfl⟩, rfl, by decide, by decide, _, rfl, rfl, by decide⟩
theorem witness_ContextCommands_runs : Runs 8 1 (described 1) ∧ Runs 7 1 (described 1) ∧ (described 1).ctxs.length < (described 1).dev.tableRoom ∧
    ({ described 1 with dev := { (described 1).dev with tableRoom := 1 } }).dev.tableRoom ≤ (described 1).ctxs.length ∧ (described 1).run = none ∧
    (∃ l ∈ ({ described 1 with launches := [worked] } : State).launches, l.ctx = 1) :=
  ⟨⟨rfl, rfl, .inl ⟨rfl, by decide⟩⟩, ⟨rfl, rfl, .inl ⟨rfl, by decide⟩⟩, by decide, by decide, rfl, _, .head _, rfl⟩
theorem witness_HostAccess_held : (let s : State := { dev := { state := 2, winctx := 0xFFFF, winstk := 0 }, run := some (ringRun 8) }
    (2 ^ 36 * s.dev.winstk + 0x40000 + 7) / 128 = (ringRun 8).key / 128 ∧ s.run = some (ringRun 8)) ∧
    ({ state := 2, busy := false } : Dev).busy = false ∧ (12#64).toNat % 2 ^ 8 = 12 ∧ 0x118 ∉ [0x100, 0x108, 0x110, 0x200, 0x208, 0x210] ∧
    (2 ^ 36 < 2 ^ 36 - 7 + 8) := by decide
theorem witness_LinkEvents_errors : (let s : State := { dev := { state := 2 } }
      s.tableRoutine? 1 40 = none) ∧ (let s : State := { dev := { state := 2 }, routineErrors := [(1, 40)], lineErrors := [0x800] }
      (1, 40) ∈ s.routineErrors ∧ 0x40000 / 128 ∈ s.lineErrors ∧ s.run = none ∧ s.bad 0x40000 = false) := by decide
/-- The device runs, and no group may issue, or a header comes next, or the word is no instruction, or its page is not mapped. -/
theorem witness_StepRunsDecodedWord_others : (let s := { ctl with grp := { (ctl).grp with susp := .parked } }
      s.agenda = [] ∧ s.dev.state = 2 ∧ s.run = none ∧ s.canIssue s.grp = false) ∧
    ((atHeader 0xF8000FFF00000000).canIssue (atHeader 0xF8000FFF00000000).grp = true ∧ (atHeader 0xF8000FFF00000000).grp.hdr = none) ∧
    (let s := { st [] with core := { icache := [((1, 0x208), 0x0C00000000000000#64)] } }
     s.canIssue s.grp = true ∧ s.grp.hdr ≠ none ∧ s.fetch (s.grp.base + 8 + 8 * s.grp.pslot) = (.word 0x0C00000000000000#64, s) ∧
     decode64 (0x0C00000000000000#64).toNat = .error .opcode) ∧
    ((st []).fetch ((st []).grp.base + 8 + 8 * (st []).grp.pslot)).1 = .page 1 0 ∧
    (let s := { commanded 0 with agenda := [.heartbeat] }
     s.dev.state = 2 ∧ s.run = none ∧ ofIsland (.resetRequest 0 []) = true ∧ ofIsland .lineFill = false) := by
  refine ⟨⟨rfl, rfl, rfl, by decide⟩, ⟨by decide, rfl⟩, ⟨by decide, by decide, rfl, rfl⟩, by decide, rfl, rfl, by decide, by decide⟩
/-- A commit of more children than the cell has room for; the other outcomes of an end of a launch. -/
def kids (n : Nat) : Launch :=
  { worked with
    det := true
    retired := [{ idx := 0, held := (List.range n).map fun i => (0, 0, { heldBytes 0 [] with seq := i, kind := .child (List.replicate 64 0) }) }] }
theorem witness_Commit_children : ∃ l r, (skiving (kids 257)).findLaunch? 7 = some l ∧ l.retired.find? (fun r => r.idx == l.committed) = some r ∧
    r.idx ∉ l.running ∧ (skiving (kids 257)).commitHeld l = false ∧ (skiving (kids 257)).commitServed r.held = true ∧
    (skiving (kids 257)).cellChildren l.cell ≤ 256 ∧ 256 < (skiving (kids 257)).cellChildren l.cell + r.held.countP fun h => h.2.2.isChild :=
  ⟨_, _, rfl, rfl, by decide, rfl, by decide +kernel, by decide, by decide +kernel⟩
theorem witness_LaunchEnds_det : ∃ l, ({ ended with launches := ended.launches.map fun l => { l with det := true } } : State).findLaunch? 7 = some l ∧ l.det = true ∧
    l.status.isSome = true := ⟨_, rfl, rfl, rfl⟩
theorem witness_TeamParking_ways : (let x := parkable false
    let parked := { x with team := { x.team with inL2 := true } }
    (∀ z ∈ x.rlines, z.unit < 64 → z.unit / 16 = coreDie 0 → z.way < 16 - parked.parkedWays (coreDie 0)) ∧
    (parked.clearWays (coreDie 0)).isSome = true) := by decide
/-- 05 R106, 20 R325: CVTI gives a zero times any power of two as zero, without a flag. -/
theorem test_cvti_zero : toIntType true 32 (.std .rne) (.fin true 0 (10 ^ 9)) = (0, 0) := by decide

/-! ### Lines at a peer, and clauses that another access or a line decides -/

/-- The page stands at device 5. -/
def afar (s : State) : State :=
  { s with tlb := [{ pg with leaf := { pg.leaf with base := peerBase + 5 * peerSize } }] }
/-- A stitch of another group holds this line. -/
def stitchAt (key : Nat) (s : State) : State := { s with run := some { ringRun 8 with gid := 5, key := key } }
def loadsAfar : State := did (.ld g0 0 .b4 false .glob false .group 5 2 1 255) (afar ms)
def storesAfar : State := did (.st g0 .b4 .glob false .device 3 2 1 255) (afar ms)
theorem witness_LoadBinds_peer : (∀ s ∈ [loadsAfar, stitchAt (peerBase + 5 * peerSize + 4) loadsAfar], InFocus 0 0 2 s s) ∧ ∃ p as dst,
    loadsAfar.grp.findPend? 0 = some p ∧ p.kind = .load as 4 false false none dst ∧ (∃ b ∈ as, peerBase ≤ b.key ∧ b.key < bufBase .w) ∧
    (∀ b ∈ as, b.lane < 32 ∧ loadsAfar.canBind p 4 false b = true) ∧ ∃ b ∈ as, (stitchAt (peerBase + 5 * peerSize + 4) loadsAfar).canBind p 4 false b = false := by
  refine ⟨?_, _, _, _, rfl, rfl, by decide, by decide, by decide⟩
  intro s hs; simp only [List.mem_cons, List.not_mem_nil, or_false] at hs
  rcases hs with rfl | rfl <;> exact ⟨rfl, rfl, rfl⟩
theorem witness_LoadBinds_waits : InFocus 0 0 2 (stitchAt 0x40000 loads) (stitchAt 0x40000 loads) ∧ ∃ p as dst, loads.grp.findPend? 0 = some p ∧
    p.kind = .load as 4 false false none dst ∧ as ≠ [] ∧ (∀ b ∈ as, ¬ (keySpace b.key = .d ∨ (peerBase ≤ b.key ∧ b.key < bufBase .w))) ∧
    ∀ b ∈ as, (stitchAt 0x40000 loads).canBind p 4 false b = false :=
  ⟨⟨rfl, rfl, rfl⟩, _, _, _, rfl, rfl, by decide, by decide, by decide⟩
theorem witness_StorePerforms_peer : (∀ s ∈ [storesAfar, stitchAt (peerBase + 5 * peerSize + 4) storesAfar], InFocus 0 0 2 s s) ∧ ∃ p ls,
    storesAfar.grp.findPend? 0 = some p ∧ p.kind = .store .device ls ∧ (∃ z ∈ ls, peerBase ≤ z.1.key ∧ z.1.key < bufBase .w) ∧
    (∀ z ∈ ls, z.1.lane < 32 ∧ storesAfar.writeBefore 0 (z.1.key / 128) = false ∧ storesAfar.served z.1.key = true) ∧
    ∃ z ∈ ls, (stitchAt (peerBase + 5 * peerSize + 4) storesAfar).served z.1.key = false := by
  refine ⟨?_, _, _, rfl, rfl, by decide, by decide, by decide⟩
  intro s hs; simp only [List.mem_cons, List.not_mem_nil, or_false] at hs
  rcases hs with rfl | rfl <;> exact ⟨rfl, rfl, rfl⟩
/-- The line of a store and of a copy has been poisoned since it issued. -/
theorem witness_StorePerforms_poisoned : (let s := { stores with poisoned := [0x800] }
      InFocus 0 0 2 s s ∧ ∃ p ls a bs, s.grp.findPend? 0 = some p ∧ p.kind = .store .device ls ∧
        ls.filter (fun z => (1#32).getLsbD z.1.lane) = [(a, bs)] ∧ s.poisoned.contains (a.key / 128) = true ∧ s.served a.key = true ∧
        (∀ z ∈ ls, ¬ (peerBase ≤ z.1.key ∧ z.1.key < bufBase .w)) ∧ s.writeBefore 0 (a.key / 128) = false) ∧
    (let s := { copyOut with poisoned := [0x800] }
     InFocus 0 0 2 s s ∧ ∃ p know xs, s.grp.findPend? 0 = some p ∧ p.kind = .copy true 4 .w none false know xs ∧ s.copyMay p 4 .w xs = true) :=
  ⟨⟨⟨rfl, rfl, rfl⟩, _, _, _, _, rfl, rfl, rfl, by decide, by decide, by decide, by decide⟩, ⟨rfl, rfl, rfl⟩, _, _, _, rfl, rfl, by decide⟩
/-- A store finds loads of its bytes outstanding, in memory and in the W-buffer; a stitch of another group of the team stands at its line. -/
theorem witness_StoreIssue_behind : (∃ r data, storeRow (.st g0 .b4 .glob false .group 3 2 1 255) = some (r, data) ∧ r.sp = .glob ∧
      Instr.isNever (.st g0 .b4 .glob false .group 3 2 1 255) = false ∧ 
      (let s := did (.ld g0 5 .b4 false .glob false .group 5 2 1 255) ms
       Clear (.st g0 .b4 .glob false .group 3 2 1 255) s ∧
       ∃ a ∈ laneAccs (s.lanesX .w false (r.lanes s)), s.grp.loadsBefore a.lane a.key r.w = true) ∧
      (let s := { ms with groups := [{ stched.grp with gid := 3 }] }
       Clear (.st g0 .b4 .glob false .group 3 2 1 255) s ∧ ∃ a ∈ laneAccs (s.lanesX .w false (r.lanes s)),
         ∃ g ∈ s.teamGroups, ∃ p ∈ g.pend, p.kind.stitches (a.key / 128) = true)) ∧
    (let s := did (.ld g0 5 .b4 false .w false .group 5 2 1 255) (atOffset 16380)
     ∃ r data, storeRow (.st g0 .b4 .w false .group 3 2 1 255) = some (r, data) ∧ Clear (.st g0 .b4 .w false .group 3 2 1 255) s ∧
       ∃ x ∈ r.lanes s, s.grp.loadsBefore x.1 (bufBase r.sp + x.2) r.w = true) :=
  ⟨⟨_, _, rfl, rfl, by decide, ⟨clear_of_free (by decide), by decide⟩, clear_of_free (by decide), by decide⟩, _, _, rfl, clear_of_free (by decide), by decide⟩
/-- A prefetch of one page that is there and one that is not, of a misaligned lane, and of a line that stands at its home. -/
theorem witness_PrefetchAndFence_lanes :
    (∃ t, turnedAway 10 .glob (fun x => decide (x.2 % 4 ≠ 0)) (lanesAt .glob 1 2 ((atOffset 2).lanes g0) (atOffset 2)) t) ∧
    Clear (.pfch g0 0 .b4 .group 2 1 45) (atOffset 2) ∧ Clear (.pfch g0 0 .b4 .group 2 1 45) msFault ∧
    (∀ s ∈ [msFault, resident ms], (∀ x ∈ lanesAt .glob 1 2 (s.lanes g0) s, x.2 % 4 = 0) ∧
      let ok := (lanesAt .glob 1 2 (s.lanes g0) s).filterMap fun x => match s.laneX s.cluster s.team.ctx .r x.1 x.2 with
        | .ok y => if y.leaf.mig then none else some y
        | .fault _ _ _ => none
      ok ≠ [] ∧ ∀ a ∈ ok, a.key < 2 ^ 39 ∧ a.leaf.cp ≠ 3) ∧
    msFault.findLine? (homeUnit 0x40000) 0x40000 = none ∧ ((resident ms).findLine? (homeUnit 0x40004) 0x40004).isSome = true := by
  refine ⟨⟨_, _, _, rfl, rfl⟩, clear_of_free (by decide), clear_of_free (by decide), ?_, by decide, by decide⟩
  intro s hs; simp only [List.mem_cons, List.not_mem_nil, or_false] at hs
  rcases hs with rfl | rfl <;> exact ⟨by decide, by decide, by decide⟩
/-- Every lane of an STCH is held. -/
theorem witness_StitchIssue_held : (let s := { areaFull ms with team := { (areaFull ms).team with held := [] } }
    Clear (.stch g0 0 40 .device 16 12 2 1) s ∧ s.team.through = false ∧ s.team.det = true ∧ s.releaseReady .device = true ∧
    (let as := laneAccs (s.lanesX .rw false (lanesAt .glob 1 2 (s.lanes g0) s))
     s.stchOverflows as = false ∧ as ≠ [] ∧ ∀ a ∈ as, s.team.isShared a.va = true)) :=
  ⟨clear_of_free (by decide), by decide, by decide, by decide, by decide, by decide, by decide⟩

/-- Drains that break a check: no column, too wide a tile, registers beyond the cap, a misaligned base, a tile beyond the D-buffer; an adding drain
meets an error in its line, and one in its routine. -/
def drainAt (base w : W64) : State := { matS with grp := (matS.grp.setS 10 base).setS 11 w }
theorem witness_DrainIssue_faults : (∀ s ∈ [drainAt 0 0x40000, drainAt 0 0x40181, drainAt 0 0x1000000040001, drainAt 0 0x40201, drainAt 2 0x40001,
      drainAt 16384 0x40001, { matS with grp := { matS.grp with vcap := 8 } }], Clear (.mdrain 0 true true .f32 .device 8 10 255) s ∧ InRole .mat .m s) ∧
    (let regs := [((8 : Nat), (1 : Nat))]
     (regs.find? fun r => decide (0 < r.2) && decide (8 < r.1 + r.2)) = some (8, 1)) ∧
    (let spots := (drainElems (drainAt 2 0x40001).grp .f32 8 2 4 1).map fun e => (e.1.1, e.1.2.1)
     ∃ t, strays 10 .d (fun o => decide (o % 4 ≠ 0)) spots t) ∧
    (let spots := (drainElems (drainAt 16384 0x40001).grp .f32 8 16384 4 1).map fun e => (e.1.1, e.1.2.1)
     (∀ e ∈ spots, e.2 % 4 = 0) ∧ ∃ t, strays 11 .d (fun o => decide ((drainAt 16384 0x40001).spaceSize .d < o + 4)) spots t) := by
  refine ⟨?_, by decide, ⟨{ kind := 10, cause := 3, d0 := 2, d1 := 0xFFFFFFFF }, (0, 2), ?_, ?_, rfl, rfl, rfl, rfl, ?_⟩,
    by decide, { kind := 11, cause := 3, d0 := 16384, d1 := 0xFFFFFFFF }, (0, 16384), ?_, ?_, rfl, rfl, rfl, rfl, ?_⟩
  · intro s hs; simp only [List.mem_cons, List.not_mem_nil, or_false] at hs
    rcases hs with rfl | rfl | rfl | rfl | rfl | rfl | rfl <;> exact ⟨clear_of_free (by decide), rfl, _, rfl, rfl⟩
  all_goals decide +kernel
theorem witness_DrainIssue_errors : ∀ e ∈ [([0x800], []), ([], [(1, 4)])],
    (let s := { matS with lineErrors := e.1, routineErrors := e.2 }
     let heads := drainHeads ((drainElems s.grp .f32 8 0x10000 4 1).map (·.1))
     Clear (.mdrain 0 true false .f32 .device 8 12 255) s ∧ pageFaults heads (s.lanesX .w false heads) = [] ∧
     ∃ a post cause, laneAccs (s.lanesX .w false heads) = [] ++ a :: post ∧ formStops 4 s a = some cause ∧ cause = if e.1 = [] then 1 else 0) := by
  intro e he; simp only [List.mem_cons, List.not_mem_nil, or_false] at he
  rcases he with rfl | rfl <;> exact ⟨clear_of_free (by decide), by decide, _, _, _, rfl, rfl, by decide⟩
theorem witness_DrainIssue_adds : (let heads := drainHeads ((drainElems matS.grp .f32 8 0x10000 4 1).map (·.1))
    ∀ a ∈ laneAccs (matS.lanesX .w false heads), formStops 4 matS a = none) := by decide
def drainAfar : State := did (.mdrain 0 true false .f32 .device 8 12 255) (afar matS)
theorem witness_DrainCompletes_peer : InFocus 0 0 2 drainAfar drainAfar ∧ (∃ p, drainAfar.grp.findPend? 0 = some p ∧
      p.kind = .mdrain .device true false (drainOf drainAfar).2.1 (drainOf drainAfar).2.2) ∧ (drainOf drainAfar).2.1 ≠ [] ∧
    (∀ z ∈ (drainOf drainAfar).2.1, (peerBase ≤ z.1.key ∧ z.1.key < bufBase .w) ∧ drainAfar.lineMay 0 z = true) ∧
    (∃ z ∈ (drainOf drainAfar).2.1, (stitchAt (peerBase + 5 * peerSize) drainAfar).lineMay 0 z = false) ∧
    (∀ z ∈ (drainOf drainA).2.1, ¬ (peerBase ≤ z.1.key ∧ z.1.key < bufBase .w)) :=
  ⟨⟨by decide +kernel, by decide +kernel, by decide +kernel⟩, pending (by decide +kernel), by decide +kernel, by decide +kernel, by decide +kernel,
    by decide +kernel⟩
theorem witness_DrainCompletes_poisoned : (let s := { drainG with poisoned := [0x800] }
    (∀ z ∈ (drainOf s).2.1, LineFree s 0 z) ∧ ∃ z ∈ (drainOf s).2.1, s.poisoned.contains (z.1.key / 128) = true) := by
  unfold LineFree; decide +kernel

/-- A set of a home slice whose ways hold these lines, with a fill of another line of the set. -/
def fullSet (f : Nat → RLine → RLine) : State :=
  let s := filling 16
  { s with rlines := s.rlines.map fun x => if x.unit = 3 then f x.way x else x }
/-- The last way goes first as the one used longest ago, or the only one whose promise has lapsed; its line stands at its MSC. -/
def oldest15 (dirty : Bool) : State :=
  let s := fullSet fun w x => { x with age := 100 - w, cp := if w = 3 then 2 else 0, dirty := dirty && decide (w = 15) }
  { s with rlines := s.rlines ++ [{ unit := mscUnit (115 * 128), set := 1, way := 0, line := 115, due := 0, tag := none, kind := 2, h := false, ctx := 1,
                                    cp := 0, wc := 0, dirty := false, age := 0 }] }
theorem witness_LineFills_victim : ∀ d ∈ [true, false], (let s := oldest15 d
    let set := s.rlines.filter fun x => x.unit == 3 && x.set == Machine.setOf 3 0x1000
    s.parkedWays 0 = 0 ∧ (∀ w < 16, ∃ x ∈ set, x.way = w) ∧ (∀ x ∈ set, s.lineBusy x.line = false) ∧
    ∃ v ∈ set, v.way = 15 ∧ v.dirty = d ∧ v.cp ≠ 2 ∧ (∀ y ∈ set, y.cp ≠ 2 → y = v ∨ GoesFirst s v y) ∧
      (∀ y ∈ s.rlines, y.unit = 3 → y.line = v.line → y = v) ∧ s.findLine? (mscUnit (v.line * 128)) (v.line * 128) ≠ none) := by
  unfold GoesFirst victimClass
  decide +kernel
/-- Parked teams leave one way, and a stitch holds its line. -/
def onlyHeld : State :=
  { stitchAt (100 * 128) (fullSet fun _ x => x) with team := { live := true, inL2 := true }, grp := { live := true, vcap := 32 * 15359, scap := 0 } }
theorem witness_LineFills_waits : onlyHeld.parkedWays 0 = 15 ∧ (∀ x ∈ onlyHeld.rlines, x.unit = 3 → x.way < 1 → onlyHeld.lineBusy x.line = true) ∧
    ∃ f g, onlyHeld.fills = [f] ∧ ({ onlyHeld with fills := [f, g] } : State).fillNow f = none ∧ g.unit = f.unit ∧ g.req.key / 128 = f.req.key / 128 :=
  ⟨by decide +kernel, by decide +kernel, ⟨3, { key := 0x1000, cp := 0, wc := 0, ctx := 1, tag := none, r := 0, code := some 254, due := 7, dirty := true, die := 0 }, none⟩,
    ⟨3, { key := 0x1000, cp := 0, wc := 0, ctx := 1, tag := none, r := 0, code := some 0, due := 0, dirty := false, die := 0 }, none⟩, by decide +kernel,
    Option.isNone_iff_eq_none.1 (by decide +kernel), rfl, rfl⟩
/-- Two records of the group, at the first and the second of which firmware has a page to back; a migration still under way, and one that is over. -/
def twoFaults (e : Nat) (k2 : Nat) : State :=
  let s := faulted 1 0 0x20001E000 e
  { s with grp := { s.grp with recs := s.grp.recs ++ [{ s.record 0x70 { kind := k2, cause := 0, d0 := 0x10000, d1 := 1 } with seq := 1 }] } }
/-- Firmware backs the page of the first record; then the page of the second, a leaf, is in a migration or not. -/
def backedThen (mig : Bool) (s : State) : Bool := match s.backPage 1 0x20001E000 with
  | some b => (match (b.invalidate 1 fun p => p == 0x20001E000 / 8192).walk 1 0x10000 with
    | .leaf l => l.mig == mig
    | _ => false)
  | none => false
theorem resolves {s : State} {r : FRec} {mig : Bool} (h : backedThen mig s = true) (hw : s.walk 1 0x20001E000 = .notMapped)
    (hr : r.kind = 1 ∧ r.cause = 0 ∧ r.d0.toNat = 0x20001E000) :
    ∃ u, resolvesAll 1 [r] s u ∧ ∃ l, u.walk 1 0x10000 = .leaf l ∧ l.mig = mig := by
  unfold backedThen at h
  split at h
  · rename_i b hb
    split at h
    · rename_i l hl
      exact ⟨_, ⟨_, .inr (.inl ⟨hr.1, hr.2.1, hr.2.2 ▸ hw, b, hr.2.2 ▸ hb, rfl⟩), rfl⟩, l, hr.2.2 ▸ hl, by simpa using h⟩
    · cases h
  · cases h
theorem witness_FaultResolution_records : ∀ e ∈ [0x3F, 0x800000000000003B], InFocus 0 0 2 (twoFaults e 2) (twoFaults e 2) ∧
    (twoFaults e 2).grp.susp = .parked ∧ (twoFaults e 2).grp.unwritten = false ∧ (twoFaults e 2).ending = false ∧
    ∃ r p, (twoFaults e 2).grp.recs = [r] ++ p :: [] ∧ p.kind = 2 ∧ p.d0.toNat = 0x10000 ∧
      ∃ u, resolvesAll 1 [r] (twoFaults e 2) u ∧ ∃ l, u.walk 1 0x10000 = .leaf l ∧ l.mig = (e != 0x3F) := by
  intro e he; simp only [List.mem_cons, List.not_mem_nil, or_false] at he
  rcases he with rfl | rfl <;>
    exact ⟨⟨rfl, rfl, rfl⟩, rfl, rfl, rfl, _, _, rfl, rfl, rfl, resolves (by decide +kernel) (by decide +kernel) ⟨rfl, rfl, rfl⟩⟩
theorem witness_FaultResolution_all : ∃ u, resolvesAll 1 (twoFaults 0x3F 2).grp.recs (twoFaults 0x3F 2) u := by
  obtain ⟨-, -, -, -, r, p, h, hk, hd, u, hu, l, hl, hm⟩ := witness_FaultResolution_records 0x3F (.head _)
  obtain ⟨v, hv, rfl⟩ := hu
  rw [h]
  exact ⟨u, u, hv, u, .inl ⟨hk, fun l' h' => by rw [hd] at h'; cases hl.symm.trans h'; simpa using hm, rfl⟩, rfl⟩

/-- A finished piece has sent a store at issue that has still to perform. -/
theorem witness_Commit_sending : (let s := { skiving retiredL with
        team := { (st []).team with live := true, launch := 7, through := true, retiring := true }
        grp := stores.grp }
      (∃ t ∈ s.allTeams, t.live = true ∧ t.launch = 7 ∧ t.piece.idx = done0.idx ∧ t.through = true ∧ s.teamBusy t = true) ∧
      s.findLaunch? 7 = some retiredL ∧ s.commitHeld retiredL = false ∧ s.commitServed done0.held = true) ∧
    ∀ t ∈ (skiving retiredL).allTeams, t.live = true → t.through = false :=
  ⟨⟨by decide +kernel, rfl, rfl, by decide⟩, by decide⟩
/-- A STREL of a peer; an STCH has a lane at a peer that does not answer. -/
def stchAfar : State := did (.stch g0 0 40 .device 16 12 2 1) (afar ms)
theorem witness_LinkEvents_stitches : ({ dev := { state := 2 } } : State).dev.state = 2 ∧ ({ dev := 5, frees := true } : PeerReq).frees = true ∧
    ({ dev := 5, ops := [7] } : PeerReq).frees = false ∧
    (let s1 := devWith (fun d => { d with unreachable := if d.unreachable.contains 5 then d.unreachable else d.unreachable ++ [5] }) stchAfar
     InFocus 0 0 2 s1 s1 ∧ ∃ p key, s1.grp.pend.find? (fun p => (p.kind.peerKey 5).isSome) = some p ∧ p.kind.peerKey 5 = some key ∧
       s1.grp.findPend? p.seq = some p ∧ ∃ sl sc rv zero lanes, p.kind = .stch sl sc rv zero lanes ∧ ∀ z ∈ lanes, z.1.lane < 32) ∧
    (let s1 := devWith (fun d => { d with unreachable := [5] }) storesAfar
     InFocus 0 0 2 s1 s1 ∧ ∃ p, s1.grp.pend.find? (fun p => (p.kind.peerKey 5).isSome) = some p ∧ ∃ sc ls, p.kind = .store sc ls) := by
  refine ⟨rfl, rfl, rfl, ⟨⟨rfl, rfl, rfl⟩, _, _, rfl, rfl, rfl, _, _, _, _, _, rfl, ?_⟩, ⟨rfl, rfl, rfl⟩, _, rfl, _, _, rfl⟩
  decide
theorem witness_HeldInstructions_peer : (∃ p ∈ loadsAfar.grp.pend, AtPeer p) ∧ (∃ p ∈ storesAfar.grp.pend, AtPeer p) ∧
    loadsAfar.holds (.nop g0) = true ∧ MayStand (.nop g0) loadsAfar := by
  refine ⟨⟨_, .head _, ?_⟩, ⟨_, .head _, ?_⟩, by decide, ?_⟩
  · show ∃ a ∈ _, _; exact ⟨_, .head _, by decide, by decide⟩
  · show ∃ a ∈ _, _; exact ⟨_, .head _, by decide, by decide⟩
  · have h : opClass (opcodeOf (.nop g0)) = .g := by decide
    simp only [MayStand, h]
/-- A dispatched team has lane-private regions. -/
theorem witness_PieceDispatch_private : (did (.pieceDispatch 7) (skiving (dispatching 0))).groups ≠ [] ∧ body2.priv ≠ 0 := by
  refine ⟨?_, by decide⟩
  have h : (did (.pieceDispatch 7) (skiving (dispatching 0))).groups.isEmpty = false := by decide +kernel
  intro hn; rw [hn] at h; cases h
/-- The group that issued last stands at a wait point; or at a clause boundary. -/
theorem witness_IssueSelection_wait : { amid with grp := { amid.grp with gap := .before } }.maySwitch 0 2 = true ∧
    { amid with grp := { amid.grp with hdr := none } }.maySwitch 0 2 = true := by decide
/-- Sums: infinities of both signs, of one, zeros all negative or not, and totals that are zero and not. -/
theorem witness_ExactSums : (let clash : List Term := [.inf false, .inf true]
      Term.inf false ∈ clash ∧ Term.inf true ∈ clash) ∧
    (let ts : List Term := [.fin false 1 0, .inf true]
     Term.nan ∉ ts ∧ Term.inf true ∈ ts ∧ Term.inf (!true) ∉ ts) ∧
    (let ts : List (Term × Nat) := [(.fin true 0 0, 0), (.fin true 0 3, 0)]
     total ts = 0 ∧ ∀ t ∈ ts.map (·.1), ∃ e, t = .fin true 0 e) ∧
    (let ts : List (Term × Nat) := [(.fin true 3 1, 0), (.fin false 6 0, 0)]
     total ts = 0 ∧ ¬ ∀ t ∈ ts.map (·.1), ∃ e, t = .fin true 0 e) ∧
    (let ts : List (Term × Nat) := [(.fin true 3 1, 0), (.fin false 5 0, 0)]
     total ts < 0 ∧ ∀ t ∈ ts.map (·.1), ∃ n m e, t = .fin n m e) := by
  refine ⟨by decide, by decide, ⟨by decide +kernel, ?_⟩, ⟨by decide +kernel, ?_⟩, by decide +kernel, ?_⟩
  · simp
  · simp
  · simp

end Sys2Proof.Tests
end

section
/-! Proofs of the family of 00 (scope): O53 (RegisterCaps). A CPY waits for room among its core's 64 copies before its checks (08 R164, the
effect of 20 R319; log entry 38), so one that names a register beyond a cap takes no register-bounds fault while it waits. -/

namespace Sys2Proof.Machine

open Slice0

theorem roleFault_of_inRole {kind : RoleKind} {k : ClauseClass} {s : State} (h : InRole kind k s) : s.grp.roleFault kind k = false := by
  obtain ⟨hkind, hd, hhdr, hcls⟩ := h
  simp [Group.roleFault, Group.inClass, hkind, hhdr, hcls]

theorem classOp_acts (opc : Nat) (i : Instr) (kind : RoleKind) (k : ClauseClass) (body : State → State) (s : State) (hh : s.holds i = false)
    (hr : s.grp.roleFault kind k = false) : classOp opc i kind k body s = .next (body s) := by
  simp [classOp, windowShut_of_not_held hh, hr, hh]

/-- A copy that would be the 65th of its core leaves everything as it is, whatever its operands (08 R164). -/
theorem copyIssue_of_coreFull (out : Bool) (i : Instr) (g : Guard) (w : Nat) (buf : Buf) (bar : Option BReg) (bv gv : VReg) (gs : SLow)
    (nud : BitVec 8) (s : State) (hn : g.isNever = false) (hfull : 64 ≤ s.copiesOut) :
    copyIssue out i g w buf bar bv gv gs nud s = s := by
  simp [copyIssue, hn, hfull]

theorem exec_cpy_of_coreFull (g : Guard) (la : Fin 16) (w : Width) (buf : Buf) (bar : Option BReg) (bv gv : VReg) (gs : SLow)
    (nud : BitVec 8) (s : State) (hn : g.isNever = false) (hh : s.holds (.cpy g la w buf bar bv gv gs nud) = false)
    (hr : InRole .cpy .c s) (hfull : 64 ≤ s.copiesOut) : exec (.cpy g la w buf bar bv gv gs nud) s = .next s :=
  calc exec (.cpy g la w buf bar bv gv gs nud) s
      = .next (copyIssue false (.cpy g la w buf bar bv gv gs nud) g w.bytes buf bar bv gv gs nud s) :=
        classOp_acts 0x74 _ .cpy .c _ s hh (roleFault_of_inRole hr)
    _ = .next s := by rw [copyIssue_of_coreFull _ _ _ _ _ _ _ _ _ _ _ hn hfull]

/-- A fault stops its group, so that it changes the state of one that runs (17 R274). -/
theorem State.takeFault_ne_self (opc : Nat) (t : Trap) (s : State) (h : s.grp.susp ≠ .stopped) : s.takeFault opc t ≠ s :=
  fun he => h (congrArg (fun u : State => u.grp.susp) he).symm

/-- A copy thread that its core has still to serve. -/
def copyInFlight (n : Nat) : Pend := { Pend.new 0x74 (.copy false 4 .w none false {} []) with seq := n, count := some .copies }

/-- A group of a CPY role that owns V0 to V7 and S0 to S7 stands in a C clause, on a core with 64 copies outstanding. -/
def coreFull : State :=
  { grp := { live := true, kind := .cpy, vcap := 8, scap := 8, xm := 1,
             hdr := some { count := 1, cls := .c, ldw := 15, stw := 15, mxw := 15, cpw := 15 },
             pend := (List.range 64).map copyInFlight } }

/-- A copy with its buffer offsets in V8. -/
def cpyBeyondCap : Instr := .cpy Guard.always 0 .b4 .w none 8 0 0 255

theorem coreFull_inRole : InRole .cpy .c coreFull := ⟨rfl, _, rfl, rfl⟩

theorem coreFull_copiesOut : 64 ≤ coreFull.copiesOut := by decide

theorem coreFull_not_holds : coreFull.holds cpyBeyondCap = false := by decide

theorem cpyBeyondCap_mayStand : MayStand cpyBeyondCap coreFull := by
  have h : opClass (opcodeOf cpyBeyondCap) = .c := by decide
  simp only [MayStand, h]
  exact coreFull_inRole

theorem cpyBeyondCap_beyond :
    ((Instr.uses cpyBeyondCap).dst ++ (Instr.uses cpyBeyondCap).src).filter (beyond coreFull.grp) = [.v 8] := by decide

end Sys2Proof.Machine

open Sys2Proof Sys2Proof.Machine in
/-- Refutes O53: a CPY that names V8 under a vector cap of 8 waits, without a fault, while its core has 64 copies outstanding. -/
theorem not_registerCaps : ¬ Obligations.RegisterCaps := by
  intro h
  have hfault := (h cpyBeyondCap coreFull rfl).2.1 (.v 8) [] cpyBeyondCap_mayStand coreFull_not_holds rfl rfl cpyBeyondCap_beyond
  have hwait : exec cpyBeyondCap coreFull = .next coreFull :=
    exec_cpy_of_coreFull _ _ _ _ _ _ _ _ _ _ rfl coreFull_not_holds coreFull_inRole coreFull_copiesOut
  exact State.takeFault_ne_self _ _ coreFull (by decide) (Host.Outcome.next.inj (hfault.symm.trans hwait))

end

section
/-! Proofs of the family of 01 (machine): O51 (LinksLivenessPower). What the homes do to bring a line; bytes of memory after a write of cells
and after additions; what an invocation comes to, and so a peer's stitch; a timeout of a peer; then liveness, power and clocks. -/

namespace Sys2Proof.Machine

open Slice0

/-! ## What bringing a line to its home leaves (12 R214; 09 R177 to R184) -/

/-- What the work of the homes and MSCs on their lines leaves as it is: memory, the group in focus and the routine in hand (09 R184). -/
structure HomesKeep (s t : State) : Prop where
  mem : t.mem = s.mem
  grp : t.grp = s.grp
  run : t.run = s.run

theorem HomesKeep.refl (s : State) : HomesKeep s s := ⟨rfl, rfl, rfl⟩

theorem HomesKeep.trans {s t u : State} (h : HomesKeep s t) (h' : HomesKeep t u) : HomesKeep s u :=
  ⟨h'.mem.trans h.mem, h'.grp.trans h.grp, h'.run.trans h.run⟩

theorem HomesKeep.foldl {α : Type} (f : State → α → State) (hf : ∀ s a, HomesKeep s (f s a)) (l : List α) (s : State) :
    HomesKeep s (l.foldl f s) := by
  induction l generalizing s with
  | nil => exact .refl s
  | cons a l ih => exact (hf s a).trans (ih (f s a))

theorem State.teamUpdate_homes (u : Nat) (q : Req) (s : State) : HomesKeep s (s.teamUpdate u q) := by
  obtain ⟨b, h⟩ := State.teamUpdate_changes u q s
  rw [h]; exact ⟨rfl, rfl, rfl⟩

theorem State.keepOld_homes (key : Nat) (old : Option Memory) (s : State) : HomesKeep s (s.keepOld key old) := by
  obtain ⟨c, h⟩ := State.keepOld_changes key old s
  rw [h]; exact ⟨rfl, rfl, rfl⟩

theorem State.request_homes (q : Req) (s : State) : HomesKeep s (s.request q) := by
  obtain ⟨a, b, c, d, h⟩ := State.request_changes q s
  rw [h]; exact ⟨rfl, rfl, rfl⟩

theorem HomesKeep.rlines (r : List RLine) (s : State) : HomesKeep s { s with rlines := r } := ⟨rfl, rfl, rfl⟩

theorem State.countEvict_homes (unit ctx : Nat) (l : Bool) (s : State) : HomesKeep s (s.countEvict unit ctx l) := ⟨rfl, rfl, rfl⟩

theorem State.putLine_homes (x : RLine) (s : State) : HomesKeep s (s.putLine x) := ⟨rfl, rfl, rfl⟩

theorem State.intoMsc_homes (x : RLine) (s t : State) (h : s.intoMsc x = some t) : HomesKeep s t := by
  unfold State.intoMsc at h
  simp only [] at h
  split at h
  case h_1 => cases h; exact ⟨rfl, rfl, rfl⟩
  case h_2 =>
    split at h
    case h_1 => cases h; exact State.putLine_homes _ s
    case h_2 => cases h; exact (State.countEvict_homes _ _ _ s).trans (State.putLine_homes _ _)
    case h_3 => cases h

theorem State.evictL2_homes (v : RLine) (cls : Nat) (s t : State) (h : s.evictL2 v cls = some t) : HomesKeep s t := by
  refine (State.countEvict_homes v.unit v.ctx (lapsed cls v) s).trans
    ((HomesKeep.rlines (s.rlines.filter fun y => !(y.unit == v.unit && y.line == v.line)) _).trans ?_)
  unfold State.evictL2 at h
  simp only [] at h
  split at h
  case isTrue => exact State.intoMsc_homes v _ t h
  case isFalse =>
    split at h
    case h_1 => exact State.intoMsc_homes v _ t h
    case h_2 => cases h; exact .refl _

theorem State.mscServe_homes (q : Req) (s t : State) (h : s.mscServe q = some t) : HomesKeep s t := by
  refine (State.teamUpdate_homes (mscUnit q.key) q s).trans ?_
  unfold State.mscServe at h
  simp only [] at h
  split at h
  case h_1 => cases h; exact ⟨rfl, rfl, rfl⟩
  case h_2 => exact State.intoMsc_homes _ _ t h

theorem State.fill_homes (f : FillReq) (s t : State) (h : s.fill f = some t) : HomesKeep s t := by
  have htake : ∀ (way : Nat) (u : State), (u.mscServe f.req).map (fun u =>
      (u.keepOld f.req.key f.old).putLine (u.filled f.unit way f.req)) = some t → HomesKeep u t := by
    intro way u hu
    obtain ⟨v, hv, rfl⟩ := Option.map_eq_some_iff.1 hu
    exact (State.mscServe_homes f.req u v hv).trans ((State.keepOld_homes _ _ v).trans (State.putLine_homes _ _))
  unfold State.fill at h
  simp only [] at h
  split at h
  case isTrue => cases h; exact .refl s
  case isFalse =>
    split at h
    case h_1 => cases h
    case h_2 => exact htake _ s h
    case h_3 =>
      obtain ⟨u, hu, hw⟩ := Option.bind_eq_some_iff.1 h
      exact (State.evictL2_homes _ _ s u hu).trans (htake _ u hw)

theorem State.countFill_homes (q : Req) (s : State) : HomesKeep s (s.countFill q) := by
  unfold State.countFill
  split
  · exact .refl s
  · split
    · exact .refl s
    · split <;> exact ⟨rfl, rfl, rfl⟩

theorem State.stampQueued_homes (unit key : Nat) (s : State) : HomesKeep s (s.stampQueued unit key) := by
  have hfold := HomesKeep.foldl (fun (s : State) (f : FillReq) =>
    { s with rlines := upd (fun x => x.unit == unit && x.line == key / 128) (fun x => { x.stamped false f.req with age := s.nextAge })
                         s.rlines }.keepOld key f.old)
    (fun s f => (HomesKeep.rlines _ s).trans (State.keepOld_homes key f.old _))
    (s.fills.filter fun f => f.unit == unit && f.req.key / 128 == key / 128) s
  exact hfold.trans ⟨rfl, rfl, rfl⟩

theorem State.fillNow_homes (f : FillReq) (s t : State) (h : s.fillNow f = some t) : HomesKeep s t := by
  obtain ⟨u, hu, rfl⟩ := Option.map_eq_some_iff.1 h
  split
  · exact State.stampQueued_homes _ _ s
  · have herase : HomesKeep u { u with fills := u.fills.erase f } := ⟨rfl, rfl, rfl⟩
    exact (State.fill_homes f s u hu).trans (herase.trans ((State.countFill_homes _ _).trans (State.stampQueued_homes _ _ _)))

/-- A line that its home needs comes with nothing else done (12 R214). -/
theorem State.bring_homes (q : Req) (s t : State) (h : s.bring q = some t) : HomesKeep s t := by
  refine (State.request_homes q s).trans ?_
  unfold State.bring at h
  simp only [] at h
  split at h
  · cases h; exact .refl _
  · split at h
    · exact State.fillNow_homes _ _ t h
    · cases h; exact .refl _

/-! ## Bytes of memory after a write of cells -/

/-- Where every cell holds what f gives for its key, a byte that is stored reads as f of its key. -/
theorem Memory.byte_puts_of (f : Nat → Byte) (cs : List Host.Cell) (hf : ∀ c ∈ cs, c.2 = f c.1) (m : Memory) (a : Nat) :
    (m.puts cs).byte a = if ∃ c ∈ cs, c.1 = a then f a else m.byte a := by
  induction cs generalizing m with
  | nil => simp [Memory.puts]
  | cons c cs ih =>
    have hrest : (m.puts (c :: cs)).byte a = if ∃ e ∈ cs, e.1 = a then f a else (m.put c.1 c.2).byte a :=
      ih (fun e he => hf e (List.mem_cons_of_mem c he)) (m.put c.1 c.2)
    rw [hrest, Memory.byte_put, hf c List.mem_cons_self]
    by_cases hc : c.1 = a
    · subst hc; simp
    · simp [hc, Ne.symm hc]

/-- Byte i of a word. -/
theorem byte_of_word (w : W32) (i : Nat) : (w >>> (8 * i)).setWidth 8 = BitVec.ofNat 8 (w.toNat / 256 ^ i) := by
  apply BitVec.eq_of_toNat_eq
  rw [BitVec.toNat_setWidth, BitVec.toNat_ushiftRight, BitVec.toNat_ofNat, Nat.shiftRight_eq_div_pow, Nat.pow_mul]

theorem leBytes_getElem? (n x i : Nat) : (leBytes n x)[i]? = if i < n then some (BitVec.ofNat 8 (x / 256 ^ i)) else none := by
  induction n generalizing x i with
  | zero => simp [leBytes]
  | succ n ih =>
    cases i with
    | zero => simp [leBytes]
    | succ i => simp [leBytes, ih, Nat.div_div_eq_div_mul, Nat.pow_succ']

theorem leBytes_length (n x : Nat) : (leBytes n x).length = n := by
  induction n generalizing x with
  | zero => rfl
  | succ n ih => simp [leBytes, ih]

/-- The cells of bytes in a row. -/
theorem mem_rowCells {bs : List Byte} {n k : Nat} {f : Nat → Byte} {c : Host.Cell} (hlen : bs.length = n) (hat : ∀ i < n, bs[i]? = some (f i)) :
    c ∈ bs.mapIdx (fun i b => (k + i, b)) ↔ ∃ i < n, c = (k + i, f i) := by
  have hget : ∀ i (hi : i < bs.length), bs[i] = f i := fun i hi =>
    Option.some.inj ((List.getElem?_eq_getElem hi).symm.trans (hat i (hlen ▸ hi)))
  rw [List.mem_mapIdx]
  constructor
  · rintro ⟨i, hi, rfl⟩
    exact ⟨i, hlen ▸ hi, by rw [hget i hi]⟩
  · rintro ⟨i, hi, rfl⟩
    exact ⟨i, hlen.symm ▸ hi, by rw [hget]⟩

theorem mem_leCells {c : Host.Cell} {k n x : Nat} : c ∈ leCells k n x ↔ ∃ i < n, c = (k + i, BitVec.ofNat 8 (x / 256 ^ i)) :=
  mem_rowCells (leBytes_length n x) fun i hi => by rw [leBytes_getElem?, if_pos hi]

/-- A write into a line that is not poisoned is whole (12 R222). -/
theorem filter_of_not_poisoned {s : State} {line : Nat} {cs : List Host.Cell} (hp : line ∉ s.poisoned) (hcs : ∀ c ∈ cs, c.1 / 128 = line) :
    cs.filter (fun c => !s.poisoned.contains (c.1 / 128)) = cs :=
  List.filter_eq_self.2 fun c hc => by simpa [hcs c hc] using hp

theorem getD_of_lt {l : List W32} {i : Nat} (h : i < l.length) : l.getD i 0 = l[i] := by
  rw [List.getD_eq_getElem?_getD, List.getElem?_eq_getElem h, Option.getD_some]

/-- The byte that a line of words has at an address: little-endian (00 R5). -/
def wordsByte (l : List W32) (a : Nat) : Byte := ((l.getD (a % 128 / 4) 0) >>> (8 * (a % 4))).setWidth 8

theorem mem_wordCells {c : Host.Cell} {key : Nat} {l : List W32} :
    c ∈ wordCells key l ↔ ∃ j, ∃ h : j < l.length, ∃ i < 4, c = (key / 128 * 128 + 4 * j + i, BitVec.ofNat 8 (l[j].toNat / 256 ^ i)) := by
  simp only [wordCells, List.mem_flatMap, mem_leCells]
  constructor
  · rintro ⟨⟨w, j⟩, hw, hc⟩
    obtain ⟨hj, hword⟩ := List.mem_zipIdx' hw
    exact ⟨j, hj, by rwa [← hword]⟩
  · rintro ⟨j, hj, hc⟩
    exact ⟨(l[j], j), List.mk_mem_zipIdx_iff_getElem?.2 (List.getElem?_eq_getElem hj), hc⟩

/-- The cells of a line's words stand in that line, each with its byte. -/
theorem wordCells_spec {c : Host.Cell} {key : Nat} {l : List W32} (hl : l.length ≤ 32) (hc : c ∈ wordCells key l) :
    c.1 / 128 = key / 128 ∧ c.2 = wordsByte l c.1 := by
  obtain ⟨j, hj, i, hi, rfl⟩ := mem_wordCells.1 hc
  have hw : (key / 128 * 128 + 4 * j + i) % 128 / 4 = j := by omega
  have hb : (key / 128 * 128 + 4 * j + i) % 4 = i := by omega
  exact ⟨by simp only []; omega, by simp only [wordsByte, hw, hb, byte_of_word, getD_of_lt hj]⟩

/-- What a routine's line leaves in memory, where the line is not poisoned. -/
theorem State.commitLine_byte (key : Nat) (l : List W32) (s : State) (hl : l.length = 32) (hp : key / 128 ∉ s.poisoned) (a : Nat) :
    (s.commitLine key l).mem.byte a = if a / 128 = key / 128 then wordsByte l a else s.mem.byte a := by
  have hall := filter_of_not_poisoned hp fun c hc => (wordCells_spec (l := l) (Nat.le_of_eq hl) hc).1
  have hkeys : (∃ c ∈ wordCells key l, c.1 = a) ↔ a / 128 = key / 128 := by
    constructor
    · rintro ⟨c, hc, rfl⟩
      exact (wordCells_spec (Nat.le_of_eq hl) hc).1
    · intro ha
      refine ⟨_, mem_wordCells.2 ⟨a % 128 / 4, by omega, a % 4, by omega, rfl⟩, ?_⟩
      simp only []
      omega
  have hbytes := Memory.byte_puts_of (wordsByte l) (wordCells key l) (fun c hc => (wordCells_spec (Nat.le_of_eq hl) hc).2) s.mem a
  rw [show (s.commitLine key l).mem = s.mem.puts (wordCells key l) from congrArg s.mem.puts hall]
  simpa only [hkeys] using hbytes

theorem flatMap_leBytes_length (ops : List W32) : (ops.flatMap fun w => leBytes 4 w.toNat).length = 4 * ops.length := by
  induction ops with
  | nil => rfl
  | cons w ops ih =>
    rw [List.flatMap_cons, List.length_append, leBytes_length, ih, List.length_cons]
    omega

/-- Byte i of words in a row. -/
theorem flatMap_leBytes_getElem? (ops : List W32) (i : Nat) :
    (ops.flatMap fun w => leBytes 4 w.toNat)[i]? = ops[i / 4]?.map fun w => BitVec.ofNat 8 (w.toNat / 256 ^ (i % 4)) := by
  induction ops generalizing i with
  | nil => simp
  | cons w ops ih =>
    rw [List.flatMap_cons]
    by_cases hi : i < 4
    · rw [List.getElem?_append_left (by rwa [leBytes_length]), leBytes_getElem?, if_pos hi, Nat.div_eq_of_lt hi, Nat.mod_eq_of_lt hi]
      rfl
    · obtain ⟨j, rfl⟩ := Nat.exists_eq_add_of_le (Nat.le_of_not_lt hi)
      rw [List.getElem?_append_right (by rw [leBytes_length]; omega), leBytes_length, Nat.add_sub_cancel_left, ih j,
        show (4 + j) / 4 = j / 4 + 1 by omega, show (4 + j) % 4 = j % 4 by omega, List.getElem?_cons_succ]

/-- The byte that a peer's write brings to an address (13 Table 13-2). -/
def peerByte (pa : Nat) (ops : List W32) (a : Nat) : Byte := ((ops.getD ((a - pa) / 4) 0) >>> (8 * ((a - pa) % 4))).setWidth 8

/-- The cells of a peer's write: n bytes of its words from an address on. -/
def peerCells (pa n : Nat) (ops : List W32) : List Host.Cell := ((ops.flatMap fun w => leBytes 4 w.toNat).take n).mapIdx fun i b => (pa + i, b)

theorem mem_peerCells {c : Host.Cell} {pa n : Nat} {ops : List W32} (hn : n ≤ 4 * ops.length) :
    c ∈ peerCells pa n ops ↔ ∃ i < n, c = (pa + i, peerByte pa ops (pa + i)) := by
  have hlen : ((ops.flatMap fun w => leBytes 4 w.toNat).take n).length = n := by
    rw [List.length_take, flatMap_leBytes_length]
    exact Nat.min_eq_left hn
  refine mem_rowCells hlen fun i hi => ?_
  have hw : i / 4 < ops.length := by omega
  rw [List.getElem?_take_of_lt hi, flatMap_leBytes_getElem?, List.getElem?_eq_getElem hw, Option.map_some, peerByte, Nat.add_sub_cancel_left,
    byte_of_word, getD_of_lt hw]

/-- What a write that stays in one line, not poisoned, leaves in memory. -/
theorem State.writeMem_peerCells_byte (pa n : Nat) (ops : List W32) (s : State) (hline : pa % 128 + n ≤ 128) (hn : n ≤ 4 * ops.length)
    (hp : pa / 128 ∉ s.poisoned) (a : Nat) :
    (s.writeMem (peerCells pa n ops)).mem.byte a =
      if pa ≤ a ∧ a < pa + n then peerByte pa ops a else s.mem.byte a := by
  have hall : (peerCells pa n ops).filter (fun c => !s.poisoned.contains (c.1 / 128)) = peerCells pa n ops := by
    refine filter_of_not_poisoned hp fun c hc => ?_
    obtain ⟨i, hi, rfl⟩ := (mem_peerCells hn).1 hc
    simp only []
    omega
  have hkeys : (∃ c ∈ peerCells pa n ops, c.1 = a) ↔ pa ≤ a ∧ a < pa + n := by
    constructor
    · rintro ⟨c, hc, rfl⟩
      obtain ⟨i, hi, rfl⟩ := (mem_peerCells hn).1 hc
      simp only []
      omega
    · rintro ⟨hlo, hhi⟩
      exact ⟨_, (mem_peerCells hn).2 ⟨a - pa, by omega, rfl⟩, by simp only []; omega⟩
  have hvals : ∀ c ∈ peerCells pa n ops, c.2 = peerByte pa ops c.1 := by
    intro c hc
    obtain ⟨i, -, rfl⟩ := (mem_peerCells hn).1 hc
    rfl
  have hbytes := Memory.byte_puts_of _ (peerCells pa n ops) hvals s.mem a
  rw [State.mem_writeMem, hall]
  simpa only [hkeys] using hbytes

/-! ## Lines to which words are added -/

theorem getElem_add_le_of_sorted {ks : List Nat} (hs : ks.Pairwise (· < ·)) (i d : Nat) (h : i + d < ks.length) : ks[i] + d ≤ ks[i + d] := by
  induction d with
  | zero => exact Nat.le_refl _
  | succ d ih =>
    have hlt : ks[i + d] < ks[i + (d + 1)] := List.pairwise_iff_getElem.1 hs (i + d) (i + (d + 1)) (by omega) h (by omega)
    have := ih (by omega)
    omega

/-- An element of cells with rising keys in a range lies in that range with all of its bytes. -/
theorem cellElems_range {w : Nat} {cells : List Host.Cell} {lo hi : Nat} (hw : 0 < w) (hs : (cells.map (·.1)).Pairwise (· < ·))
    (hr : ∀ c ∈ cells, lo ≤ c.1 ∧ c.1 < hi) {e : Nat × Nat} (he : e ∈ cellElems w cells) : lo ≤ e.1 ∧ e.1 + w ≤ hi := by
  obtain ⟨i, hi', rfl⟩ := List.mem_map.1 he
  have hmul : w * (i + 1) ≤ cells.length :=
    Nat.le_trans (Nat.mul_le_mul_left w (List.mem_range.1 hi')) (Nat.mul_div_le _ _)
  rw [Nat.mul_succ] at hmul
  have hfirst : w * i < cells.length := by omega
  have hlast : w * i + (w - 1) < cells.length := by omega
  have hhead : ((((cells.drop (w * i)).take w).map (·.1)).headD 0) = (cells[w * i]).1 := by
    rw [List.headD_eq_head?_getD, List.head?_map, List.head?_take, if_neg (by omega), List.head?_drop, List.getElem?_eq_getElem hfirst]
    rfl
  have hgap := getElem_add_le_of_sorted hs (w * i) (w - 1) (by simpa using hlast)
  simp only [List.getElem_map] at hgap
  have hlo := (hr _ (List.getElem_mem hfirst)).1
  have hhi := (hr _ (List.getElem_mem hlast)).2
  simp only [hhead]
  omega

theorem Memory.putWord_byte_other (m : Memory) (k n x a : Nat) (h : a < k ∨ k + n ≤ a) : (m.putWord k n x).byte a = m.byte a := by
  refine Memory.byte_puts_other _ m a fun c hc => ?_
  obtain ⟨i, hi, rfl⟩ := mem_leCells.1 hc
  simp only []
  omega

/-- Additions to cells with rising keys in a range leave every byte outside it. -/
theorem addCells_byte_other (dbl : Bool) (cells : List Host.Cell) {lo hi : Nat} (hs : (cells.map (·.1)).Pairwise (· < ·))
    (hr : ∀ c ∈ cells, lo ≤ c.1 ∧ c.1 < hi) (m : Memory) (a : Nat) (ha : a < lo ∨ hi ≤ a) : (addCells dbl cells m).byte a = m.byte a := by
  have hw : 0 < if dbl then 8 else 4 := by split <;> decide
  have hel : ∀ e ∈ cellElems (if dbl then 8 else 4) cells, a < e.1 ∨ e.1 + (if dbl then 8 else 4) ≤ a := by
    intro e he
    have := cellElems_range hw hs hr he
    omega
  unfold addCells
  simp only []
  generalize cellElems (if dbl then 8 else 4) cells = es at hel
  induction es generalizing m with
  | nil => rfl
  | cons e es ih =>
    rw [List.foldl_cons, ih _ fun e' he' => hel e' (List.mem_cons_of_mem e he')]
    exact Memory.putWord_byte_other m _ _ _ a (hel e List.mem_cons_self)

theorem mem_lineFormCells {key : Nat} {m : W32} {ops : List W32} {c : Host.Cell} (hc : c ∈ lineFormCells key m ops) :
    ∃ i < 32, ∃ j < 4, c.1 = key / 128 * 128 + 4 * i + j := by
  obtain ⟨i, hi, hc⟩ := List.mem_flatMap.1 hc
  split at hc
  · obtain ⟨j, hj, rfl⟩ := mem_leCells.1 hc
    exact ⟨i, List.mem_range.1 hi, j, hj, rfl⟩
  · cases hc

theorem leCells_keys (k n x : Nat) : (leCells k n x).map (·.1) = (List.range n).map (k + ·) := by
  apply List.ext_getElem
  · simp [leCells, leBytes_length]
  · intro i h1 h2
    simp [leCells]

theorem lineFormCells_sorted (key : Nat) (m : W32) (ops : List W32) : ((lineFormCells key m ops).map (·.1)).Pairwise (· < ·) := by
  rw [lineFormCells, List.map_flatMap, List.pairwise_flatMap]
  constructor
  · intro i hi
    split
    · rw [leCells_keys, List.pairwise_map]
      exact List.pairwise_lt_range.imp fun h => Nat.add_lt_add_left h _
    · exact List.Pairwise.nil
  · refine List.pairwise_lt_range.imp fun {i j} hij a ha b hb => ?_
    split at ha
    case isFalse => cases ha
    case isTrue =>
      split at hb
      case isFalse => cases hb
      case isTrue =>
        rw [leCells_keys, List.mem_map] at ha hb
        obtain ⟨x, hx, rfl⟩ := ha
        obtain ⟨y, hy, rfl⟩ := hb
        rw [List.mem_range] at hx
        omega

/-- The line form adds in its line alone (12 R221). -/
theorem addCells_lineForm_other (dbl : Bool) (key : Nat) (mask : W32) (ops : List W32) (m : Memory) (a : Nat) (ha : a / 128 ≠ key / 128) :
    (addCells dbl (lineFormCells key mask ops) m).byte a = m.byte a := by
  refine addCells_byte_other dbl _ (lo := key / 128 * 128) (hi := key / 128 * 128 + 128) (lineFormCells_sorted key mask ops) ?_ m a (by omega)
  intro c hc
  obtain ⟨i, hi, j, hj, hk⟩ := mem_lineFormCells hc
  omega

/-! ## The line that a routine commits -/

theorem elemSet_length (wide : Bool) (l : List W32) (e x : Nat) : (elemSet wide l e x).length = l.length := by
  cases wide <;> simp [elemSet]

theorem StitchRun.write_line_length (r : StitchRun) (d : Nat) (p : Nat → Bool) (f : Nat → Nat) : (r.write d p f).l.length = r.l.length := by
  have hfold : ∀ (es : List Nat) (l : List W32),
      (es.foldl (fun l e => if p e then elemSet r.wide l e (f e % 2 ^ r.w) else l) l).length = l.length := by
    intro es
    induction es with
    | nil => intro l; rfl
    | cons e es ih =>
      intro l
      rw [List.foldl_cons, ih]
      split
      · exact elemSet_length _ _ _ _
      · rfl
  unfold StitchRun.write StitchRun.setVec StitchRun.vec
  by_cases hd : d = 0
  · simp only [hd, if_true]; exact hfold _ _
  · simp only [hd, if_false]

/-- An operation writes elements of one vector, or of a mask alone (Table 12-4). -/
theorem StitchRun.eff_cases (r : StitchRun) (i : Instr) : (∃ d p f, r.eff i = r.write d p f) ∨ ∃ m, r.eff i = { r with m := m } := by
  unfold StitchRun.eff
  split
  case h_16 | h_17 | h_18 | h_19 | h_20 | h_21 => exact .inr ⟨_, rfl⟩
  case h_24 => exact .inr ⟨r.m, rfl⟩
  all_goals exact .inl ⟨_, _, _, rfl⟩

theorem StitchRun.eff_line_length (r : StitchRun) (i : Instr) : (r.eff i).l.length = r.l.length := by
  obtain ⟨d, p, f, h⟩ | ⟨m, h⟩ := r.eff_cases i
  · rw [h, StitchRun.write_line_length]
  · rw [h]

theorem StitchRun.all_length (is : List Instr) (r : StitchRun) (line : List W32) (h : r.all is = some line) : line.length = r.l.length := by
  fun_induction StitchRun.all r is with
  | case1 => cases h
  | case2 r => cases h; rfl
  | case3 => cases h
  | case4 r i is _ _ ih => rw [ih h, StitchRun.eff_line_length]

theorem StitchRun.result_fst (is : List Instr) (r : StitchRun) : (r.result is).1 = r.all is := by
  fun_induction StitchRun.all r is with
  | case1 => rfl
  | case2 r => rfl
  | case3 => rfl
  | case4 r i is hc ha ih => rw [StitchRun.result, ih] <;> assumption

theorem StitchRun.ofSlot_line (slot : Nat) (r : StitchRun) : (r.ofSlot slot).l = r.l := by
  unfold StitchRun.ofSlot
  split <;> rfl

/-! ## An invocation at its home (12 R214, R219, R222) -/

/-- The routine that the home has for a device's slot (12 R219). -/
def State.cachedRoutine? (s : State) (dev ctx slot key : Nat) : Option Routine :=
  (routineUnit key).bind fun u => s.routines.find? (Routine.is u dev ctx slot)

/-- The routine that an invocation runs: the one that the home has, else the one that the table gives. -/
def State.routineFound? (s : State) (dev ctx slot key : Nat) (miss : Option (Bool × List Nat)) : Option (Bool × List Nat) :=
  match s.cachedRoutine? dev ctx slot key with
  | some r => some (r.wide, r.words)
  | none => miss

/-- The routine is read from this device's table, and with an uncorrectable error. -/
def State.ReadsBad (s : State) (dev ctx slot key : Nat) : Prop :=
  s.cachedRoutine? dev ctx slot key = none ∧ dev = s.dev.devid ∧ s.routineErrors.contains (ctx, slot) = true

/-- Nothing stops the invocation, whose routine is the one given. -/
structure State.Invokes (s : State) (dev ctx slot key : Nat) (miss : Option (Bool × List Nat)) (wide : Bool) (code : List Nat) : Prop where
  good : s.bad key = false
  found : s.routineFound? dev ctx slot key miss = some (wide, code)
  reads : ¬ s.ReadsBad dev ctx slot key
  line : key / 128 ∉ s.lineErrors

theorem State.invoke_eq (dev ctx slot va key : Nat) (miss : Option (Bool × List Nat)) (s : State) :
    s.invoke dev ctx slot va key miss =
      if s.bad key then .stops (machineCheck 2 key) s
      else match s.routineFound? dev ctx slot key miss with
        | none => .stops { kind := 15, d0 := BitVec.ofNat 64 va, d1 := BitVec.ofNat 32 slot } s
        | some (wide, words) =>
          if (s.cachedRoutine? dev ctx slot key).isNone && dev == s.dev.devid && s.routineErrors.contains (ctx, slot) then
            .stops (machineCheck 1 key) s
          else
            let s1 := match routineUnit key with
              | some u => s.routineUsed { unit := u, dev := dev, ctx := ctx, slot := slot, wide := wide, words := words }
              | none => s
            if s1.lineErrors.contains (key / 128) then .stops (machineCheck 0 key) (s1.poison (key / 128)) else .runs wide words s1 := rfl

/-- A home that has a routine in its cache has nothing else changed. -/
theorem State.routineUsed_keeps (u : Option Nat) (f : Nat → Routine) (s : State) :
    let s1 := match u with
      | some u => s.routineUsed (f u)
      | none => s
    HomesKeep s s1 ∧ s1.poisoned = s.poisoned ∧ s1.lineErrors = s.lineErrors := by
  cases u <;> exact ⟨⟨rfl, rfl, rfl⟩, rfl, rfl⟩

/-- What an invocation comes to: it stops with memory as it was, or the routine found runs. -/
theorem State.invoke_cases (dev ctx slot va key : Nat) (miss : Option (Bool × List Nat)) (s : State) :
    (∃ t u, s.invoke dev ctx slot va key miss = .stops t u ∧ HomesKeep s u ∧ ∀ wide code, ¬ s.Invokes dev ctx slot key miss wide code) ∨
    ∃ wide code u, s.invoke dev ctx slot va key miss = .runs wide code u ∧ HomesKeep s u ∧ u.poisoned = s.poisoned ∧
      s.Invokes dev ctx slot key miss wide code := by
  rw [State.invoke_eq]
  by_cases hbad : s.bad key = true
  · exact .inl ⟨_, _, if_pos hbad, .refl s, fun _ _ h => by simp [h.good] at hbad⟩
  rw [if_neg hbad]
  cases hfound : s.routineFound? dev ctx slot key miss with
  | none => exact .inl ⟨_, _, rfl, .refl s, fun _ _ h => by cases hfound.symm.trans h.found⟩
  | some found =>
    obtain ⟨wide, code⟩ := found
    simp only []
    by_cases hreads : ((s.cachedRoutine? dev ctx slot key).isNone && dev == s.dev.devid && s.routineErrors.contains (ctx, slot)) = true
    · refine .inl ⟨_, _, if_pos hreads, .refl s, fun _ _ h => h.reads ?_⟩
      simpa [State.ReadsBad, and_assoc] using hreads
    rw [if_neg hreads]
    obtain ⟨hkeep, hpoison, hlines⟩ := s.routineUsed_keeps (routineUnit key) fun u =>
      { unit := u, dev := dev, ctx := ctx, slot := slot, wide := wide, words := code }
    simp only [hlines]
    by_cases hline : s.lineErrors.contains (key / 128) = true
    · exact .inl ⟨_, _, if_pos hline, hkeep.trans ⟨rfl, rfl, rfl⟩, fun _ _ h => h.line (by simpa using hline)⟩
    · exact .inr ⟨wide, code, _, if_neg hline, hkeep, hpoison, by simpa using hbad, hfound,
        fun h => hreads (by simpa [State.ReadsBad, and_assoc] using h), by simpa using hline⟩

theorem State.Invokes.unique {s : State} {dev ctx slot key : Nat} {miss : Option (Bool × List Nat)} {w w' : Bool} {c c' : List Nat}
    (h : s.Invokes dev ctx slot key miss w c) (h' : s.Invokes dev ctx slot key miss w' c') : w = w' ∧ c = c' :=
  Prod.mk.inj (Option.some.inj (h.found.symm.trans h'.found))

theorem not_poisoned_of_good {s : State} {key : Nat} (h : s.bad key = false) : key / 128 ∉ s.poisoned := by
  rw [State.bad, Bool.or_eq_false_iff] at h
  simpa using h.1

/-! ## A stitch of a peer at its home here (19 R291, 12 R221) -/

/-- The routine of a peer's stitch at its start. -/
def linkRun (m : Memory) (slot pa : Nat) (ops : List W32) (wide : Bool) (code : List Nat) : StitchRun :=
  (startRun m 0 0 0 0 0 0 pa wide code ops).ofSlot slot

/-- What a peer's stitch leaves of what its invocation comes to: its line form adds the words of the mask, another one runs whole. -/
def linkStitched (slot pa : Nat) (req : PeerReq) (x : Invoked) : State :=
  match req.m0 with
  | some m => (addInto (slot == 5) (lineFormCells pa m req.ops) x).2
  | none => State.invokeWhole slot pa req.ops x

theorem linkStitched_stops (slot pa : Nat) (req : PeerReq) (t : Trap) (u : State) : linkStitched slot pa req (.stops t u) = u := by
  unfold linkStitched
  split <;> rfl

theorem linkStitched_adds {slot pa : Nat} {req : PeerReq} {m : W32} (hm : req.m0 = some m) (wide : Bool) (code : List Nat) (u : State) :
    linkStitched slot pa req (.runs wide code u) =
      { u with mem := addCells (slot == 5) (lineFormCells pa m req.ops) u.mem }.unrel (lineFormCells pa m req.ops) := by
  rw [linkStitched, hm]
  rfl

theorem linkStitched_whole {slot pa : Nat} {req : PeerReq} (hm : req.m0 = none) (wide : Bool) (code : List Nat) (u : State) :
    linkStitched slot pa req (.runs wide code u) =
      match (linkRun u.mem slot pa req.ops wide code).all (decodeAll (linkRun u.mem slot pa req.ops wide code).code) with
      | some line => u.commitLine pa line
      | none => u := by
  rw [linkStitched, hm]
  rfl

theorem linkRun_line_length {m : Memory} {slot pa : Nat} {ops : List W32} {wide : Bool} {code : List Nat} {is : List Instr} {line : List W32}
    (h : (linkRun m slot pa ops wide code).all is = some line) : line.length = 32 := by
  rw [StitchRun.all_length is _ line h, linkRun, StitchRun.ofSlot_line]
  simp [startRun, lineWords]

/-- What a peer's stitch leaves: the group in focus and the routine in hand; bytes outside its line; memory, where something stops it; and what
the line form or the routine makes of the line (12 R221, 19 R291). -/
structure LinkStitch (s t : State) (dev ctx slot pa : Nat) (miss : Option (Bool × List Nat)) (req : PeerReq) : Prop where
  grp : t.grp = s.grp
  run : t.run = s.run
  outside : ∀ a, a / 128 ≠ pa / 128 → t.mem.byte a = s.mem.byte a
  stopped : (∀ wide code, ¬ s.Invokes dev ctx slot pa miss wide code) → t.mem = s.mem
  adds : ∀ wide code m, s.Invokes dev ctx slot pa miss wide code → req.m0 = some m →
    t.mem = addCells (slot == 5) (lineFormCells pa m req.ops) s.mem
  aborts : ∀ wide code, s.Invokes dev ctx slot pa miss wide code → req.m0 = none →
    let r := linkRun s.mem slot pa req.ops wide code
    r.all (decodeAll r.code) = none → t.mem = s.mem
  commits : ∀ wide code line, s.Invokes dev ctx slot pa miss wide code → req.m0 = none →
    let r := linkRun s.mem slot pa req.ops wide code
    r.all (decodeAll r.code) = some line → ∀ a, a / 128 = pa / 128 → t.mem.byte a = wordsByte line a

section
variable {s u : State} {dev ctx slot pa : Nat} {miss : Option (Bool × List Nat)} {req : PeerReq} {wide : Bool} {code : List Nat}

theorem linkStitch_of_stops (hkeep : HomesKeep s u) (hstop : ∀ wide code, ¬ s.Invokes dev ctx slot pa miss wide code) :
    LinkStitch s u dev ctx slot pa miss req where
  grp := hkeep.grp
  run := hkeep.run
  outside := fun a _ => by rw [hkeep.mem]
  stopped := fun _ => hkeep.mem
  adds := fun w c _ h => absurd h (hstop w c)
  aborts := fun w c h => absurd h (hstop w c)
  commits := fun w c _ h => absurd h (hstop w c)

variable (hkeep : HomesKeep s u) (hruns : s.Invokes dev ctx slot pa miss wide code)
include hkeep hruns

theorem linkStitch_of_adds {m : W32} (hm : req.m0 = some m) :
    LinkStitch s (linkStitched slot pa req (.runs wide code u)) dev ctx slot pa miss req := by
  have hnot : req.m0 ≠ none := by simp [hm]
  rw [linkStitched_adds hm]
  exact {
    grp := hkeep.grp
    run := hkeep.run
    outside := fun a ha => (addCells_lineForm_other _ pa m req.ops u.mem a ha).trans (by rw [hkeep.mem])
    stopped := fun h => absurd hruns (h wide code)
    adds := fun _ _ m' _ hm' => by
      cases hm.symm.trans hm'
      exact congrArg (addCells _ _) hkeep.mem
    aborts := fun _ _ _ h => absurd h hnot
    commits := fun _ _ _ _ h => absurd h hnot }

theorem linkStitch_of_whole (hm : req.m0 = none) (hmay : pa / 128 ∉ u.poisoned) :
    LinkStitch s (linkStitched slot pa req (.runs wide code u)) dev ctx slot pa miss req := by
  have hnot : ∀ m, req.m0 ≠ some m := by simp [hm]
  rw [linkStitched_whole hm, hkeep.mem]
  cases hall : (linkRun s.mem slot pa req.ops wide code).all (decodeAll (linkRun s.mem slot pa req.ops wide code).code) with
  | none =>
    exact {
      grp := hkeep.grp
      run := hkeep.run
      outside := fun a _ => by rw [hkeep.mem]
      stopped := fun _ => hkeep.mem
      adds := fun _ _ m _ h => absurd h (hnot m)
      aborts := fun _ _ _ _ _ => hkeep.mem
      commits := fun w c line h _ hl => by
        obtain ⟨rfl, rfl⟩ := hruns.unique h
        cases hall.symm.trans hl }
  | some line =>
    have hbyte := u.commitLine_byte pa line (linkRun_line_length hall) hmay
    exact {
      grp := hkeep.grp
      run := hkeep.run
      outside := fun a ha => by rw [hbyte, if_neg ha, hkeep.mem]
      stopped := fun h => absurd hruns (h wide code)
      adds := fun _ _ m _ h => absurd h (hnot m)
      aborts := fun w c h _ hl => by
        obtain ⟨rfl, rfl⟩ := hruns.unique h
        cases hall.symm.trans hl
      commits := fun w c line' h _ hl a ha => by
        obtain ⟨rfl, rfl⟩ := hruns.unique h
        cases hall.symm.trans hl
        rw [hbyte, if_pos ha] }

end

theorem linkStitched_spec (dev ctx slot pa : Nat) (miss : Option (Bool × List Nat)) (req : PeerReq) (s : State) :
    LinkStitch s (linkStitched slot pa req (s.invoke dev ctx slot 0 pa miss)) dev ctx slot pa miss req := by
  obtain ⟨t, u, hx, hkeep, hstop⟩ | ⟨wide, code, u, hx, hkeep, hpoison, hruns⟩ := s.invoke_cases dev ctx slot 0 pa miss
  · rw [hx, linkStitched_stops]
    exact linkStitch_of_stops hkeep hstop
  · rw [hx]
    cases hm : req.m0 with
    | some m => exact linkStitch_of_adds hkeep hruns hm
    | none => exact linkStitch_of_whole hkeep hruns hm (hpoison ▸ not_poisoned_of_good hruns.good)

/-! ## The requests of a peer (19 R291, 13 Table 13-2) -/

theorem State.served_of_idle {s : State} (h : s.run = none) (key : Nat) : s.served key = true := by
  rw [State.served, h]

theorem isLocal_of_lt {key : Nat} (h : key < 2 ^ 39) : isLocal key = true := decide_eq_true h

theorem routineUnit_of_local {key : Nat} (h : key < 2 ^ 39) : routineUnit key = some (homeUnit key) := if_pos (isLocal_of_lt h)

section
variable {both pa n : Nat} {req : PeerReq} {s : State}

theorem exec_linkRequest_frees (w st : Bool) (hs : s.dev.state = 2) (hf : req.frees = true) :
    exec (.linkRequest w st both pa n req) s = .next (s.dropRoutine req.dev (both / 256) (both % 256)) := by
  show execLinkRequest w st both pa n req s = _
  simp [execLinkRequest, hs, hf]

variable (hs : s.dev.state = 2) (hf : req.frees = false) (hpa : pa < 2 ^ 39) (hrun : s.run = none)
include hs hf hpa hrun

theorem exec_linkRequest_read :
    exec (.linkRequest false false both pa n req) s = .next (s.request (peerReq (both / 256) pa false false req)) := by
  show execLinkRequest false false both pa n req s = _
  simp [execLinkRequest, hs, hf, isLocal_of_lt hpa, State.served_of_idle hrun]

theorem exec_linkRequest_write :
    exec (.linkRequest true false both pa n req) s =
      .next ((s.request (peerReq (both / 256) pa true false req)).writeMem (peerCells pa n req.ops)) := by
  show execLinkRequest true false both pa n req s = _
  simp [execLinkRequest, hs, hf, isLocal_of_lt hpa, State.served_of_idle hrun, peerCells]

theorem exec_linkRequest_stitch (w : Bool) :
    exec (.linkRequest w true both pa n req) s = .next (match s.bring (peerReq (both / 256) pa w true req) with
      | none => s
      | some s1 => linkStitched (both % 256) pa req
          (s1.invoke req.dev (both / 256) (both % 256) 0 pa (s1.routineFor (both / 256) (both % 256) req))) := by
  show execLinkRequest w true both pa n req s = _
  simp only [execLinkRequest, hs, hf, isLocal_of_lt hpa, State.served_of_idle hrun, ne_eq, not_true_eq_false, if_false, Bool.false_eq_true,
    Bool.not_true, Bool.or_self, if_true]
  rfl

end

/-! ## An access to a silent peer (19 R291, 12 R222, 17 R268) -/

/-- PEER_TIMEOUT fails the group's first access at that peer. -/
theorem exec_peerTimeout (dev c k i : Nat) (s x : State) (p : Pend)
    (hx : InFocus c k i (s.onDev fun d => { d with unreachable := if d.unreachable.contains dev then d.unreachable else d.unreachable ++ [dev] }) x)
    (hp : x.grp.pend.find? (fun p => (p.kind.peerKey dev).isSome) = some p) :
    exec (.peerTimeout dev c k i) s = .next (back
      (s.onDev fun d => { d with unreachable := if d.unreachable.contains dev then d.unreachable else d.unreachable ++ [dev] }) x
      (x.peerFails dev p)) := by
  obtain ⟨rfl, hlive, his⟩ := hx
  show execPeerTimeout dev c k i s = _
  rw [execPeerTimeout, State.withFocus_here _ _ _ _ _ (by rw [hlive, his]; rfl)]
  simp only [hlive, his, Bool.and_self, Bool.not_true, Bool.false_eq_true, if_false, hp]
  rfl

theorem State.peerFails_other (dev key : Nat) (p : Pend) (s : State) (hk : p.kind.peerKey dev = some key)
    (h : ∀ sl sc rv zero lanes, p.kind ≠ .stch sl sc rv zero lanes) :
    s.peerFails dev p =
      (((s.onCore (Core.l1Drop p.kind.storeLines)).faultAt p (machineCheck 2 key)).onGrp fun g => g.dropPend p.seq).reap := by
  unfold State.peerFails
  split
  case h_1 sl sc rv zero lanes hkind => exact absurd hkind (h sl sc rv zero lanes)
  case h_2 => rw [hk]; rfl

theorem State.peerFails_stch {dev : Nat} {p : Pend} {sl : Nat} {sc : Scope} {rv : VReg} {zero : W32} {lanes : List (LaneAcc × List W32)} (s : State)
    (h : p.kind = .stch sl sc rv zero lanes) :
    s.peerFails dev p =
      (lanes.filter fun x => atPeer dev x.1.key).foldl (fun s x => s.laneStops p x.1.lane (machineCheck 2 x.1.key)) s := by
  unfold State.peerFails
  rw [h]

/-- Of a pending STCH the lanes that `gone` picks have stopped since x, and the others are as they were, with memory: its lanes left, and the
registers of all but those that stopped lanes write. -/
structure LanesStopped (seq sl : Nat) (sc : Scope) (rv : VReg) (zero : W32) (lanes : List (LaneAcc × List W32)) (gone : Nat → Bool)
    (x y : State) : Prop where
  mem : y.mem = x.mem
  left : ∃ q, y.grp.findPend? seq = some q ∧ q.kind = .stch sl sc rv zero (lanes.filter fun z => !gone z.1.lane)
  regs : ∀ r l, l < 32 → (gone l = false ∨ r < rv.val ∨ rv.val + 4 ≤ r) → y.grp.V r l = x.grp.V r l

theorem Group.laneDone_stch {seq lane sl : Nat} {ws : List W32} {g : Group} {q : Pend} {sc : Scope} {rv : VReg} {zero : W32}
    {lanes : List (LaneAcc × List W32)} (hq : g.findPend? seq = some q) (hk : q.kind = .stch sl sc rv zero lanes) :
    g.laneDone seq lane ws = (g.stitched rv zero lane ws).updPend seq fun p =>
      { p with kind := .stch sl sc rv zero (lanes.filter fun x => x.1.lane != lane) } := by
  simp only [Group.laneDone, hq, hk]

theorem Group.stitched_eq (rv : VReg) (zero : W32) (lane : Nat) (ws : List W32) (g : Group) :
    ∃ m, g.stitched rv zero lane ws = { g with v := m } := by
  have h := setV_lanes_eq rv.val 4 (fun _ i => if zero.getLsbD lane then 0 else ws.getD i 0) [lane] g
  rwa [List.foldl_cons, List.foldl_nil] at h

theorem Group.stitched_pend (rv : VReg) (zero : W32) (lane : Nat) (ws : List W32) (g : Group) : (g.stitched rv zero lane ws).pend = g.pend := by
  obtain ⟨m, h⟩ := g.stitched_eq rv zero lane ws
  rw [h]

theorem Group.stitched_susp (rv : VReg) (zero : W32) (lane : Nat) (ws : List W32) (g : Group) : (g.stitched rv zero lane ws).susp = g.susp := by
  obtain ⟨m, h⟩ := g.stitched_eq rv zero lane ws
  rw [h]

theorem Group.stitched_V (rv : VReg) (zero : W32) (lane : Nat) (ws : List W32) (g : Group) (r l : Nat) (hlane : lane < 32) (hl : l < 32)
    (h : l ≠ lane ∨ r < rv.val ∨ rv.val + 4 ≤ r) : (g.stitched rv zero lane ws).V r l = g.V r l := by
  rw [Group.stitched, setV_fold rv.val 4 lane hlane (fun i => if zero.getLsbD lane then 0 else ws.getD i 0) g r l hl, if_neg (by omega)]

theorem Group.laneDone_susp (seq lane : Nat) (ws : List W32) (g : Group) : (g.laneDone seq lane ws).susp = g.susp := by
  unfold Group.laneDone
  split
  · rfl
  · split
    · rw [Group.updPend, Group.stitched_susp]
    · rfl

/-- A lane's invocation stops in a group that the fault has stopped and that has its pending operations and registers still. -/
theorem State.laneStops_grp (p : Pend) (lane : Nat) (t : Trap) (s : State) :
    ∃ (g : Group) (ws : List W32), (s.laneStops p lane t).grp = g.laneDone p.seq lane ws ∧
      g.pend = s.grp.pend ∧ g.v = s.grp.v ∧ g.susp = .stopped :=
  ⟨_, _, rfl, rfl, rfl, rfl⟩

theorem State.laneStops_susp (p : Pend) (lane : Nat) (t : Trap) (s : State) : (s.laneStops p lane t).grp.susp = .stopped := by
  obtain ⟨g, ws, hgrp, -, -, hsusp⟩ := s.laneStops_grp p lane t
  rw [hgrp, Group.laneDone_susp, hsusp]

section
variable {p : Pend} {sl : Nat} {sc : Scope} {rv : VReg} {zero : W32} {lanes : List (LaneAcc × List W32)} {gone : Nat → Bool} {x y : State}

/-- One more lane stops. -/
theorem LanesStopped.laneStops (h : LanesStopped p.seq sl sc rv zero lanes gone x y) (lane : Nat) (t : Trap) (hlane : lane < 32) :
    LanesStopped p.seq sl sc rv zero lanes (fun l => gone l || lane == l) x (y.laneStops p lane t) := by
  obtain ⟨q, hq, hk⟩ := h.left
  obtain ⟨g, ws, hgrp, hpend, hv, -⟩ := y.laneStops_grp p lane t
  have hfind : g.findPend? p.seq = some q := by rw [Group.findPend?, hpend]; exact hq
  rw [Group.laneDone_stch hfind hk] at hgrp
  refine ⟨h.mem, ?_, fun r l hl hr => ?_⟩
  · rw [hgrp]
    refine ⟨_, Group.updPend_find _ p.seq _ q ?_ fun _ => rfl, ?_⟩
    · rw [Group.findPend?, Group.stitched_pend]
      exact hfind
    · simp only [List.filter_filter, Bool.not_or, bne, Bool.and_comm, BEq.comm (b := lane)]
  · have hothers : gone l = false ∧ l ≠ lane ∨ r < rv.val ∨ rv.val + 4 ≤ r := by
      simpa [eq_comm (a := lane)] using hr
    calc (y.laneStops p lane t).grp.V r l
        = (g.stitched rv zero lane ws).V r l := by rw [hgrp]; rfl
      _ = g.V r l := Group.stitched_V rv zero lane ws g r l hlane hl (hothers.imp_left And.right)
      _ = y.grp.V r l := by rw [Group.V, hv]; rfl
      _ = x.grp.V r l := h.regs r l hl (hothers.imp_left And.left)

theorem LanesStopped.foldl (dead : List (LaneAcc × List W32)) (hlane : ∀ z ∈ dead, z.1.lane < 32)
    (h : LanesStopped p.seq sl sc rv zero lanes gone x y) :
    LanesStopped p.seq sl sc rv zero lanes (fun l => gone l || dead.any fun z => z.1.lane == l) x
      (dead.foldl (fun s z => s.laneStops p z.1.lane (machineCheck 2 z.1.key)) y) := by
  induction dead generalizing y gone with
  | nil => simpa using h
  | cons z dead ih =>
    rw [List.foldl_cons]
    have hrest := ih (fun z' hz' => hlane z' (List.mem_cons_of_mem z hz'))
      (h.laneStops z.1.lane (machineCheck 2 z.1.key) (hlane z List.mem_cons_self))
    simpa only [List.any_cons, Bool.or_assoc] using hrest

end

theorem laneStops_foldl_susp (p : Pend) (dead : List (LaneAcc × List W32)) (y : State) (h : dead ≠ [] ∨ y.grp.susp = .stopped) :
    (dead.foldl (fun s z => s.laneStops p z.1.lane (machineCheck 2 z.1.key)) y).grp.susp = .stopped := by
  induction dead generalizing y with
  | nil => simpa using h
  | cons z dead ih => exact ih _ (.inr (State.laneStops_susp p _ _ y))

/-- Of a STCH the lanes at a silent peer stop, and its group with them; the others go on (12 R222). -/
theorem State.peerFails_stch_spec {dev key : Nat} {p : Pend} {sl : Nat} {sc : Scope} {rv : VReg} {zero : W32} {lanes : List (LaneAcc × List W32)}
    (x : State) (hk : p.kind = .stch sl sc rv zero lanes) (hkey : p.kind.peerKey dev = some key) (hp : x.grp.findPend? p.seq = some p)
    (hlane : ∀ z ∈ lanes, z.1.lane < 32) :
    (x.peerFails dev p).grp.susp = .stopped ∧
      LanesStopped p.seq sl sc rv zero lanes (fun l => lanes.any fun z => atPeer dev z.1.key && z.1.lane == l) x (x.peerFails dev p) := by
  have hnone : (lanes.filter fun _ => !false) = lanes := List.filter_eq_self.2 fun _ _ => rfl
  have hstart : LanesStopped p.seq sl sc rv zero lanes (fun _ => false) x x :=
    ⟨rfl, ⟨p, hp, hk.trans (congrArg (PKind.stch sl sc rv zero) hnone.symm)⟩, fun _ _ _ _ => rfl⟩
  have hsome : lanes.filter (fun z => atPeer dev z.1.key) ≠ [] := by
    rw [hk, PKind.peerKey, Option.map_eq_some_iff] at hkey
    obtain ⟨z, hz, -⟩ := hkey
    exact List.ne_nil_of_mem (List.mem_filter.2 ⟨List.mem_of_find?_eq_some hz, by simpa using List.find?_some hz⟩)
  rw [State.peerFails_stch x hk]
  refine ⟨laneStops_foldl_susp p _ x (.inl hsome), ?_⟩
  have hall := hstart.foldl (lanes.filter fun z => atPeer dev z.1.key) fun z hz => hlane z (List.mem_filter.1 hz).1
  simpa only [List.any_filter, Bool.false_or] using hall

/-! ## Liveness (19 R293, R294) -/

theorem addNew_eq_askedBy (w : Nat) (l : List Nat) : addNew w l = askedBy w l := by
  simp [addNew, askedBy]

theorem majority_iff (n nw : Nat) : majority n nw = true ↔ nw < 2 * n := by
  rw [majority, decide_eq_true_iff]

theorem verified_iff (s : State) (what w : Nat) (sig : List Byte) : s.dev.record.verified what w sig = true ↔ SignedBy s what w sig := by
  simp only [Record.verified, SignedBy, List.any_eq_true, Bool.and_eq_true, beq_iff_eq]

theorem exec_resetRequest_unsigned (w : Nat) (sig : List Byte) (s : State) (h : ¬ SignedBy s 0 w sig) : exec (.resetRequest w sig) s = .next s := by
  rw [← verified_iff, Bool.not_eq_true] at h
  show execResetRequest w sig s = _
  simp [execResetRequest, h]

theorem exec_resetRequest_signed (w : Nat) (sig : List Byte) (s : State) (hs : s.dev.state ≠ 0) (h : SignedBy s 0 w sig) :
    exec (.resetRequest w sig) s = .next (if s.dev.record.nw < 2 * (askedBy w s.dev.resetReqs).length then s.resetParts
      else s.onDev fun d => { d with resetReqs := askedBy w s.dev.resetReqs }) := by
  rw [← verified_iff] at h
  show execResetRequest w sig s = _
  simp [execResetRequest, hs, h, addNew_eq_askedBy, majority_iff]

theorem exec_freezeRequest_stopped (key w : Nat) (sig : List Byte) (s : State) (hs : s.dev.state ≠ 2) :
    exec (.freezeRequest key w sig) s = .next s := by
  show execFreezeRequest key w sig s = _
  rw [execFreezeRequest, if_pos hs]

theorem exec_freezeRequest_key (key w : Nat) (sig : List Byte) (s : State) (hs : s.dev.state = 2) (k : Nat) (hk : s.dev.record.fkeys[key]? = some k) :
    exec (.freezeRequest key w sig) s = .next (if Config.verifies k [1] sig then s.freeze 3 else s) := by
  show execFreezeRequest key w sig s = _
  rw [execFreezeRequest, if_neg (not_not_intro hs), hk]
  rfl

theorem exec_freezeRequest_watcher (key w : Nat) (sig : List Byte) (s : State) (hs : s.dev.state = 2) (hk : s.dev.record.fkeys[key]? = none)
    (h : SignedBy s 1 w sig) :
    exec (.freezeRequest key w sig) s = .next (
      let t := s.onDev fun d => { d with freezeReqs := askedBy w s.dev.freezeReqs }
      if s.dev.record.nw < 2 * (askedBy w s.dev.freezeReqs).length then t.freeze 3 else t) := by
  rw [← verified_iff] at h
  show execFreezeRequest key w sig s = _
  simp [execFreezeRequest, hs, hk, h, addNew_eq_askedBy, majority_iff]

theorem liveness : Liveness := by
  intro s
  refine ⟨fun hs => ?_, fun hs => ?_, fun d => ?_, fun w sig hs hsig => ⟨fun hfew => ?_, fun hmany => ?_⟩,
    fun w sig => exec_resetRequest_unsigned w sig s, fun key w sig => exec_freezeRequest_stopped key w sig s,
    fun key w sig hs => ⟨fun k hk => ⟨fun hv => ?_, fun hv => ?_⟩, exec_freezeRequest_watcher key w sig s hs⟩⟩
  · exact congrArg Host.Outcome.next (if_pos hs)
  · exact congrArg Host.Outcome.next (if_neg hs)
  · rfl
  · rw [exec_resetRequest_signed w sig s hs hsig, if_neg (Nat.not_lt.2 hfew)]
    rfl
  · rw [exec_resetRequest_signed w sig s hs hsig, if_pos hmany]
    exact ⟨_, rfl, rfl, rfl, rfl, rfl, rfl, rfl, rfl, rfl, rfl, rfl, rfl, rfl, rfl⟩
  · rw [exec_freezeRequest_key key w sig s hs k hk, if_pos hv]
    rfl
  · rw [exec_freezeRequest_key key w sig s hs k hk, hv]
    rfl

/-! ## Power and clocks (01 R24, R25) -/

/-- A cell on the die is being saved (01 R24). -/
def State.SavesOn (s : State) (die : Nat) : Prop := ∃ c ∈ s.cells, c.die = die ∧ c.halting = true

theorem State.sliceFloor_of_saves {s : State} {die : Nat} (h : s.SavesOn die) (mhz : Nat) : s.sliceFloor die mhz = max 2600 mhz := by
  obtain ⟨c, hc, hdie, hhalt⟩ := h
  exact if_pos (List.any_eq_true.2 ⟨c, hc, by simp [hdie, hhalt]⟩)

theorem State.sliceFloor_of_not_saves {s : State} {die : Nat} (h : ¬ s.SavesOn die) (mhz : Nat) : s.sliceFloor die mhz = mhz := by
  refine if_neg fun hany => h ?_
  obtain ⟨c, hc, hb⟩ := List.any_eq_true.1 hany
  exact ⟨c, hc, by simpa using hb⟩

theorem State.limit_locked {s : State} (hs : s.dev.state = 2) (hl : s.dev.locked = true) (a b : Nat) : s.limit a b = s.freeze 2 := by
  simp [State.limit, hs, hl]

theorem State.limit_unlocked {s : State} (hs : s.dev.state = 2) (hl : s.dev.locked = false) (a b : Nat) : s.limit a b = s.lowerClocks a b := by
  simp [State.limit, hs, hl]

/-- The slice clock of a die after a limit. -/
theorem State.lowerClocks_slice (a b : Nat) (s : State) (j x : Nat) (hx : s.dev.sliceMhz[j]? = some x) :
    (s.lowerClocks a b).dev.sliceMhz[j]? = some (max (min b x) (min x (s.sliceFloor j 0))) := by
  show ((s.dev.sliceMhz.zipIdx.map fun x => Nat.max (Nat.min b x.1) (Nat.min x.1 (s.sliceFloor x.2 0)))[j]?) = _
  rw [List.getElem?_map, List.getElem?_zipIdx, hx]
  simp

/-- What lower clocks are (Table 1-4): none rises, and the slice clock of a die with a cell that is saved stays at 2,600 MHz or where it was. -/
theorem State.lowerClocks_slice_bounds (a b : Nat) (s : State) (j x : Nat) (hx : s.dev.sliceMhz[j]? = some x) :
    ∃ y, (s.lowerClocks a b).dev.sliceMhz[j]? = some y ∧ y ≤ x ∧
      (y = min b x ∨ (s.SavesOn j ∧ y = min x (max b 2600) ∧ min b x ≤ y)) := by
  refine ⟨_, s.lowerClocks_slice a b j x hx, by omega, ?_⟩
  by_cases hsave : s.SavesOn j
  · rw [State.sliceFloor_of_saves hsave]
    exact .inr ⟨hsave, by omega, by omega⟩
  · rw [State.sliceFloor_of_not_saves hsave]
    exact .inl (by omega)

/-- An event of a limit: a thermal trip, with free bounds, or a power limit (01 R25, 19 R294). -/
theorem exec_limit {i : Instr} {a b : Nat} {s : State}
    (h : (i = .thermalTrip ∧ a = Config.tripMhz s.free ∧ b = Config.tripMhz (s.free + 1)) ∨ i = .powerLimit a b) :
    ∃ n, exec i s = .next { s.limit a b with free := n } := by
  obtain ⟨rfl, rfl, rfl⟩ | rfl := h <;> exact ⟨_, rfl⟩

theorem exec_clockChange_locked (d : ClkDom) (j m : Nat) (s : State) (hl : s.dev.locked = true) : exec (.clockChange d j m) s = .next s := by
  show execClockChange d j m s = _
  simp [execClockChange, hl]

theorem exec_clockChange_front (j m : Nat) (s : State) : exec (.clockChange .front j m) s = .next s := by
  show execClockChange .front j m s = _
  simp [execClockChange]

section
variable {s : State} (hs : s.dev.state = 2) (hl : s.dev.locked = false)
include hs hl

theorem exec_clockChange_arith (j m : Nat) (hm : m ≤ 3300) :
    exec (.clockChange .arith j m) s = .next (s.onDev fun d => { d with arithMhz := d.arithMhz.set j m }) := by
  show execClockChange .arith j m s = _
  simp [execClockChange, hs, hl, hm]

theorem exec_clockChange_slice (j m : Nat) (hm : m ≤ 3000) (hfloor : s.sliceFloor j m = m) :
    exec (.clockChange .slice j m) s = .next (s.onDev fun d => { d with sliceMhz := d.sliceMhz.set j m }) := by
  show execClockChange .slice j m s = _
  simp [execClockChange, hs, hl, hm, hfloor]

end

theorem powerEvents : PowerEvents := by
  intro s hs
  refine ⟨fun hl i hi => ?_, fun hl i a b hi => ?_, fun hl d j m => exec_clockChange_locked d j m s hl,
    fun hl j m hm => exec_clockChange_arith hs hl j m hm, fun hl j m hm hsafe => exec_clockChange_slice hs hl j m hm ?_,
    fun j m => exec_clockChange_front j m s⟩
  · have hlimit : ∃ a b n, exec i s = .next { s.limit a b with free := n } := by
      obtain rfl | ⟨a, b, rfl⟩ := hi
      · exact ⟨_, _, exec_limit (.inl ⟨rfl, rfl, rfl⟩)⟩
      · exact ⟨a, b, exec_limit (.inr rfl)⟩
    obtain ⟨a, b, n, hexec⟩ := hlimit
    rw [State.limit_locked hs hl] at hexec
    exact ⟨_, hexec, rfl, rfl, rfl, rfl, rfl⟩
  · obtain ⟨n, hexec⟩ := exec_limit hi
    rw [State.limit_unlocked hs hl] at hexec
    exact ⟨_, hexec, hs, rfl, fun j => List.getElem?_map, s.lowerClocks_slice_bounds a b⟩
  · by_cases hsave : s.SavesOn j
    · obtain ⟨c, hc, hdie, hhalt⟩ := hsave
      have hm2 : 2600 ≤ m := hsafe.resolve_right fun h => h c hc hhalt hdie
      rw [State.sliceFloor_of_saves ⟨c, hc, hdie, hhalt⟩]
      omega
    · exact State.sliceFloor_of_not_saves hsave m

/-! ## Links (19 R290, R291) -/

theorem exec_linkPortTraining (port version lowest : Nat) (s : State) (h : port < 18) :
    exec (.linkPortTraining port version lowest) s = .next (devWith (fun d => { d with
      ports := d.ports.filter (fun p => p.num != port) ++
        [⟨port, decide (1 ≤ min version d.lver ∧ lowest ≤ min version d.lver), min version d.lver, 0⟩] }) s) := by
  show execLinkPortTraining port version lowest s = _
  rw [execLinkPortTraining, if_neg (Nat.not_le.2 h)]
  simp only [Bool.decide_and]
  rfl

/-- A stitch asks for its line alike whether or not it comes as a write. -/
theorem peerReq_stitch (ctx key : Nat) (w : Bool) (a : PeerReq) : peerReq ctx key w true a = peerReq ctx key true true a := by
  simp [peerReq]

theorem linkRequest_write_byte {slot pa n : Nat} {req : PeerReq} {s : State} (hs : s.dev.state = 2) (hf : req.frees = false) (hpa : pa < 2 ^ 39)
    (hrun : s.run = none) (hbad : s.bad pa = false) (hline : pa % 128 + n ≤ 128) (hn : n ≤ 4 * req.ops.length) :
    ∃ t, exec (.linkRequest true false slot pa n req) s = .next t ∧
      ∀ a, t.mem.byte a = if pa ≤ a ∧ a < pa + n then peerByte pa req.ops a else s.mem.byte a := by
  refine ⟨_, exec_linkRequest_write hs hf hpa hrun, fun a => ?_⟩
  obtain ⟨b1, b2, b3, b4, hreq⟩ := State.request_changes (peerReq (slot / 256) pa true false req) s
  rw [hreq]
  exact State.writeMem_peerCells_byte pa n req.ops _ hline hn (not_poisoned_of_good hbad) a

section
variable {w : Bool} {both pa n : Nat} {req : PeerReq} {s : State} (hs : s.dev.state = 2) (hf : req.frees = false) (hpa : pa < 2 ^ 39)
  (hrun : s.run = none)
include hs hf hpa hrun

theorem exec_linkRequest_waits (hbring : s.bring (peerReq (both / 256) pa true true req) = none) :
    exec (.linkRequest w true both pa n req) s = .next s := by
  rw [exec_linkRequest_stitch hs hf hpa hrun w, peerReq_stitch, hbring]

/-- A stitch of a peer whose line is there has, over the state in which its home has brought the line, what its invocation makes of it. -/
theorem exec_linkRequest_stitched {s1 : State} (hbring : s.bring (peerReq (both / 256) pa true true req) = some s1) :
    ∃ t, exec (.linkRequest w true both pa n req) s = .next t ∧
      LinkStitch s1 t req.dev (both / 256) (both % 256) pa (s1.routineFor (both / 256) (both % 256) req) req := by
  refine ⟨_, ?_, linkStitched_spec _ _ _ _ _ _ _⟩
  rw [exec_linkRequest_stitch hs hf hpa hrun w, peerReq_stitch, hbring]

end

theorem LinkStitch.mem_of_stops {s t : State} {dev ctx slot pa : Nat} {miss : Option (Bool × List Nat)} {req : PeerReq}
    (h : LinkStitch s t dev ctx slot pa miss req)
    (hstop : s.bad pa = true ∨ s.routineFound? dev ctx slot pa miss = none ∨ s.ReadsBad dev ctx slot pa ∨ pa / 128 ∈ s.lineErrors) :
    t.mem = s.mem := by
  refine h.stopped fun wide code hinv => ?_
  rcases hstop with hbad | hnone | hreads | hline
  · cases hbad.symm.trans hinv.good
  · cases hnone.symm.trans hinv.found
  · exact hinv.reads hreads
  · exact hinv.line hline

theorem linkEvents : LinkEvents := by
  refine ⟨fun w st both pa n req s hs hf => exec_linkRequest_frees w st hs hf,
    fun slot pa n req s hs hf hpa hrun hbad =>
      ⟨exec_linkRequest_read hs hf hpa hrun, linkRequest_write_byte hs hf hpa hrun hbad⟩,
    fun w both pa n req s hs hf hpa hrun => ⟨exec_linkRequest_waits hs hf hpa hrun, fun s1 hbring => ?_⟩,
    fun dev c k i s s1 x p key hs1 hx hp hkey => ⟨fun hother => ?_, fun sl sc rv zero lanes hk hfind hlane => ?_⟩,
    exec_linkPortTraining, fun port s => rfl⟩
  · intro cached found readsBad
    have hkeep := State.bring_homes _ s s1 hbring
    obtain ⟨t, hexec, hstitch⟩ := exec_linkRequest_stitched (w := w) (n := n) hs hf hpa hrun hbring
    have hcached : s1.cachedRoutine? req.dev (both / 256) (both % 256) pa = cached := by
      rw [State.cachedRoutine?, routineUnit_of_local hpa]
      rfl
    have hfound : s1.routineFound? req.dev (both / 256) (both % 256) pa (s1.routineFor (both / 256) (both % 256) req) = found := by
      rw [State.routineFound?, hcached]
      rfl
    have hreads : s1.ReadsBad req.dev (both / 256) (both % 256) pa ↔ readsBad := by
      rw [State.ReadsBad, hcached]
    refine ⟨t, hexec, hstitch.grp.trans hkeep.grp, (hstitch.run.trans hkeep.run).trans hrun, fun a ha => ?_, fun hstop a => ?_,
      fun wide code hgood hf hr hl => ?_⟩
    · rw [hstitch.outside a ha, hkeep.mem]
    · rw [← hfound, ← hreads] at hstop
      rw [hstitch.mem_of_stops hstop, hkeep.mem]
    · have hinv : s1.Invokes req.dev (both / 256) (both % 256) pa (s1.routineFor (both / 256) (both % 256) req) wide code :=
        ⟨hgood, hfound.trans hf, fun h => hr (hreads.1 h), hl⟩
      simp only [StitchRun.result_fst, ← hkeep.mem]
      refine ⟨fun m hm => hstitch.adds wide code m hinv hm, fun hm => ⟨fun hnone a => ?_, fun line hline _ a ha => ?_⟩⟩
      · rw [hstitch.aborts wide code hinv hm hnone, hkeep.mem]
      · exact hstitch.commits wide code line hinv hm hline a ha
  · subst hs1
    rw [exec_peerTimeout dev c k i s x p hx hp, State.peerFails_other dev key p x hkey hother]
    rfl
  · subst hs1
    obtain ⟨hsusp, hlanes⟩ := x.peerFails_stch_spec hk hkey hfind hlane
    obtain ⟨q, hq, hqk⟩ := hlanes.left
    exact ⟨_, q, exec_peerTimeout dev c k i s x p hx hp, hsusp, hlanes.mem, hq, hqk, hlanes.regs⟩

end Sys2Proof.Machine

/-- Settles O51, event by event: each is its meaning unfolded once, but for a peer's stitch, which rests on what an invocation comes to at its home
(`linkStitched_spec`), and a STCH at a silent peer, whose lanes stop one after another (`LanesStopped.foldl`). -/
theorem linksLivenessPower : Obligations.LinksLivenessPower :=
  ⟨Sys2Proof.Machine.linkEvents, Sys2Proof.Machine.liveness, Sys2Proof.Machine.powerEvents⟩

end
